-- ==== Sys2Proof/Word.lean ====
section
/-! DEFINITION. The two bit widths that travel on the part's serial lines: a byte, and the four-byte value of a
masked write (R170). -/

namespace Sys2Proof

/-- One byte of either serial line (R22, R163). -/
abbrev Byte := BitVec 8

/-- One value of a masked write: four bytes, high byte first, read as a signed number where the field is numeric
(R170). -/
abbrev Word := BitVec 32

end Sys2Proof
end

