-- ==== Sys2Proof/Syntax.lean ====
section
/-! DEFINITION. The commands of the part: one constructor of `Instr` for each row of spec/opcode_table.json. A command
is what reaches the part from outside (a byte or a frame on a line, a pin, the supply) or the moment at which one of its
timers or transmissions ends. The numbers of objects are held from 0, so set 1 is `0 : SetNo` and section A is
`0 : SectionNo`. -/

namespace Sys2Proof

/-- Sets 1 to 8 (R1). -/
abbrev SetNo := Fin 8

/-- Consumers 1 to 48 (R1). -/
abbrev ConsumerNo := Fin 48

/-- Sections A to D (R1). -/
abbrev SectionNo := Fin 4

/-- An island by its name, the lowest section letter it contains (R12). -/
abbrev IslandNo := Fin 4

/-- Ties 1 to 4 (R1). -/
abbrev TieNo := Fin 4

/-- An object of the Plant Image (R1). -/
inductive ObjectRef where
  | set (k : SetNo)
  | consumer (c : ConsumerNo)
  | meter (s : SectionNo)
  | tie (t : TieNo)
deriving DecidableEq, Repr

/-- The commands, in the order of spec/opcode_table.json. A supervisor request carries its frame's tag and the fields of
its payload as they stand on the line (R177, R180). -/
inductive Instr where
  /-- POWER_ON (R188): power is applied with the two rate strap pins as given (R193). -/
  | powerOn (strap1 strap2 : Bool)
  /-- RESET_ASSERT (R188). -/
  | resetAssert
  /-- RESET_RELEASE (R188), with the two rate strap pins as they stand. -/
  | resetRelease (strap1 strap2 : Bool)
  /-- ACQUIRE_TIMER_EXPIRY (R189). -/
  | acquireTimerExpiry
  /-- FIELD_FRAME_HEADER_REJECT (R24): the bytes of a frame from its start mark to the byte that fails. -/
  | fieldFrameHeaderReject (bytes : List Byte)
  /-- FIELD_FRAME_GAP_TIMEOUT (R23). -/
  | fieldFrameGapTimeout
  /-- FIELD_FRAME_RECEIVED (R24): the bytes of a complete frame, from its start mark to its last sum byte. -/
  | fieldFrameReceived (frame : List Byte)
  /-- STALE_TIMER_EXPIRY (R6) of one object. -/
  | staleTimerExpiry (o : ObjectRef)
  /-- ORDER_FRAME_SENT (R33). -/
  | orderFrameSent
  /-- FEEDBACK_TIMEOUT (R37) of a consumer's order. -/
  | feedbackTimeout (c : ConsumerNo)
  /-- START_TIMER_EXPIRY (R46). -/
  | startTimerExpiry (k : SetNo)
  /-- SYNC_TIMER_EXPIRY (R49). -/
  | syncTimerExpiry (k : SetNo)
  /-- OPEN_TIMER_EXPIRY (R54). -/
  | openTimerExpiry (k : SetNo)
  /-- STOP_TIMER_EXPIRY (R55). -/
  | stopTimerExpiry (k : SetNo)
  /-- SHARE_PERIOD (R67) of an island. -/
  | sharePeriod (i : IslandNo)
  /-- SUB_PULSE_START (R93) of a set's plan. -/
  | subPulseStart (k : SetNo)
  /-- SUB_PULSE_END (R93) of a set's plan. -/
  | subPulseEnd (k : SetNo)
  /-- START_CONFIRM_EXPIRY (R108). -/
  | startConfirmExpiry (i : IslandNo)
  /-- STOP_DELAY_EXPIRY (R110). -/
  | stopDelayExpiry (i : IslandNo)
  /-- HEAD_DEADLINE_EXPIRY (R116). -/
  | headDeadlineExpiry (i : IslandNo)
  /-- HOLD_DEADLINE_EXPIRY (R117) of a consumer's grant. -/
  | holdDeadlineExpiry (c : ConsumerNo)
  /-- CHECK_TIMER_EXPIRY (R147). -/
  | checkTimerExpiry (i : IslandNo)
  /-- CONFIRM_TIMER_EXPIRY (R150). -/
  | confirmTimerExpiry (i : IslandNo)
  /-- SETTLE_TIMER_EXPIRY (R151). -/
  | settleTimerExpiry (i : IslandNo)
  /-- RESTORE_TIMER_EXPIRY (R160). -/
  | restoreTimerExpiry (i : IslandNo)
  /-- SUPERVISOR_HEADER_REJECT (R164): the bytes from the start mark to the byte that fails. -/
  | supervisorHeaderReject (bytes : List Byte)
  /-- SUPERVISOR_GAP_TIMEOUT (R164). -/
  | supervisorGapTimeout
  /-- SUPERVISOR_FRAME_RECEIVED (R165): the bytes of a complete frame. -/
  | supervisorFrameReceived (frame : List Byte)
  /-- IDENTIFY (R174). -/
  | identify (tag : Byte)
  /-- READ_PLANT (R174). -/
  | readPlant (tag : Byte)
  /-- READ_FLAGS (R174). -/
  | readFlags (tag : Byte)
  /-- READ_SET (R175). -/
  | readSet (tag set : Byte)
  /-- READ_CONSUMER (R175). -/
  | readConsumer (tag consumer : Byte)
  /-- READ_ISLAND (R176): a section code and a first grant index. -/
  | readIsland (tag sect first : Byte)
  /-- READ_CONTINGENCY (R176): a section code, a set number and a first action index. -/
  | readContingency (tag sect set first : Byte)
  /-- READ_HISTORY (R176): a section code and a first index. -/
  | readHistory (tag sect first : Byte)
  /-- WRITE_SET (R171): the mask and the eleven fields of R41. -/
  | writeSet (tag set : Byte) (mask : BitVec 16) (fields : List Word)
  /-- WRITE_CONSUMER (R134, R172): the mask and ten fields. -/
  | writeConsumer (tag consumer : Byte) (mask : BitVec 16) (fields : List Word)
  /-- WRITE_PLANT (R173): the mask and thirty-four fields. -/
  | writePlant (tag : Byte) (mask : BitVec 64) (fields : List Word)
  /-- PLACE_CONSUMER (R131) with the move indicator clear: a position and nine fields. -/
  | placeConsumer (tag consumer position : Byte) (fields : List Word)
  /-- PLACE_CONSUMER_MOVE (R132): PLACE CONSUMER with the move indicator set. -/
  | placeConsumerMove (tag consumer position : Byte) (fields : List Word)
  /-- REMOVE_CONSUMER (R133). -/
  | removeConsumer (tag consumer : Byte)
  /-- WRITE_STANDBY_ORDER (R101): the set numbers carried. -/
  | writeStandbyOrder (tag : Byte) (sets : List Byte)
  /-- SET_MODE (R62). -/
  | setMode (tag set mode : Byte)
  /-- COMMAND_SET_START (R63). -/
  | commandSetStart (tag set : Byte)
  /-- COMMAND_SET_STOP (R63). -/
  | commandSetStop (tag set : Byte)
  /-- COMMAND_SET_BLOCK (R64). -/
  | commandSetBlock (tag set : Byte)
  /-- COMMAND_SET_RESET (R65). -/
  | commandSetReset (tag set : Byte)
  /-- SHED_CONSUMER (R154). -/
  | shedConsumer (tag consumer : Byte)
  /-- RELEASE_CONSUMER (R155). -/
  | releaseConsumer (tag consumer : Byte)
  /-- RESTORE_STEP (R161): a section code. -/
  | restoreStep (tag sect : Byte)
  /-- CLEAR_FLAGS (R185). -/
  | clearFlags (tag : Byte) (mask : Word)
  /-- ENABLE_FLAGS (R186). -/
  | enableFlags (tag : Byte) (mask : Word)
  /-- GRANT_REPORTS (R184). -/
  | grantReports (tag n : Byte)
  /-- SAVE (R191). -/
  | save (tag : Byte)
  /-- SAVE_COMPLETE (R191): the read-back has been compared, and it matches or it does not. -/
  | saveComplete (readBackMatches : Bool)
  /-- SAVE_TIMEOUT (R191). -/
  | saveTimeout
  /-- RESTART (R178). -/
  | restart (tag : Byte)
  /-- SUPERVISOR_FRAME_SENT (R168). -/
  | supervisorFrameSent
  /-- FIELD_BYTE_RECEIVED (R23). -/
  | fieldByteReceived (b : Byte)
  /-- SUPERVISOR_BYTE_RECEIVED (R164). -/
  | supervisorByteReceived (b : Byte)
  /-- POWER_LOSS (R191). -/
  | powerLoss
deriving DecidableEq, Repr

end Sys2Proof
end

