-- ==== Sys2Proof/Config.lean ====
section
/-! DEFINITION. The fixed figures of the part: queue lengths, intervals and identification, each with the rule that
gives it. The spec leaves no value open that a computation of the part uses, so there is no free value here. -/

namespace Sys2Proof.Config

/-- Part number answered by IDENTIFY (R174). -/
def partNumber : Nat := 4260

/-- Revision number answered by IDENTIFY (R174). -/
def revision : Nat := 1

/-- Start mark of a field frame (R22). -/
def fieldMark : Byte := 165#8

/-- Start mark of a supervisor frame (R163). -/
def supervisorMark : Byte := 90#8

/-- Longest gap between two bytes of a field frame, in ms (R23). -/
def fieldGap : Nat := 2

/-- Longest gap between two bytes of a supervisor frame, in ms (R164). -/
def supervisorGap : Nat := 20

/-- Longest field record area (R24). -/
def fieldAreaMax : Nat := 240

/-- Highest station address (R1). -/
def stationMax : Nat := 62

/-- Stale time of sets and section meters, in ms (1.3). -/
def staleFast : Nat := 400

/-- Stale time of consumers and ties, in ms (1.3). -/
def staleSlow : Nat := 2000

/-- Orders the normal queue holds (R28). -/
def normalMax : Nat := 32

/-- Highest new limit of a LIMIT order, in kW (R27, R40). -/
def limitMax : Nat := 20000

/-- Feedback time of TRIP and LIMIT, in ms (R35). -/
def feedbackShort : Nat := 500

/-- Feedback time of CLOSE, in ms (R35). -/
def feedbackClose : Nat := 1000

/-- Sync timer, in ms (R49). -/
def syncTime : Nat := 60000

/-- Open timer, in ms (R54). -/
def openTime : Nat := 2000

/-- Stop timer, in ms (R55). -/
def stopTime : Nat := 180000

/-- Share period, in ms (R66). -/
def sharePeriod : Nat := 200

/-- Governor sub-period, in ms (R93). -/
def subPeriod : Nat := 50

/-- Longest wait of a ramp-out at Pmin, in ms (R82). -/
def pminWait : Nat := 30000

/-- Largest net pulse of one period, in ms (R91). -/
def pulseMax : Nat := 192

/-- Requests one heavy queue holds (R100). -/
def heavyMax : Nat := 8

/-- Post-shed check timer, in ms (R147). -/
def checkTime : Nat := 1000

/-- Highest steps count (R142). -/
def stepsMax : Nat := 255

/-- Entries the shed list holds (R123). -/
def shedListMax : Nat := 48

/-- Requests of the request queue, and of the busy list (R165). -/
def requestMax : Nat := 4

/-- Reports the report queue holds (R183). -/
def reportMax : Nat := 32

/-- Highest count of a report, and highest report allowance (R182, R184). -/
def countMax : Nat := 255

/-- Acquire timer, in ms (R188). -/
def acquireTime : Nat := 3000

/-- Time within which a SAVE must have compared its copy, in ms (R191). -/
def saveTime : Nat := 800

end Sys2Proof.Config
end

