-- ==== Sys2Proof/Machine/Frames.lean ====
section
/-! DEFINITION. Bytes and frames: numbers as bytes with the high byte first, the 16-bit sum, the checks of an inbound
frame on both lines (R23, R24, R164) and the building of an outbound frame (R40, R180). Nothing here reads or changes
the part's state. -/

namespace Sys2Proof.Machine

/-- The byte whose value is `n` modulo 256. -/
def byteOf (n : Nat) : Byte := BitVec.ofNat 8 n

/-- A number in two bytes, high byte first (R22). -/
def be16 (n : Nat) : List Byte := [byteOf (n / 256), byteOf n]

/-- A number in four bytes, high byte first (R163). -/
def be32 (n : Nat) : List Byte :=
  [byteOf (n / 16777216), byteOf (n / 65536), byteOf (n / 256), byteOf n]

/-- The number that bytes spell, high byte first. -/
def fromBytes (bs : List Byte) : Nat := bs.foldl (fun n b => n * 256 + b.toNat) 0

/-- Sum of bytes modulo 65,536 (R24, R164). -/
def sum16 (bs : List Byte) : Nat := bs.foldl (fun n b => n + b.toNat) 0 % 65536

/-- The last two bytes of a frame hold the sum of all the bytes before them (R24, R164). -/
def sumHolds (frame : List Byte) : Bool :=
  let n := frame.length - 2
  2 ≤ frame.length && fromBytes (frame.drop n) == sum16 (frame.take n)

/-- A frame's bytes with the two sum bytes put behind them (R40, R180). -/
def withSum (bs : List Byte) : List Byte := bs ++ be16 (sum16 bs)

/-- What one arriving byte makes of the frame being assembled: the bytes collected so far (none while hunting), the
bytes that follow the start mark of a rejected frame and are hunted through again, or a complete frame. -/
inductive RxVerdict where
  | collecting (buf : List Byte)
  | rejected (rest : List Byte)
  | complete (frame : List Byte)
deriving DecidableEq, Repr

/-- The first three checks of R24, made on the byte that has just joined the frame. -/
def fieldHeaderBad : List Byte → Bool
  | [_, a] => a.toNat == 0 || Config.stationMax < a.toNat
  | [_, _, l] => l.toNat == 0 || Config.fieldAreaMax < l.toNat
  | [_, _, l, c] => c.toNat != 255 - l.toNat
  | _ => false

/-- The record area and the two sum bytes have all been collected (R23). -/
def fieldFrameFull (buf : List Byte) : Bool :=
  match buf with
  | _ :: _ :: l :: _ :: _ => buf.length == 6 + l.toNat
  | _ => false

/-- One byte at the field receiver (R23, R24). -/
def fieldTake (buf : List Byte) (b : Byte) : RxVerdict :=
  if buf.isEmpty then
    if b = Config.fieldMark then .collecting [b] else .collecting []
  else if fieldHeaderBad (buf ++ [b]) then .rejected (buf ++ [b]).tail
  else if fieldFrameFull (buf ++ [b]) then .complete (buf ++ [b])
  else .collecting (buf ++ [b])

/-- The header check `bad` fails at the last of these bytes and at none before it. -/
def rejectedAtLast (bad : List Byte → Bool) (bytes : List Byte) : Bool :=
  bad bytes && (List.range bytes.length).all fun n => !bad (bytes.take n)

/-- The header of a whole field frame: start mark and the first three checks of R24, with as many bytes as the length
states. -/
def fieldHeaderGood (frame : List Byte) : Bool :=
  match frame with
  | m :: a :: l :: c :: _ =>
    m == Config.fieldMark && !fieldHeaderBad [m, a] && !fieldHeaderBad [m, a, l] && !fieldHeaderBad [m, a, l, c]
      && frame.length == 6 + l.toNat
  | _ => false

/-- The record area of a complete field frame (R40). -/
def fieldArea (frame : List Byte) : List Byte := (frame.drop 4).take (frame.length - 6)

/-- The station address of a field frame (R40). -/
def fieldStation (frame : List Byte) : Nat := (frame.getD 1 0#8).toNat

/-- A field frame with the given station address and record area (R40). -/
def fieldFrame (station : Nat) (area : List Byte) : List Byte :=
  withSum ([Config.fieldMark, byteOf station, byteOf area.length, byteOf (255 - area.length)] ++ area)

/-- The checks of a supervisor frame that are made as a byte arrives (R164). -/
def supervisorHeaderBad : List Byte → Bool
  | [_, l] => l.toNat < 2 || 250 < l.toNat
  | [_, l, c] => c.toNat != 255 - l.toNat
  | _ => false

/-- The bytes that the length counts and the two sum bytes have all been collected (R164). -/
def supervisorFrameFull (buf : List Byte) : Bool :=
  match buf with
  | _ :: l :: _ :: _ => buf.length == 5 + l.toNat
  | _ => false

/-- One byte at the supervisor receiver (R164). -/
def supervisorTake (buf : List Byte) (b : Byte) : RxVerdict :=
  if buf.isEmpty then
    if b = Config.supervisorMark then .collecting [b] else .collecting []
  else if supervisorHeaderBad (buf ++ [b]) then .rejected (buf ++ [b]).tail
  else if supervisorFrameFull (buf ++ [b]) then .complete (buf ++ [b])
  else .collecting (buf ++ [b])

/-- The header of a whole supervisor frame, with as many bytes as the length states (R164). -/
def supervisorHeaderGood (frame : List Byte) : Bool :=
  match frame with
  | m :: l :: c :: _ =>
    m == Config.supervisorMark && !supervisorHeaderBad [m, l] && !supervisorHeaderBad [m, l, c]
      && frame.length == 5 + l.toNat
  | _ => false

/-- The kind byte of a complete supervisor frame (R180). -/
def supervisorKind (frame : List Byte) : Byte := frame.getD 3 0#8

/-- The tag byte of a complete supervisor frame (R180). -/
def supervisorTag (frame : List Byte) : Byte := frame.getD 4 0#8

/-- The payload of a complete supervisor frame (R180). -/
def supervisorPayload (frame : List Byte) : List Byte := (frame.drop 5).take (frame.length - 7)

/-- A supervisor frame with the given kind, tag and payload (R180). -/
def supervisorFrame (kind tag : Byte) (payload : List Byte) : List Byte :=
  let n := payload.length + 2
  withSum ([Config.supervisorMark, byteOf n, byteOf (255 - n), kind, tag] ++ payload)

end Sys2Proof.Machine
end

