-- ==== Sys2Proof/Machine/State.lean ====
section
/-! DEFINITION. Everything the spec gives the part to hold, as plain data, and its value right after a power-on whose
Configuration Store is invalid. `Part` is the part itself; `State` is the part with the commands that wait for it. -/

namespace Sys2Proof.Machine

/-! ### Configuration (R41, R124, R173, R190) -/

/-- Control mode of a set (R43). -/
inductive Mode where
  | auto | fixed | localRun
deriving DecidableEq, Repr

/-- The configuration of one set, in the order of R41. -/
structure SetConfig where
  sect : SectionNo
  rated : Nat
  pmin : Nat
  weight : Nat
  fixedOut : Nat
  rampRate : Nat
  deadband : Nat
  gain : Nat
  startTime : Nat
  mode : Mode
  station : Nat
deriving DecidableEq, Repr

/-- Kind of a shed list entry (R124). -/
inductive EntryKind where
  | breaker | limitable
deriving DecidableEq, Repr

/-- The configuration of one shed list entry, in the order of R124. -/
structure EntryConfig where
  consumer : ConsumerNo
  sect : SectionNo
  kind : EntryKind
  guarded : Bool
  autoRestore : Bool
  askFirst : Bool
  floor : Nat
  estimate : Nat
  inhibit : Bool
  station : Nat
deriving DecidableEq, Repr

/-- Restore mode (R152). -/
inductive RestoreMode where
  | continuous | step
deriving DecidableEq, Repr

/-- The thirty-four plant fields, in the order of R173. -/
structure PlantConfig where
  reserve : Nat
  overload : Nat
  fastOverload : Nat
  ceiling : Nat
  overloadConfirm : Nat
  settle : Nat
  startConfirm : Nat
  stopDelay : Nat
  stopHysteresis : Nat
  restoreDelay : Nat
  restoreStep : Nat
  restoreMargin : Nat
  restoreMode : RestoreMode
  nominal : Nat
  freqDeadband : Nat
  trimGain : Nat
  trimMax : Nat
  heavyHold : Nat
  heavyExpiry : Nat
  autoStart : Bool
  autoStop : Bool
  autoRestore : Bool
  tiePresent : Vector Bool 4
  tieStation : Vector Nat 4
  meterStation : Vector Nat 4
deriving DecidableEq, Repr

/-- The working configuration, and what the store holds (R190). The enable mask has one bit for each event kind
(R186). -/
structure Configuration where
  sets : Vector SetConfig 8
  shedList : List EntryConfig
  standby : List SetNo
  plant : PlantConfig
  enable : BitVec 26
deriving DecidableEq, Repr

/-! ### Plant Image (R2, R5 to R7) -/

/-- Freshness state (1.3). -/
inductive Freshness where
  | unqualified | qualified | stale
deriving DecidableEq, Repr

/-- Freshness state, qualifying count (set when it is 1) and stale timer of an object record (R2). -/
structure Fresh where
  state : Freshness
  counted : Bool
  staleAt : Option Nat
deriving DecidableEq, Repr

/-- Object record of a set (R2). -/
structure SetImage where
  running : Bool
  closed : Bool
  kw : Nat
  trip : Bool
  fresh : Fresh
deriving DecidableEq, Repr

/-- Object record of a consumer (R2). -/
structure ConsumerImage where
  closed : Bool
  kw : Nat
  limit : Option Nat
  fresh : Fresh
deriving DecidableEq, Repr

/-- Object record of a section meter (R2). -/
structure MeterImage where
  voltage : Bool
  freq : Option Nat
  fresh : Fresh
deriving DecidableEq, Repr

/-- Object record of a tie (R2). -/
structure TieImage where
  closed : Bool
  fresh : Fresh
deriving DecidableEq, Repr

/-! ### Orders (R27 to R37) -/

/-- The orders whose object is a consumer (R27). `release` is LIMIT none. -/
inductive ConsumerOrder where
  | trip | limit (kw : Nat) | release | close | grant | deny
deriving DecidableEq, Repr

/-- The orders whose object is a set (R27). -/
inductive SetOrder where
  | start | stop | sync (deadBus : Bool) | openBreaker
deriving DecidableEq, Repr

/-- An order with its object (R27). -/
inductive OrderBody where
  | consumer (c : ConsumerNo) (a : ConsumerOrder)
  | set (k : SetNo) (a : SetOrder)
deriving DecidableEq, Repr

/-- One raised order. The serial number is the model's own: it tells two orders of one object apart. -/
structure Order where
  serial : Nat
  body : OrderBody
  urgent : Bool
deriving DecidableEq, Repr

/-- The order frame on the field line (R32). `withdrawn` is set when its object becomes unconfigured (R31). -/
structure OrderInTransmission where
  order : Order
  station : Nat
  frame : List Byte
  withdrawn : Bool
deriving DecidableEq, Repr

/-- An order awaiting feedback, with its timer (R35). -/
structure Feedback where
  order : Order
  deadline : Nat
deriving DecidableEq, Repr

/-- What an order is handed back with (chapter 2, summary of order outcomes). -/
inductive OrderOutcome where
  | notQueued | replaced | withdrawn | sent | confirmed | superseded | timedOut
deriving DecidableEq, Repr

/-- A receiver: the bytes of the frame being assembled, none while hunting, and the time of the last of them. -/
structure Receiver where
  buf : List Byte
  lastAt : Nat
deriving DecidableEq, Repr

/-! ### Set Table (R42) -/

/-- State of a set (R42). -/
inductive SetState where
  | standby | starting | synchronising | rampIn | onBus | rampOut | opening | stopping | tripped | blocked | localRun
deriving DecidableEq, Repr

/-- What the set timer is running as (R42). -/
inductive SetTimer where
  | start | sync | openBreaker | stop
deriving DecidableEq, Repr

/-- Ramp-out origin, where there is one (R42). -/
inductive RampOrigin where
  | automatic | supervisor
deriving DecidableEq, Repr

/-- The Set Sequencer's fields of a set record (R42). `stayFrom` is the model's own: orders of the set's present stay in
its state have this serial number or a later one (R49, R55). -/
structure SeqRecord where
  state : Option SetState
  timer : Option (SetTimer × Nat)
  slow : Bool
  origin : Option RampOrigin
  deadBusSent : Option Bool
  lastOutcome : Option (SetOrder × OrderOutcome)
  stayFrom : Nat
deriving DecidableEq, Repr

/-- The Share Unit's fields of a set record (R77, R79, R81). -/
structure ShareRecord where
  ramp : Option Nat
  target : Option Nat
  pminTime : Option Nat
deriving DecidableEq, Repr

/-- Class of a pulse plan (R87). -/
inductive PlanClass where
  | shareAndTrim | shareOnly | noPulse
deriving DecidableEq, Repr

/-- The line a plan drives (R87). -/
inductive PulseLine where
  | raise | lower | neither
deriving DecidableEq, Repr

/-- A pulse plan (R87). `inProgress` is the model's own: the plan has not yet ended (R94). -/
structure PulsePlan where
  origin : Option Nat
  cls : PlanClass
  shareTerm : Int
  trimTerm : Int
  net : Int
  line : PulseLine
  lengths : Vector Nat 4
  delivered : Nat
  cutShort : Bool
  saturated : Bool
  inProgress : Bool
deriving DecidableEq, Repr

/-- The Governor Output Unit's fields of a set (R86, R87, R92): the last plan, the saturation flag, the two lines, and
the time at which the sub-pulse on a line ends. `madeBy` is the model's own (log entry 60): the island whose period made the
plan, by which a period that stops knows its plans (R97). -/
structure GovRecord where
  plan : PulsePlan
  madeBy : Option IslandNo
  saturation : Bool
  raise : Bool
  lower : Bool
  pulseEnd : Option Nat
deriving DecidableEq, Repr

/-! ### Shed Unit (R125, R136, R142, R156, R159) -/

/-- One action of a contingency selection (R136). -/
inductive ShedMeans where
  | trip | limit (kw : Nat)
deriving DecidableEq, Repr

/-- One action of a contingency selection (R136). -/
structure ShedAction where
  consumer : ConsumerNo
  means : ShedMeans
deriving DecidableEq, Repr

/-- A contingency selection (R136). -/
structure Selection where
  set : SetNo
  deficit : Int
  actions : List ShedAction
  covered : Nat
  insufficient : Bool
deriving DecidableEq, Repr

/-- A set's last selection, and the insufficient flag its next build is compared with (R136, R139). -/
structure SelectionRecord where
  last : Option Selection
  short : Bool
deriving DecidableEq, Repr

/-- Entry state (R125). -/
inductive EntryState where
  | connected | shedPending | shed | restorePending | openExternal
deriving DecidableEq, Repr

/-- Cause of a shed order and of a history record (R143, R156). -/
inductive ShedCause where
  | contingency | fastOverload | paced | deadBus | manual | released
deriving DecidableEq, Repr

/-- The Shed Unit's fields of an entry (R125), with the cause kept while it is pending (R143). -/
structure EntryRecord where
  state : Option EntryState
  tripFailed : Bool
  restoreFailed : Bool
  relief : Nat
  cause : Option ShedCause
deriving DecidableEq, Repr

/-- A shed history record (R156). -/
structure HistoryRecord where
  consumer : ConsumerNo
  time : Nat
  cause : ShedCause
  offered : Nat
deriving DecidableEq, Repr

/-- State of a shed context (Table 8-1). -/
inductive ShedState where
  | idle | burst | postCheck | confirming | stepWait | settling
deriving DecidableEq, Repr

/-- A saved paced phase (R142). -/
structure PacedPhase where
  state : ShedState
  remaining : Nat
  stepConsumer : Option ConsumerNo
  arrived : Bool
  steps : Nat
  exhausted : Bool
deriving DecidableEq, Repr

/-- A shed context (R142). -/
structure ShedContext where
  state : ShedState
  burst : List ConsumerNo
  checkTimer : Option Nat
  pacerTimer : Option Nat
  stepConsumer : Option ConsumerNo
  steps : Nat
  exhausted : Bool
  saved : Option PacedPhase
deriving DecidableEq, Repr

/-- State of a restore context (R159). -/
inductive RestoreState where
  | idle | delay | stepWait | interval | held
deriving DecidableEq, Repr

/-- A restore context (R159). -/
structure RestoreContext where
  state : RestoreState
  timer : Option Nat
  due : Bool
  stepConsumer : Option ConsumerNo
  retriggered : Bool
deriving DecidableEq, Repr

/-! ### Reserve Unit (R100) -/

/-- Reserve state (R100). -/
inductive ReserveState where
  | quiet | startConfirm | startInFlight | stopConfirm | stopping
deriving DecidableEq, Repr

/-- A heavy-load request in a queue (R100). -/
structure HeavyRequest where
  consumer : ConsumerNo
  kw : Nat
  arrival : Nat
  deadline : Option Nat
deriving DecidableEq, Repr

/-- A held grant (R100). The serial number is that of its GRANT order, so that an outcome finds the grant it belongs
to. -/
structure HeavyGrant where
  consumer : ConsumerNo
  kw : Nat
  hold : Option Nat
  serial : Nat
deriving DecidableEq, Repr

/-- A reserve record (R100). H is the sum over the held grants (R117). -/
structure ReserveRecord where
  state : ReserveState
  timer : Option Nat
  stoppingSet : Option SetNo
  low : Bool
  queue : List HeavyRequest
  grants : List HeavyGrant
deriving DecidableEq, Repr

/-! ### Island records (R13) -/

/-- Island figures (R68). -/
structure Figures where
  load : Int
  projected : Int
  capacity : Int
  heavy : Int
  spare : Int
deriving DecidableEq, Repr

/-- An island record (R13), less what follows from values held elsewhere: its members (the island map), its LIVE or DEAD
marking (R14) and its frequency (R16). -/
structure Island where
  figures : Option Figures
  pFixed : Option Int
  remainder : Option Int
  residual : Option Int
  periodAt : Option Nat
  nextPeriod : Option Nat
  reserve : ReserveRecord
  table : List Selection
  rebuiltAt : Option Nat
  shed : ShedContext
  restore : RestoreContext
  history : List HistoryRecord
deriving DecidableEq, Repr

/-! ### Event Unit (R181 to R184) -/

/-- Event kinds, in the order of R181. -/
inductive EventKind where
  | setLoss | startSlow | startFail | syncFail | openFail | stopFail | fastShed | pacedShed | shedExhausted | tripFail
  | restored | restoreFail | deadIsland | islandChange | reserveLow | contingencyShort | heavyGrant | heavyDeny
  | objectStale | stationMismatch | unknownObject | fieldFrameError | correctionSaturated | editCollision
  | orderQueueFull | reportOverflow
deriving DecidableEq, Repr

/-- The object an occurrence names (R180, R181). -/
inductive EventObject where
  | none
  | set (k : SetNo)
  | consumer (c : ConsumerNo)
  | meter (s : SectionNo)
  | tie (t : TieNo)
  | island (i : IslandNo)
  | fieldLine
deriving DecidableEq, Repr

/-- A report (R183). -/
structure Report where
  kind : EventKind
  object : EventObject
  time : Nat
  count : Nat
deriving DecidableEq, Repr

/-! ### Supervisor Line Interface (R165, R168, R169) -/

/-- Result codes, in the order of R169. -/
inductive ResultCode where
  | done | clamped | noSuch | badRequest | refused | inSequence | listFull | duplicate | storeBusy | storeFailed | busy
deriving DecidableEq, Repr

/-- Condition of a request (R165). -/
inductive RequestCondition where
  | inService | answered | sending
deriving DecidableEq, Repr

/-- A request in the request queue (R165). The serial number is the model's own: it ties a reply to its request. The
condition is none for a request accepted after a RESTART was served, which is not served (R166). -/
structure QueuedRequest where
  serial : Nat
  kind : Byte
  tag : Byte
  payload : List Byte
  condition : Option RequestCondition
deriving DecidableEq, Repr

/-- An entry of the busy list (R165). -/
structure BusyEntry where
  serial : Nat
  kind : Byte
  tag : Byte
  sending : Bool
deriving DecidableEq, Repr

/-- A formed reply (R166, R169). -/
structure Reply where
  serial : Nat
  kind : Byte
  tag : Byte
  code : ResultCode
  data : List Byte
deriving DecidableEq, Repr

/-- What the supervisor transmitter is sending (R168). -/
inductive SupervisorSending where
  | reply (serial : Nat)
  | report
deriving DecidableEq, Repr

/-- The frame on the supervisor line (R168). -/
structure SupervisorTransmission where
  what : SupervisorSending
  frame : List Byte
deriving DecidableEq, Repr

/-- Rate of the supervisor line (R163). -/
inductive LineRate where
  | r115200 | r460800
deriving DecidableEq, Repr

/-! ### Configuration Store and the whole part (R188 to R191) -/

/-- A store operation in progress: the SAVE it serves and the time of its service (R191). -/
structure SaveInProgress where
  serial : Nat
  started : Nat
deriving DecidableEq, Repr

/-- The Configuration Store (R190, R191). -/
structure Store where
  valid : Bool
  contents : Configuration
  saving : Option SaveInProgress
deriving DecidableEq, Repr

/-- Plant phase (chapter 11). -/
inductive Phase where
  | acquire | run
deriving DecidableEq, Repr

/-- The part. -/
structure Part where
  /-- Supply present (R193). -/
  powered : Bool
  /-- Reset input asserted (R188, R193). -/
  resetAsserted : Bool
  store : Store
  /-- The working configuration (chapter 11). -/
  cfg : Configuration
  /-- Rate read from the strap at the last cold start (R163). -/
  rate : LineRate
  /-- Plant clock, in ms (Conventions, Time). -/
  clock : Nat
  phase : Phase
  /-- Acquire timer (R188). -/
  acquireAt : Option Nat
  /-- Field receiver (R23). -/
  fieldRx : Receiver
  /-- Urgent order queue, head first (R28). -/
  urgent : List Order
  /-- Normal order queue, head first (R28). -/
  normal : List Order
  /-- Field transmitter: the frame being sent, none while idle (R32). -/
  fieldTx : Option OrderInTransmission
  /-- Feedback timers, by consumer (R35). -/
  feedback : Vector (Option Feedback) 48
  /-- Serial number of the next order: the model's own. -/
  nextOrder : Nat
  setImage : Vector SetImage 8
  consumerImage : Vector ConsumerImage 48
  meterImage : Vector MeterImage 4
  tieImage : Vector TieImage 4
  /-- Tie states as the Topology Unit has recorded them (R17). -/
  tieJoins : Vector Bool 4
  /-- Island map: the island of each section; none in ACQUIRE (R12, R21). -/
  islandMap : Option (Vector IslandNo 4)
  /-- Island records by name (R13). -/
  islands : Vector (Option Island) 4
  seq : Vector SeqRecord 8
  share : Vector ShareRecord 8
  gov : Vector GovRecord 8
  /-- Sets in flight as the Reserve Unit follows them from the changes handed to it (R103). -/
  inFlight : Vector Bool 8
  selection : Vector SelectionRecord 8
  entry : Vector EntryRecord 48
  /-- Raw event flags (R181). -/
  rawFlags : BitVec 26
  /-- Report queue, oldest first (R183). -/
  reports : List Report
  /-- Report allowance (R184). -/
  allowance : Nat
  /-- Supervisor receiver (R164). -/
  supRx : Receiver
  /-- Request queue, oldest first (R165). -/
  requests : List QueuedRequest
  /-- Busy list (R165). -/
  busyList : List BusyEntry
  /-- Reply order, head first (R165). -/
  replies : List Reply
  /-- Supervisor transmitter: the frame being sent, none while idle (R168). -/
  supTx : Option SupervisorTransmission
  /-- The RESTART that has been served and waits for its reply to be sent (R178). -/
  restarting : Option Nat
  /-- Serial number of the next request: the model's own. -/
  nextRequest : Nat
deriving DecidableEq, Repr

/-- The part and the commands that wait for it, first in, first out. The queue is the model's own. -/
structure State where
  part : Part
  pending : List Instr
deriving DecidableEq, Repr

/-- Faults. No command of the part stops it: every record, request and expiry has an effect or none, and an error is an
event (R181) or a result code (R169). There is therefore no fault to raise; this is safe, since a model that stops
nowhere proves nothing by stopping. -/
inductive Fault where
deriving DecidableEq, Repr

/-- Refusals. -/
inductive Refusal where
  /-- Raised by an arm of `exec` whose command has no meaning yet; no arm is left in this condition. Safe: nothing can
  be proved about a command that is refused. -/
  | notModelled (mnemonic : String)
deriving DecidableEq, Repr

/-! ### Default configuration (R190) and reset values -/

/-- A set of the default configuration (R190). -/
def SetConfig.default : SetConfig :=
  { sect := 0, rated := 100, pmin := 0, weight := 1, fixedOut := 0, rampRate := 10, deadband := 0, gain := 1,
    startTime := 5, mode := .auto, station := 0 }

/-- The plant fields of the default configuration (R90, R113, R137, R152, R190). -/
def PlantConfig.default : PlantConfig :=
  { reserve := 2000, overload := 100, fastOverload := 110, ceiling := 100, overloadConfirm := 2000, settle := 3,
    startConfirm := 5, stopDelay := 120, stopHysteresis := 1000, restoreDelay := 30, restoreStep := 5,
    restoreMargin := 500, restoreMode := .continuous, nominal := 60000, freqDeadband := 20, trimGain := 32,
    trimMax := 40, heavyHold := 15, heavyExpiry := 60, autoStart := true, autoStop := true, autoRestore := true,
    tiePresent := Vector.replicate 4 false, tieStation := Vector.replicate 4 0,
    meterStation := Vector.replicate 4 0 }

/-- The default configuration (R190). -/
def Configuration.default : Configuration :=
  { sets := Vector.replicate 8 SetConfig.default, shedList := [], standby := [], plant := PlantConfig.default,
    enable := BitVec.allOnes 26 }

/-- Freshness of a record after reset (R11). -/
def Fresh.reset : Fresh := { state := .unqualified, counted := false, staleAt := none }

/-- A set's record after reset (R11). -/
def SetImage.reset : SetImage := { running := false, closed := false, kw := 0, trip := false, fresh := Fresh.reset }

/-- A consumer's record after reset (R11). -/
def ConsumerImage.reset : ConsumerImage := { closed := false, kw := 0, limit := none, fresh := Fresh.reset }

/-- A section meter's record after reset (R11). -/
def MeterImage.reset : MeterImage := { voltage := false, freq := none, fresh := Fresh.reset }

/-- A tie's record after reset (R11). -/
def TieImage.reset : TieImage := { closed := false, fresh := Fresh.reset }

/-- The Set Sequencer's fields of a set after reset (R42). -/
def SeqRecord.reset : SeqRecord :=
  { state := none, timer := none, slow := false, origin := none, deadBusSent := none, lastOutcome := none,
    stayFrom := 0 }

/-- The Share Unit's fields of a set after reset (R85). -/
def ShareRecord.reset : ShareRecord := { ramp := none, target := none, pminTime := none }

/-- The plan record of a set for which no plan has been made (R98): origin none. DESIGN CHOICE (log entry 45): its other fields
are class NONE, zeros, line neither, and no. -/
def PulsePlan.none : PulsePlan :=
  { origin := Option.none, cls := .noPulse, shareTerm := 0, trimTerm := 0, net := 0, line := .neither,
    lengths := Vector.replicate 4 0, delivered := 0, cutShort := false, saturated := false, inProgress := false }

/-- The Governor Output Unit's fields of a set after reset (R98). -/
def GovRecord.reset : GovRecord :=
  { plan := PulsePlan.none, madeBy := Option.none, saturation := false, raise := false, lower := false, pulseEnd := Option.none }

/-- A set's last selection after reset (R141). -/
def SelectionRecord.reset : SelectionRecord := { last := none, short := false }

/-- The Shed Unit's fields of an entry after reset (R125). -/
def EntryRecord.reset : EntryRecord :=
  { state := none, tripFailed := false, restoreFailed := false, relief := 0, cause := none }

/-- A reserve record as it comes into being (R122). -/
def ReserveRecord.fresh : ReserveRecord :=
  { state := .quiet, timer := none, stoppingSet := none, low := false, queue := [], grants := [] }

/-- A shed context as it comes into being (R142). -/
def ShedContext.fresh : ShedContext :=
  { state := .idle, burst := [], checkTimer := none, pacerTimer := none, stepConsumer := none, steps := 0,
    exhausted := false, saved := none }

/-- A restore context as it comes into being (R159). -/
def RestoreContext.fresh : RestoreContext :=
  { state := .idle, timer := none, due := false, stepConsumer := none, retriggered := false }

/-- An island record as it comes into being (R13, R84, R122, R142, R159). -/
def Island.fresh : Island :=
  { figures := none, pFixed := none, remainder := none, residual := none, periodAt := none, nextPeriod := none,
    reserve := ReserveRecord.fresh, table := [], rebuiltAt := none, shed := ShedContext.fresh,
    restore := RestoreContext.fresh, history := [] }

/-- A receiver that is hunting (R39, R179). -/
def Receiver.hunting : Receiver := { buf := [], lastAt := 0 }

/-- The reset values of every block, with the given store, working configuration and line rate: ACQUIRE at plant time 0
with the acquire timer running (R11, R21, R39, R42, R85, R98, R122, R125, R141, R142, R159, R179, R187, R188, R192). -/
def Part.acquiring (store : Store) (cfg : Configuration) (rate : LineRate) : Part :=
  { powered := true, resetAsserted := false, store := store, cfg := cfg, rate := rate, clock := 0, phase := .acquire,
    acquireAt := some Config.acquireTime, fieldRx := Receiver.hunting, urgent := [], normal := [], fieldTx := none,
    feedback := Vector.replicate 48 none, nextOrder := 0, setImage := Vector.replicate 8 SetImage.reset,
    consumerImage := Vector.replicate 48 ConsumerImage.reset, meterImage := Vector.replicate 4 MeterImage.reset,
    tieImage := Vector.replicate 4 TieImage.reset, tieJoins := Vector.replicate 4 false, islandMap := none,
    islands := Vector.replicate 4 none, seq := Vector.replicate 8 SeqRecord.reset,
    share := Vector.replicate 8 ShareRecord.reset, gov := Vector.replicate 8 GovRecord.reset,
    inFlight := Vector.replicate 8 false, selection := Vector.replicate 8 SelectionRecord.reset,
    entry := Vector.replicate 48 EntryRecord.reset, rawFlags := 0#26, reports := [], allowance := 0,
    supRx := Receiver.hunting, requests := [], busyList := [], replies := [], supTx := none, restarting := none,
    nextRequest := 0 }

/-- A store that no SAVE has ever made valid. DESIGN CHOICE (log entry 2): the spec does not say what the store of a new
part holds. -/
def Store.blank : Store := { valid := false, contents := Configuration.default, saving := none }

/-- An island of the default configuration at the end of ACQUIRE: DEAD, with no start choice, so that the Reserve Unit
confirms a start and has raised RESERVE_LOW (R112, R141). -/
def Island.unserved : Island :=
  { Island.fresh with
    figures := some { load := 0, projected := 0, capacity := 0, heavy := 0, spare := 0 }
    rebuiltAt := some 0
    reserve := { ReserveRecord.fresh with state := .startConfirm, timer := some 5000, low := true } }

/-- The reports of the end of ACQUIRE for one island of the default configuration (R21, R112). -/
def unservedReports (i : IslandNo) : List Report :=
  [ { kind := .deadIsland, object := .island i, time := 0, count := 1 },
    { kind := .reserveLow, object := .island i, time := 0, count := 1 } ]

/-- The state right after a power-on with an invalid store and the rate strap low. The default configuration has no
configured object, so ACQUIRE has ended at the cold start itself (R189): each section is a DEAD island (R12, R21). The
law `reset_is_powerOn` says that this is what POWER_ON makes of an unpowered part. -/
def State.reset : State :=
  { part :=
      { Part.acquiring Store.blank Configuration.default .r115200 with
        phase := .run
        acquireAt := none
        islandMap := some #v[0, 1, 2, 3]
        islands := Vector.replicate 4 (some Island.unserved)
        rawFlags := 0x5000#26
        reports := unservedReports 0 ++ unservedReports 1 ++ unservedReports 2 ++ unservedReports 3 }
    pending := [] }

end Sys2Proof.Machine
end

