-- ==== Sys2Proof/Machine/Ops.lean ====
section
/-! DEFINITION. The named reads and updates of the part that every block uses: configured objects (R1), islands and
their marking (R12, R14, R16), one record of a bank, the plant clock and the timers. -/

namespace Sys2Proof.Machine

/-- The eight sets in number order. -/
def allSets : List SetNo := [0, 1, 2, 3, 4, 5, 6, 7]

/-- Sections A to D, also the island names, in letter order. -/
def allSections : List SectionNo := [0, 1, 2, 3]

/-- Ties 1 to 4. -/
def allTies : List TieNo := [0, 1, 2, 3]

/-- Consumers 1 to 48 in number order. -/
def allConsumers : List ConsumerNo := List.finRange 48

/-! ### Configured objects (R1) -/

/-- A station address that is 1 to 62 (R1). -/
def stationAssigned (a : Nat) : Bool := 1 ≤ a && a ≤ Config.stationMax

/-- The configuration of a set. -/
def setCfg (p : Part) (k : SetNo) : SetConfig := p.cfg.sets[k]

/-- The entry of a consumer on the shed list, where it has one (R123). -/
def entryCfg (p : Part) (c : ConsumerNo) : Option EntryConfig := p.cfg.shedList.find? fun e => e.consumer == c

/-- A set is configured (R1). -/
def setConfigured (p : Part) (k : SetNo) : Bool := stationAssigned (setCfg p k).station

/-- A consumer is configured: on the list and with a station (R1). -/
def consumerConfigured (p : Part) (c : ConsumerNo) : Bool :=
  match entryCfg p c with
  | some e => stationAssigned e.station
  | none => false

/-- A section meter is configured (R1). -/
def meterConfigured (p : Part) (s : SectionNo) : Bool := stationAssigned p.cfg.plant.meterStation[s]

/-- A tie is configured (R1). -/
def tieConfigured (p : Part) (t : TieNo) : Bool :=
  p.cfg.plant.tiePresent[t] && stationAssigned p.cfg.plant.tieStation[t]

/-- An object is configured (R1). -/
def objectConfigured (p : Part) : ObjectRef → Bool
  | .set k => setConfigured p k
  | .consumer c => consumerConfigured p c
  | .meter s => meterConfigured p s
  | .tie t => tieConfigured p t

/-- The station address an object is configured to, 0 for none. -/
def objectStation (p : Part) : ObjectRef → Nat
  | .set k => (setCfg p k).station
  | .consumer c => ((entryCfg p c).map EntryConfig.station).getD 0
  | .meter s => p.cfg.plant.meterStation[s]
  | .tie t => p.cfg.plant.tieStation[t]

/-- An object as an occurrence names it (R181). -/
def objectNamed : ObjectRef → EventObject
  | .set k => .set k
  | .consumer c => .consumer c
  | .meter s => .meter s
  | .tie t => .tie t

/-! ### One record of a bank -/

/-- Change one record of a bank. -/
def modifyAt {α : Type} {n : Nat} (v : Vector α n) (i : Fin n) (f : α → α) : Vector α n := v.set i (f v[i])

/-- Change the Set Sequencer's fields of a set. -/
def onSeq (k : SetNo) (f : SeqRecord → SeqRecord) (p : Part) : Part := { p with seq := modifyAt p.seq k f }

/-- Change the Share Unit's fields of a set. -/
def onShare (k : SetNo) (f : ShareRecord → ShareRecord) (p : Part) : Part := { p with share := modifyAt p.share k f }

/-- Change the Governor Output Unit's fields of a set. -/
def onGov (k : SetNo) (f : GovRecord → GovRecord) (p : Part) : Part := { p with gov := modifyAt p.gov k f }

/-- Change a set's object record. -/
def onSetImage (k : SetNo) (f : SetImage → SetImage) (p : Part) : Part := { p with setImage := modifyAt p.setImage k f }

/-- Change a consumer's object record. -/
def onConsumerImage (c : ConsumerNo) (f : ConsumerImage → ConsumerImage) (p : Part) : Part :=
  { p with consumerImage := modifyAt p.consumerImage c f }

/-- Change a section meter's object record. -/
def onMeterImage (s : SectionNo) (f : MeterImage → MeterImage) (p : Part) : Part :=
  { p with meterImage := modifyAt p.meterImage s f }

/-- Change a tie's object record. -/
def onTieImage (t : TieNo) (f : TieImage → TieImage) (p : Part) : Part := { p with tieImage := modifyAt p.tieImage t f }

/-- Change the Shed Unit's fields of an entry. -/
def onEntry (c : ConsumerNo) (f : EntryRecord → EntryRecord) (p : Part) : Part := { p with entry := modifyAt p.entry c f }

/-- Change a set's last selection and flag. -/
def onSelection (k : SetNo) (f : SelectionRecord → SelectionRecord) (p : Part) : Part :=
  { p with selection := modifyAt p.selection k f }

/-- Change the configuration of a set. -/
def onSetCfg (k : SetNo) (f : SetConfig → SetConfig) (p : Part) : Part :=
  { p with cfg := { p.cfg with sets := modifyAt p.cfg.sets k f } }

/-- Change a listed entry's configuration. -/
def onEntryCfg (c : ConsumerNo) (f : EntryConfig → EntryConfig) (p : Part) : Part :=
  { p with cfg := { p.cfg with shedList := p.cfg.shedList.map fun e => if e.consumer = c then f e else e } }

/-- Change an island record, where the island exists. -/
def onIsland (i : IslandNo) (f : Island → Island) (p : Part) : Part :=
  { p with islands := modifyAt p.islands i (Option.map f) }

/-- An island record; a blank one where the island does not exist. -/
def island (p : Part) (i : IslandNo) : Island := p.islands[i].getD Island.fresh

/-- Change an island's reserve record. -/
def onReserve (i : IslandNo) (f : ReserveRecord → ReserveRecord) (p : Part) : Part :=
  onIsland i (fun r => { r with reserve := f r.reserve }) p

/-- Change an island's shed context. -/
def onShed (i : IslandNo) (f : ShedContext → ShedContext) (p : Part) : Part :=
  onIsland i (fun r => { r with shed := f r.shed }) p

/-- Change an island's restore context. -/
def onRestore (i : IslandNo) (f : RestoreContext → RestoreContext) (p : Part) : Part :=
  onIsland i (fun r => { r with restore := f r.restore }) p

/-! ### Islands (R12, R14, R16) -/

/-- The island that holds a section; none in ACQUIRE (R12, R21). -/
def islandOf (p : Part) (s : SectionNo) : Option IslandNo := p.islandMap.map fun m => m[s]

/-- A section is a member of an island. -/
def inIsland (p : Part) (i : IslandNo) (s : SectionNo) : Bool := islandOf p s == some i

/-- The island that holds a set (R44). -/
def setIsland (p : Part) (k : SetNo) : Option IslandNo := islandOf p (setCfg p k).sect

/-- The island that holds a listed consumer (R123). -/
def entryIsland (p : Part) (c : ConsumerNo) : Option IslandNo := (entryCfg p c).bind fun e => islandOf p e.sect

/-- The islands of the map, in name order. -/
def islandNames (p : Part) : List IslandNo := allSections.filter fun i => p.islands[i].isSome

/-- A configured set of the island whose breaker is held closed (R14, R68). -/
def onIslandBus (p : Part) (i : IslandNo) (k : SetNo) : Bool :=
  setConfigured p k && inIsland p i (setCfg p k).sect && p.setImage[k].closed

/-- The island is LIVE (R14). -/
def islandLive (p : Part) (i : IslandNo) : Bool := allSets.any (onIslandBus p i)

/-- The island frequency: that of the lowest-lettered member section whose meter is configured, QUALIFIED and holds one
(R16). -/
def islandFrequency (p : Part) (i : IslandNo) : Option Nat :=
  allSections.findSome? fun s =>
    if inIsland p i s && meterConfigured p s && p.meterImage[s].fresh.state == .qualified then p.meterImage[s].freq
    else none

/-! ### Time -/

/-- The time of expiry of a timer started now. -/
def after (p : Part) (ms : Nat) : Nat := p.clock + ms

/-- The plant clock at the expiry of a timer whose time of expiry is `d`: an expiry is not taken before its time (log
entry 4). -/
def reach (d : Nat) (p : Part) : Part := { p with clock := max p.clock d }

/-- One millisecond of the plant clock, which runs while the part is powered and not held in reset (log entry 3). -/
def tick (p : Part) : Part := if p.powered && !p.resetAsserted then { p with clock := p.clock + 1 } else p

end Sys2Proof.Machine
end

