-- ==== Sys2Proof/Machine/Operands.lean ====
section
/-! DEFINITION. Every operand form the part reads from its lines: numbers and section codes, the five station records
(R25, R26, R40), the twenty-four requests with their payloads (R171 to R173, R177, R180) and the tests of R167 on them,
and the masked writes with their clamping (R41, R124, R170, R173). -/

namespace Sys2Proof.Machine

/-! ### Numbers -/

/-- An object or section number on a line, counted from 1; none where it lies outside 1 to `m` (R3, R167). -/
def numbered (m n : Nat) : Option (Fin m) := if h : 1 ≤ n ∧ n ≤ m then some ⟨n - 1, by omega⟩ else none

/-- Four bytes as one value, high byte first (R163). -/
def wordOf (a b c d : Byte) : Word := a ++ b ++ c ++ d

/-- A value as four bytes, high byte first (R163). -/
def wordBytes (w : Word) : List Byte := [w.extractLsb' 24 8, w.extractLsb' 16 8, w.extractLsb' 8 8, w.extractLsb' 0 8]

/-- The values that bytes spell, four bytes each (R170). -/
def toWords : List Byte → List Word
  | a :: b :: c :: d :: rest => wordOf a b c d :: toWords rest
  | _ => []

/-- The bytes of values, four each (R170). -/
def fromWords (ws : List Word) : List Byte := ws.flatMap wordBytes

/-! ### Station records (R25, R26, R40) -/

/-- A station record whose fields lie within their values. -/
inductive StationRecord where
  | set (k : SetNo) (running closed : Bool) (kw : Nat) (trip : Bool)
  | consumer (c : ConsumerNo) (closed : Bool) (kw : Nat) (limit : Option Nat)
  | meter (s : SectionNo) (voltage : Bool) (freq : Option Nat)
  | tie (t : TieNo) (closed : Bool)
  | heavy (c : ConsumerNo) (kw : Nat)
deriving DecidableEq, Repr

/-- The object a record names. -/
def StationRecord.object : StationRecord → ObjectRef
  | .set k .. => .set k
  | .consumer c .. => .consumer c
  | .meter s .. => .meter s
  | .tie t _ => .tie t
  | .heavy c _ => .consumer c

/-- Size of a record by its kind (R40). -/
def recordSize : Nat → Option Nat
  | 1 => some 5
  | 2 => some 7
  | 3 => some 6
  | 4 => some 3
  | 5 => some 4
  | _ => none

/-- The records of a record area in order; none where a record has an unknown kind or runs past the end (R24). `fuel`
bounds the records. -/
def splitRecords : Nat → List Byte → Option (List (List Byte))
  | _, [] => some []
  | 0, _ :: _ => none
  | fuel + 1, k :: rest =>
    match recordSize k.toNat with
    | some n =>
      if (k :: rest).length < n then none
      else (splitRecords fuel ((k :: rest).drop n)).map (((k :: rest).take n) :: ·)
    | none => none

/-- The records of a frame's record area (R24). -/
def areaRecords (area : List Byte) : Option (List (List Byte)) := splitRecords area.length area

/-- A listed entry is of LIMITABLE kind. -/
def isLimitable (p : Part) (c : ConsumerNo) : Bool := (entryCfg p c).map EntryConfig.kind == some .limitable

/-- A value within its range. -/
def ranged (lo hi v : Nat) : Option Nat := if lo ≤ v ∧ v ≤ hi then some v else none

/-- A consumer's present limit as its record gives it; none where it fails the range test (R26). -/
def recordLimit (p : Part) (c : ConsumerNo) (limitPresent : Bool) (limit : Nat) : Option (Option Nat) :=
  if isLimitable p c && limitPresent then (ranged 0 20000 limit).map some else some none

/-- The fields of a record, or none where the range test of R3 drops it (R2, R26, R40). -/
def decodeRecord (p : Part) (r : List Byte) : Option StationRecord :=
  let at' (i : Nat) : Nat := (r.getD i 0#8).toNat
  let bit (n : Nat) : Bool := (at' 2).testBit n
  match at' 0 with
  | 1 => do
    let k ← numbered 8 (at' 1)
    let kw ← ranged 0 25000 (at' 3 * 256 + at' 4)
    return .set k (bit 0) (bit 1) kw (bit 2)
  | 2 => do
    let c ← numbered 48 (at' 1)
    let kw ← ranged 0 25000 (at' 3 * 256 + at' 4)
    let limit ← recordLimit p c (bit 1) (at' 5 * 256 + at' 6)
    return .consumer c (bit 0) kw limit
  | 3 => do
    let s ← numbered 4 (at' 1)
    if bit 0 then
      let freq ← ranged 40000 70000 (at' 3 * 65536 + at' 4 * 256 + at' 5)
      return .meter s true (some freq)
    else return .meter s false none
  | 4 => do
    let t ← numbered 4 (at' 1)
    return .tie t (bit 0)
  | 5 => do
    let c ← numbered 48 (at' 1)
    let kw ← ranged 1 25000 (at' 2 * 256 + at' 3)
    return .heavy c kw
  | _ => none

/-! ### Requests (R167, R177, R180) -/

/-- Action of a COMMAND SET (R177). -/
inductive SetAction where
  | start | stop | block | reset
deriving DecidableEq, Repr

/-- A request whose kind, length and enumerations have passed the tests of R167. Object numbers and section codes stand
as they were sent: they are tested by the request's own rule. -/
inductive Request where
  | identify
  | readSet (set : Byte)
  | readConsumer (consumer : Byte)
  | readIsland (sect first : Byte)
  | readContingency (sect set first : Byte)
  | readHistory (sect first : Byte)
  | readFlags
  | readPlant
  | writeSet (set : Byte) (mask : BitVec 16) (fields : List Word)
  | writeConsumer (consumer : Byte) (mask : BitVec 16) (fields : List Word)
  | writePlant (mask : BitVec 64) (fields : List Word)
  | placeConsumer (consumer position : Byte) (move : Bool) (fields : List Word)
  | removeConsumer (consumer : Byte)
  | writeStandbyOrder (sets : List Byte)
  | setMode (set : Byte) (mode : Mode)
  | commandSet (set : Byte) (action : SetAction)
  | shedConsumer (consumer : Byte)
  | releaseConsumer (consumer : Byte)
  | restoreStep (sect : Byte)
  | clearFlags (mask : Word)
  | enableFlags (mask : Word)
  | grantReports (n : Byte)
  | save
  | restart
deriving DecidableEq, Repr

/-- A mode's code (R170): the order in which R41 writes the modes. -/
def modeOf : Nat → Option Mode
  | 0 => some .auto
  | 1 => some .fixed
  | 2 => some .localRun
  | _ => none

/-- A COMMAND SET action's code (R170, R177). -/
def actionOf : Nat → Option SetAction
  | 0 => some .start
  | 1 => some .stop
  | 2 => some .block
  | 3 => some .reset
  | _ => none

/-- How a field of a masked write is coded (R170). -/
inductive FieldForm where
  | number | sectionCode | flag | mode | entryKind | restoreMode
deriving DecidableEq, Repr

/-- The code of an enumerated field, in the low byte of its value (R170). -/
def fieldCode (w : Word) : Nat := w.toNat % 256

/-- A field's value holds a defined code (R167). -/
def FieldForm.defined (f : FieldForm) (w : Word) : Bool :=
  match f with
  | .number => true
  | .sectionCode => 1 ≤ fieldCode w && fieldCode w ≤ 4
  | .mode => fieldCode w ≤ 2
  | .flag | .entryKind | .restoreMode => fieldCode w ≤ 1

/-- The fields of WRITE SET (R41, R171). -/
def setForms : List FieldForm :=
  [.sectionCode, .number, .number, .number, .number, .number, .number, .number, .number, .mode, .number]

/-- The fields of PLACE CONSUMER (R124, R172). -/
def placeForms : List FieldForm :=
  [.sectionCode, .entryKind, .flag, .flag, .flag, .number, .number, .flag, .number]

/-- The fields of WRITE CONSUMER: those of PLACE CONSUMER and clear-trip-failed (R172). -/
def consumerForms : List FieldForm := placeForms ++ [.flag]

/-- The fields of WRITE PLANT (R173). -/
def plantForms : List FieldForm :=
  List.replicate 12 .number ++ [.restoreMode] ++ List.replicate 6 .number ++ List.replicate 7 .flag
    ++ List.replicate 8 .number

/-- The values are as many as the list has fields, and every enumerated one holds a defined code (R167). -/
def fieldsDefined (forms : List FieldForm) (fields : List Word) : Bool :=
  fields.length == forms.length && (forms.zip fields).all fun f => f.1.defined f.2

/-- The request that a kind byte and a payload spell; none where a test of R167 fails with BAD_REQUEST. -/
def parseRequest (kind : Byte) (payload : List Byte) : Option Request :=
  match kind.toNat, payload with
  | 1, [] => some .identify
  | 2, [n] => some (.readSet n)
  | 3, [n] => some (.readConsumer n)
  | 4, [s, first] => some (.readIsland s first)
  | 5, [s, n, first] => some (.readContingency s n first)
  | 6, [s, first] => some (.readHistory s first)
  | 7, [] => some .readFlags
  | 8, [] => some .readPlant
  | 9, n :: m1 :: m0 :: rest =>
    if rest.length == 44 && fieldsDefined setForms (toWords rest) then some (.writeSet n (m1 ++ m0) (toWords rest))
    else none
  | 10, n :: m1 :: m0 :: rest =>
    if rest.length == 40 && fieldsDefined consumerForms (toWords rest) then
      some (.writeConsumer n (m1 ++ m0) (toWords rest))
    else none
  | 11, m7 :: m6 :: m5 :: m4 :: m3 :: m2 :: m1 :: m0 :: rest =>
    if rest.length == 136 && fieldsDefined plantForms (toWords rest) then
      some (.writePlant (wordOf m7 m6 m5 m4 ++ wordOf m3 m2 m1 m0) (toWords rest))
    else none
  | 12, n :: position :: move :: rest =>
    if rest.length == 36 && fieldsDefined placeForms (toWords rest) && move.toNat ≤ 1 then
      some (.placeConsumer n position (move == 1#8) (toWords rest))
    else none
  | 13, [n] => some (.removeConsumer n)
  | 14, count :: sets => if sets.length == count.toNat then some (.writeStandbyOrder sets) else none
  | 15, [n, m] => (modeOf m.toNat).map (.setMode n)
  | 16, [n, a] => (actionOf a.toNat).map (.commandSet n)
  | 17, [n] => some (.shedConsumer n)
  | 18, [n] => some (.releaseConsumer n)
  | 19, [s] => some (.restoreStep s)
  | 20, [a, b, c, d] => some (.clearFlags (wordOf a b c d))
  | 21, [a, b, c, d] => some (.enableFlags (wordOf a b c d))
  | 22, [n] => some (.grantReports n)
  | 23, [] => some .save
  | 24, [] => some .restart
  | _, _ => none

/-- The store-guarded requests (R167). -/
def storeGuarded : Request → Bool
  | .writeSet .. | .writeConsumer .. | .writePlant .. | .placeConsumer .. | .removeConsumer _ | .writeStandbyOrder _
  | .setMode .. | .enableFlags _ | .save | .restart => true
  | .identify | .readSet _ | .readConsumer _ | .readIsland .. | .readContingency .. | .readHistory .. | .readFlags
  | .readPlant | .commandSet .. | .shedConsumer _ | .releaseConsumer _ | .restoreStep _ | .clearFlags _
  | .grantReports _ => false

/-! ### Payloads (R171 to R173, R177, R180) -/

/-- A 16-bit presence mask in two bytes, high byte first (R171, R172). -/
def maskBytes16 (m : BitVec 16) : List Byte := [m.extractLsb' 8 8, m.extractLsb' 0 8]

/-- A 64-bit presence mask in eight bytes, high byte first (R173). -/
def maskBytes64 (m : BitVec 64) : List Byte := wordBytes (m.extractLsb' 32 32) ++ wordBytes (m.extractLsb' 0 32)

/-- Code of a mode (R41). -/
def Mode.code : Mode → Nat
  | .auto => 0 | .fixed => 1 | .localRun => 2

/-- Code of a COMMAND SET action (R177). -/
def SetAction.code : SetAction → Nat
  | .start => 0 | .stop => 1 | .block => 2 | .reset => 3

/-- Kind byte of a request (R180). -/
def Request.kind : Request → Nat
  | .identify => 1 | .readSet _ => 2 | .readConsumer _ => 3 | .readIsland .. => 4 | .readContingency .. => 5
  | .readHistory .. => 6 | .readFlags => 7 | .readPlant => 8 | .writeSet .. => 9 | .writeConsumer .. => 10
  | .writePlant .. => 11 | .placeConsumer .. => 12 | .removeConsumer _ => 13 | .writeStandbyOrder _ => 14
  | .setMode .. => 15 | .commandSet .. => 16 | .shedConsumer _ => 17 | .releaseConsumer _ => 18 | .restoreStep _ => 19
  | .clearFlags _ => 20 | .enableFlags _ => 21 | .grantReports _ => 22 | .save => 23 | .restart => 24

/-- Payload of a request (R171 to R173, R177). -/
def Request.payload : Request → List Byte
  | .identify | .readFlags | .readPlant | .save | .restart => []
  | .readSet n | .readConsumer n | .removeConsumer n | .shedConsumer n | .releaseConsumer n | .restoreStep n
  | .grantReports n => [n]
  | .readIsland s first | .readHistory s first => [s, first]
  | .readContingency s n first => [s, n, first]
  | .writeSet n mask fields | .writeConsumer n mask fields => n :: (maskBytes16 mask ++ fromWords fields)
  | .writePlant mask fields => maskBytes64 mask ++ fromWords fields
  | .placeConsumer n position move fields => n :: position :: (if move then 1#8 else 0#8) :: fromWords fields
  | .writeStandbyOrder sets => byteOf sets.length :: sets
  | .setMode n m => [n, byteOf m.code]
  | .commandSet n a => [n, byteOf a.code]
  | .clearFlags mask | .enableFlags mask => wordBytes mask

/-- A request that a frame can carry and that the tests of R167 let through: as many values as its list has fields, with
defined codes, and no more set numbers than a frame has room for (R163). -/
def Request.wf : Request → Bool
  | .writeSet _ _ fields => fieldsDefined setForms fields
  | .writeConsumer _ _ fields => fieldsDefined consumerForms fields
  | .writePlant _ fields => fieldsDefined plantForms fields
  | .placeConsumer _ _ _ fields => fieldsDefined placeForms fields
  | .writeStandbyOrder sets => sets.length ≤ 247
  | .identify | .readSet _ | .readConsumer _ | .readIsland .. | .readContingency .. | .readHistory .. | .readFlags
  | .readPlant | .removeConsumer _ | .setMode .. | .commandSet .. | .shedConsumer _ | .releaseConsumer _
  | .restoreStep _ | .clearFlags _ | .enableFlags _ | .grantReports _ | .save | .restart => true

/-! ### Masked writes (R170) -/

/-- A presence mask and the values that travel with it. -/
structure Masked where
  mask : Nat
  fields : List Word

/-- Field `n` (from 0) of the list is present (R170). -/
def Masked.present (m : Masked) (n : Nat) : Bool := m.mask.testBit n

/-- The value sent for a field, as a signed number (R170). -/
def Masked.value (m : Masked) (n : Nat) : Int := (m.fields.getD n 0#32).toInt

/-- The code sent for an enumerated field. -/
def Masked.code (m : Masked) (n : Nat) : Nat := fieldCode (m.fields.getD n 0#32)

/-- A value brought to the nearer end of its range (R170). -/
def clampTo (lo hi : Nat) (v : Int) : Nat := (max (lo : Int) (min (hi : Int) v)).toNat

/-- A value as what it becomes once clamped (R170). -/
def Masked.number (m : Masked) (n lo hi old : Nat) : Nat := if m.present n then clampTo lo hi (m.value n) else old

/-- A present value lies outside its range: the reply is CLAMPED (R170). -/
def Masked.beyond (m : Masked) (n lo hi : Nat) : Bool := m.present n && (clampTo lo hi (m.value n) : Int) != m.value n

/-- A yes/no field (R170). -/
def Masked.flag (m : Masked) (n : Nat) (old : Bool) : Bool := if m.present n then m.code n == 1 else old

/-- A section field (R170). -/
def Masked.sect (m : Masked) (n : Nat) (old : SectionNo) : SectionNo :=
  if m.present n then (numbered 4 (m.code n)).getD old else old

/-- A mode field (R170). -/
def Masked.mode (m : Masked) (n : Nat) (old : Mode) : Mode :=
  if m.present n then (modeOf (m.code n)).getD old else old

/-- A kind field (R124, R170). -/
def Masked.entryKind (m : Masked) (n : Nat) (old : EntryKind) : EntryKind :=
  if m.present n then (if m.code n == 0 then .breaker else .limitable) else old

/-- A restore mode field (R152, R170). -/
def Masked.restoreMode (m : Masked) (n : Nat) (old : RestoreMode) : RestoreMode :=
  if m.present n then (if m.code n == 0 then .continuous else .step) else old

/-- What a write of fields comes to: the new values, and whether one was brought into its range. -/
structure Written (α : Type) where
  value : α
  clamped : Bool

/-- Numeric fields of WRITE SET that have a range of their own: field, low end, high end (R41). Pmin and F have their
low ends here; their high ends follow from R. -/
def setRanges : List (Nat × Nat × Nat) :=
  [(1, 100, 20000), (3, 1, 255), (5, 10, 5000), (6, 0, 100), (7, 1, 255), (8, 5, 120), (10, 0, 62)]

/-- Pmin or F as sent, not yet brought below R. -/
def Masked.openNumber (m : Masked) (n : Nat) (old : Nat) : Nat := if m.present n then (m.value n).toNat else old

/-- WRITE SET's fields, the mode apart: the written fields, then Pmin brought into 0 to R and F into Pmin to R (R41). -/
def writtenSet (m : Masked) (c : SetConfig) : Written SetConfig :=
  let rated := m.number 1 100 20000 c.rated
  let pmin := min rated (m.openNumber 2 c.pmin)
  let fixedOut := max pmin (min rated (m.openNumber 4 c.fixedOut))
  let pminSent : Int := if m.present 2 then m.value 2 else c.pmin
  let fixedSent : Int := if m.present 4 then m.value 4 else c.fixedOut
  { value :=
      { c with
        sect := m.sect 0 c.sect
        rated := rated
        pmin := pmin
        weight := m.number 3 1 255 c.weight
        fixedOut := fixedOut
        rampRate := m.number 5 10 5000 c.rampRate
        deadband := m.number 6 0 100 c.deadband
        gain := m.number 7 1 255 c.gain
        startTime := m.number 8 5 120 c.startTime
        station := m.number 10 0 62 c.station }
    clamped := setRanges.any (fun r => m.beyond r.1 r.2.1 r.2.2) || pminSent != pmin || fixedSent != fixedOut }

/-- The nine fields of an entry (R124, R172). -/
def writtenEntry (m : Masked) (e : EntryConfig) : Written EntryConfig :=
  { value :=
      { e with
        sect := m.sect 0 e.sect
        kind := m.entryKind 1 e.kind
        guarded := m.flag 2 e.guarded
        autoRestore := m.flag 3 e.autoRestore
        askFirst := m.flag 4 e.askFirst
        floor := m.number 5 0 20000 e.floor
        estimate := m.number 6 0 20000 e.estimate
        inhibit := m.flag 7 e.inhibit
        station := m.number 8 0 62 e.station }
    clamped := m.beyond 5 0 20000 || m.beyond 6 0 20000 || m.beyond 8 0 62 }

/-- An entry as it is placed: its consumer, with every field still to be written (R131). -/
def EntryConfig.blank (c : ConsumerNo) : EntryConfig :=
  { consumer := c, sect := 0, kind := .breaker, guarded := false, autoRestore := false, askFirst := false, floor := 0,
    estimate := 0, inhibit := false, station := 0 }

/-- Numeric fields of WRITE PLANT with their ranges: field, low end, high end (R90, R113, R137, R152, R173). -/
def plantRanges : List (Nat × Nat × Nat) :=
  [(0, 0, 40000), (1, 80, 120), (2, 100, 150), (3, 80, 120), (4, 500, 10000), (5, 1, 30), (6, 1, 60), (7, 10, 600),
   (8, 0, 20000), (9, 5, 600), (10, 1, 120), (11, 0, 20000), (14, 0, 500), (15, 0, 255), (16, 0, 96), (17, 5, 60),
   (18, 10, 300), (26, 0, 62), (27, 0, 62), (28, 0, 62), (29, 0, 62), (30, 0, 62), (31, 0, 62), (32, 0, 62), (33, 0, 62)]

/-- The nominal frequency that a sent value gives (R173). -/
def nominalOf (v : Int) : Nat := if v < 55000 then 50000 else 60000

/-- WRITE PLANT's fields (R173). -/
def writtenPlant (m : Masked) (c : PlantConfig) : Written PlantConfig :=
  let nominal := if m.present 13 then nominalOf (m.value 13) else c.nominal
  { value :=
      { reserve := m.number 0 0 40000 c.reserve
        overload := m.number 1 80 120 c.overload
        fastOverload := m.number 2 100 150 c.fastOverload
        ceiling := m.number 3 80 120 c.ceiling
        overloadConfirm := m.number 4 500 10000 c.overloadConfirm
        settle := m.number 5 1 30 c.settle
        startConfirm := m.number 6 1 60 c.startConfirm
        stopDelay := m.number 7 10 600 c.stopDelay
        stopHysteresis := m.number 8 0 20000 c.stopHysteresis
        restoreDelay := m.number 9 5 600 c.restoreDelay
        restoreStep := m.number 10 1 120 c.restoreStep
        restoreMargin := m.number 11 0 20000 c.restoreMargin
        restoreMode := m.restoreMode 12 c.restoreMode
        nominal := nominal
        freqDeadband := m.number 14 0 500 c.freqDeadband
        trimGain := m.number 15 0 255 c.trimGain
        trimMax := m.number 16 0 96 c.trimMax
        heavyHold := m.number 17 5 60 c.heavyHold
        heavyExpiry := m.number 18 10 300 c.heavyExpiry
        autoStart := m.flag 19 c.autoStart
        autoStop := m.flag 20 c.autoStop
        autoRestore := m.flag 21 c.autoRestore
        tiePresent := Vector.ofFn fun t => m.flag (22 + t.val) c.tiePresent[t]
        tieStation := Vector.ofFn fun t => m.number (26 + t.val) 0 62 c.tieStation[t]
        meterStation := Vector.ofFn fun s => m.number (30 + s.val) 0 62 c.meterStation[s] }
    clamped := plantRanges.any (fun r => m.beyond r.1 r.2.1 r.2.2)
      || (m.present 13 && (nominal : Int) != m.value 13) }

end Sys2Proof.Machine
end

