-- ==== Sys2Proof/Machine/Flags.lean ====
section
/-! DEFINITION. The Event Unit: the event flags, the enable mask and the report queue (R181 to R186),
and the reports that leave on the supervisor line (R168, R180, R183). -/

namespace Sys2Proof.Machine

/-- The bit of an event kind in an event mask (R181): its number less one. -/
def EventKind.index : EventKind → Nat
  | .setLoss => 0 | .startSlow => 1 | .startFail => 2 | .syncFail => 3 | .openFail => 4 | .stopFail => 5
  | .fastShed => 6 | .pacedShed => 7 | .shedExhausted => 8 | .tripFail => 9 | .restored => 10 | .restoreFail => 11
  | .deadIsland => 12 | .islandChange => 13 | .reserveLow => 14 | .contingencyShort => 15 | .heavyGrant => 16
  | .heavyDeny => 17 | .objectStale => 18 | .stationMismatch => 19 | .unknownObject => 20 | .fieldFrameError => 21
  | .correctionSaturated => 22 | .editCollision => 23 | .orderQueueFull => 24 | .reportOverflow => 25

/-- The mask that selects one event kind. -/
def eventBit (k : EventKind) : BitVec 26 := 1#26 <<< k.index

/-- The kind is enabled (R186). -/
def eventEnabled (p : Part) (k : EventKind) : Bool := p.cfg.enable &&& eventBit k != 0#26

/-- A queued report of this kind and object (R182). -/
def Report.concerns (k : EventKind) (o : EventObject) (r : Report) : Bool := r.kind == k && r.object == o

/-- An occurrence coalesced into a report (R182). -/
def Report.coalesce (now : Nat) (r : Report) : Report := { r with time := now, count := min Config.countMax (r.count + 1) }

/-- Number of an event object's class (R180). -/
def EventObject.classCode : EventObject → Nat
  | .none => 0 | .set _ => 1 | .consumer _ => 2 | .meter _ => 3 | .tie _ => 4 | .island _ => 5 | .fieldLine => 6

/-- Number of an event object in its class (R180). -/
def EventObject.number : EventObject → Nat
  | .none => 0 | .set k => k.val + 1 | .consumer c => c.val + 1 | .meter s => s.val + 1 | .tie t => t.val + 1
  | .island i => i.val + 1 | .fieldLine => 0

/-- The frame of a report (R180). -/
def reportFrame (r : Report) : List Byte :=
  supervisorFrame 64#8 0#8
    ([byteOf (r.kind.index + 1), byteOf r.object.classCode, byteOf r.object.number] ++ be32 r.time ++ [byteOf r.count])

/-- The head report is taken: it leaves the queue and takes one unit of the allowance (R183). -/
def beginReport (r : Report) (p : Part) : Part :=
  { p with supTx := some { what := .report, frame := reportFrame r }, allowance := p.allowance - 1 }

/-- The oldest report is sent at once, where the supervisor transmitter is idle, no reply waits and the allowance covers it
(R168, R183). -/
def sendReport (p : Part) : Part :=
  if p.supTx.isNone && p.replies.isEmpty && 0 < p.allowance then
    match p.reports with
    | r :: rest => beginReport r { p with reports := rest }
    | [] => p
  else p

/-- The report queue and raw flags after an occurrence of an enabled kind (R182). A new report leaves at once where the line
is free for it (R168, R183). -/
def queueReport (k : EventKind) (o : EventObject) (p : Part) : Part :=
  if p.reports.any (Report.concerns k o) then
    { p with reports := p.reports.map fun r => if Report.concerns k o r then r.coalesce p.clock else r }
  else if p.reports.length < Config.reportMax then
    sendReport { p with reports := p.reports ++ [{ kind := k, object := o, time := p.clock, count := 1 }] }
  else { p with rawFlags := p.rawFlags ||| eventBit .reportOverflow }

/-- One occurrence of an event (R182). DESIGN CHOICE (log entry 37): an occurrence raised while a request is being served
finds the line free where no earlier reply waits, so that its report is on the line before the request's reply. -/
def occur (k : EventKind) (o : EventObject) (p : Part) : Part :=
  let flagged := { p with rawFlags := p.rawFlags ||| eventBit k }
  if k == .reportOverflow || !eventEnabled p k then flagged else queueReport k o flagged

/-- CLEAR FLAGS (R185): bits 26 to 31 of the mask are ignored. -/
def clearRaw (mask : Word) (p : Part) : Part := { p with rawFlags := p.rawFlags &&& ~~~(mask.truncate 26) }

/-- ENABLE FLAGS (R186): bits 26 to 31 of the mask are ignored. -/
def setEnable (mask : Word) (p : Part) : Part := { p with cfg := { p.cfg with enable := mask.truncate 26 } }

end Sys2Proof.Machine
end

