-- ==== Sys2Proof/Machine/Figures.lean ====
section
/-! DEFINITION. The island figures L, Lp, C, H and spare (R68), offered kW (R129) and the overload tests that read
them (R147, R149). -/

namespace Sys2Proof.Machine

/-- A configured entry of the island (R123). -/
def entryInIsland (p : Part) (i : IslandNo) (e : EntryConfig) : Bool := stationAssigned e.station && inIsland p i e.sect

/-- Offered kW of an entry (R129). -/
def offeredKw (p : Part) (e : EntryConfig) : Nat :=
  if p.entry[e.consumer].state = some .shedPending then p.entry[e.consumer].relief
  else
    match e.kind with
    | .breaker => p.consumerImage[e.consumer].kw
    | .limitable => p.consumerImage[e.consumer].kw - e.floor

/-- Sum of the pending reliefs of the island's SHED_PENDING entries (R68, R129). -/
def pendingRelief (p : Part) (i : IslandNo) : Nat :=
  ((p.cfg.shedList.filter fun e => entryInIsland p i e && p.entry[e.consumer].state == some .shedPending).map
    fun e => p.entry[e.consumer].relief).sum

/-- The set counts in the island's capacity (R68). -/
def countsInCapacity (p : Part) (i : IslandNo) (k : SetNo) : Bool :=
  onIslandBus p i k && p.seq[k].state != some .rampOut && p.seq[k].state != some .opening

/-- L (R68). -/
def islandLoad (p : Part) (i : IslandNo) : Nat :=
  ((allSets.filter (onIslandBus p i)).map fun k => p.setImage[k].kw).sum

/-- The sets that count in the island's capacity as it stands (R68). -/
def countedSets (p : Part) (i : IslandNo) : List SetNo := allSets.filter (countsInCapacity p i)

/-- C (R68). -/
def islandCapacity (p : Part) (i : IslandNo) : Nat :=
  ((countedSets p i).map fun k => (setCfg p k).rated).sum

/-- H (R117). -/
def heavyReserved (p : Part) (i : IslandNo) : Nat := ((island p i).reserve.grants.map HeavyGrant.kw).sum

/-- The figures of an island from the values as they stand (R68). -/
def figuresOf (p : Part) (i : IslandNo) : Figures :=
  let load : Int := islandLoad p i
  let projected : Int := load - pendingRelief p i
  let capacity : Int := islandCapacity p i
  let heavy : Int := heavyReserved p i
  { load := load, projected := projected, capacity := capacity, heavy := heavy, spare := capacity - projected - heavy }

/-- A taking of the figures: the island record keeps them as the figures last computed (R68). -/
def keepFigures (i : IslandNo) (f : Figures) (p : Part) : Part := onIsland i (fun r => { r with figures := some f }) p

/-- Take the figures afresh (R68). -/
def takeFigures (i : IslandNo) (p : Part) : Part := keepFigures i (figuresOf p i) p

/-- The figures last computed (R68). -/
def lastFigures (p : Part) (i : IslandNo) : Figures :=
  (island p i).figures.getD { load := 0, projected := 0, capacity := 0, heavy := 0, spare := 0 }

/-- A percentage of the capacity, rounded down: floor(C × percent / 100) (R147, R149). -/
def permitted (f : Figures) (percent : Nat) : Int := f.capacity * (percent : Int) / 100

/-- The overload condition (R147, R150). -/
def overloaded (p : Part) (f : Figures) : Bool := f.projected > permitted f p.cfg.plant.overload

/-- The fast overload condition (R149). -/
def fastOverloaded (p : Part) (f : Figures) : Bool := f.projected > permitted f p.cfg.plant.fastOverload

end Sys2Proof.Machine
end

