-- ==== Sys2Proof/Machine/Sharing.lean ====
section
/-! DEFINITION. The division of a remainder among sharing sets: water-filling, rounding and the residue (R71 to R76).
All quantities are exact integers; the 48-bit intermediates of R71 never overflow, so no width appears. -/

namespace Sys2Proof.Machine

/-- A sharing set as the division sees it: its effective weight e = w × R and its bounds Pmin and R (R71, R72). -/
structure ShareItem where
  set : SetNo
  weight : Int
  lo : Int
  hi : Int
deriving DecidableEq, Repr

/-- Sum of the effective weights of a group (R71). -/
def weightSum (group : List ShareItem) : Int := (group.map ShareItem.weight).sum

/-- The provisional share is above R (R72). -/
def isHigh (s e : Int) (a : ShareItem) : Bool := a.hi * e < s * a.weight

/-- The provisional share is below Pmin (R72). -/
def isLow (s e : Int) (a : ShareItem) : Bool := s * a.weight < a.lo * e

/-- Numerator of the excess over E_A (R73). -/
def excess (s e : Int) (high : List ShareItem) : Int := (high.map fun a => s * a.weight - a.hi * e).sum

/-- Numerator of the shortfall over E_A (R73). -/
def shortfall (s e : Int) (low : List ShareItem) : Int := (low.map fun a => a.lo * e - s * a.weight).sum

/-- Where the water-filling ends: the pinned sets with their values, the sets still active, and S_r (R72). -/
structure Filled where
  pinned : List (SetNo × Int)
  active : List ShareItem
  left : Int
deriving DecidableEq, Repr

/-- The water-filling (R72, R73), with at most as many passes as `fuel`. -/
def waterFill : Nat → List ShareItem → Int → Filled
  | 0, group, s => { pinned := [], active := group, left := s }
  | fuel + 1, group, s =>
    let e := weightSum group
    let high := group.filter (isHigh s e)
    let low := group.filter (isLow s e)
    if high.isEmpty && low.isEmpty then { pinned := [], active := group, left := s }
    else if shortfall s e low ≤ excess s e high then
      let rest := waterFill fuel (group.filter fun a => !isHigh s e a) (s - (high.map ShareItem.hi).sum)
      { rest with pinned := high.map (fun a => (a.set, a.hi)) ++ rest.pinned }
    else
      let rest := waterFill fuel (group.filter fun a => !isLow s e a) (s - (low.map ShareItem.lo).sum)
      { rest with pinned := low.map (fun a => (a.set, a.lo)) ++ rest.pinned }

/-- A set's rounded target: its provisional share rounded half up (R74). -/
def roundedShare (s e : Int) (a : ShareItem) : Int := (2 * s * a.weight + e) / (2 * e)

/-- A set with the target it has so far. -/
structure Candidate where
  item : ShareItem
  target : Int
deriving DecidableEq, Repr

/-- A candidate joins an ordered list: largest weight first, the lowest set number among equal weights (R75). -/
def joinCandidate (c : Candidate) : List Candidate → List Candidate
  | [] => [c]
  | d :: ds => if d.item.weight ≤ c.item.weight then c :: d :: ds else d :: joinCandidate c ds

/-- The candidates in the order in which they are offered the residue (R75). The list given is in set-number order. -/
def candidateOrder (cs : List Candidate) : List Candidate := cs.foldr joinCandidate []

/-- Add `r` to the first candidate that stays within its bounds with it; none where there is no such candidate (R75). -/
def placeOn (r : Int) : List Candidate → Option (List Candidate)
  | [] => none
  | c :: cs =>
    if c.item.lo ≤ c.target + r && c.target + r ≤ c.item.hi then some ({ c with target := c.target + r } :: cs)
    else (placeOn r cs).map (c :: ·)

/-- Place up to `n` steps of `step` kW one at a time; the second value is how many could not be placed (R75). -/
def placeSteps (step : Int) : Nat → List Candidate → List Candidate × Nat
  | 0, cs => (cs, 0)
  | n + 1, cs =>
    match placeOn step cs with
    | some cs' => placeSteps step n cs'
    | none => (cs, n + 1)

/-- Place the residue: whole if one candidate can take it, else one kW at a time. The second value is what remains
unplaced (R75). -/
def placeResidue (r : Int) (cs : List Candidate) : List Candidate × Int :=
  if r == 0 then (cs, 0)
  else
    match placeOn r cs with
    | some cs' => (cs', 0)
    | none =>
      let step : Int := if 0 < r then 1 else -1
      let placed := placeSteps step r.natAbs cs
      (placed.1, step * placed.2)

/-- The share targets of a period and its share residual (R75, R76). -/
structure Shared where
  targets : List (SetNo × Int)
  residual : Int
deriving DecidableEq, Repr

/-- Divide the remainder among the sharing sets (R72 to R76). -/
def divideRemainder (items : List ShareItem) (s : Int) : Shared :=
  let filled := waterFill (items.length + 1) items s
  if filled.active.isEmpty then { targets := filled.pinned, residual := filled.left }
  else
    let e := weightSum filled.active
    let rounded := filled.active.map fun a => { item := a, target := roundedShare filled.left e a : Candidate }
    let residue := filled.left - (rounded.map Candidate.target).sum
    let placed := placeResidue residue (candidateOrder rounded)
    { targets := filled.pinned ++ placed.1.map (fun c => (c.item.set, c.target)), residual := placed.2 }

end Sys2Proof.Machine
end

