-- ==== Sys2Proof/Machine/Share.lean ====
section
/-! DEFINITION. The Share Unit: the stages of a share period (R67 to R70, R76, R77), the ramps (R79 to R83) and the
beginning and end of an island's periods (R66, R84). -/

namespace Sys2Proof.Machine

/-- Role of a breaker-closed set in a share period (R69). -/
inductive ShareRole where
  | sharing
  | fixed
deriving DecidableEq, Repr

/-- A change of a set's state as the Set Sequencer hands it on (R44). `toReserve` is false for the two changes of a start
the Reserve Unit asked for and is answered as not started: the answer is what that unit acts on (R45). -/
structure SetChange where
  set : SetNo
  old : Option SetState
  new : Option SetState
  toReserve : Bool
deriving DecidableEq, Repr

/-- Deadband D of a set in kW (R82, R89). -/
def deadbandKw (c : SetConfig) : Nat := c.rated * c.deadband / 1000

/-- The set's ramp value, its held measured kW where it has none. -/
def rampValue (p : Part) (k : SetNo) : Nat := p.share[k].ramp.getD p.setImage[k].kw

/-- Role and contribution of an ON_BUS set by its mode (R69). -/
def onBusRole (p : Part) (k : SetNo) : ShareRole × Int :=
  match (setCfg p k).mode with
  | .fixed => (.fixed, (setCfg p k).fixedOut)
  | .auto => (.sharing, 0)
  | .localRun => (.fixed, p.setImage[k].kw)

/-- Role of a breaker-closed set and its contribution to P_fixed, with the sets whose ramp has been reported complete in
this period (R67, R69). -/
def shareRole (p : Part) (done : List SetNo) (k : SetNo) : ShareRole × Int :=
  let measured : ShareRole × Int := (.fixed, p.setImage[k].kw)
  if p.seq[k].state == some .localRun || p.setImage[k].fresh.state != .qualified then measured
  else
    match p.seq[k].state with
    | some .rampIn => if done.contains k then onBusRole p k else (.fixed, rampValue p k)
    | some .rampOut => if done.contains k then measured else (.fixed, rampValue p k)
    | some .onBus => onBusRole p k
    | _ => measured

/-- The set is ramping (R80). -/
def ramping (p : Part) (k : SetNo) : Bool := p.seq[k].state == some .rampIn || p.seq[k].state == some .rampOut

/-- Contribution of a set to the S′ of the shadow targets: every ramping set contributes its ramp value (R80). -/
def shadowContribution (p : Part) (k : SetNo) : Int := if ramping p k then rampValue p k else (shareRole p [] k).2

/-- A set as an item of the division (R71). -/
def shareItem (p : Part) (k : SetNo) : ShareItem :=
  let c := setCfg p k
  { set := k, weight := c.weight * c.rated, lo := c.pmin, hi := c.rated }

/-- The breaker-closed sets of an island. -/
def busSets (p : Part) (i : IslandNo) : List SetNo := allSets.filter (onIslandBus p i)

/-- The remainder of a load over the fixed contributions: never below 0 (R70). -/
def remainderOf (load pFixed : Int) : Int := max 0 (load - pFixed)

/-- Stage 2 for one set (R79, R81, R83). DESIGN CHOICE (log entry 41): a ramp-out value above a lowered R first falls by its
step, and is then brought down to R. -/
def advanceRamp (p : Part) (k : SetNo) (r : ShareRecord) : ShareRecord :=
  let c := setCfg p k
  let v := rampValue p k
  match p.seq[k].state with
  | some .rampIn => { r with ramp := some (min c.rated (v + c.rampRate / 5)) }
  | some .rampOut =>
    let v' := max c.pmin (min c.rated (v - c.rampRate / 5))
    { r with
      ramp := some v'
      pminTime := if v' != c.pmin then none
        else if v == c.pmin then some (r.pminTime.getD p.clock)
        else some p.clock }
  | _ => r

/-- Stage 2 for an island (R67). -/
def advanceRamps (i : IslandNo) (p : Part) : Part :=
  (busSets p i).foldl (fun q k => onShare k (advanceRamp q k) q) p

/-- Shadow target of a RAMP_IN set (R80). -/
def shadowTarget (p : Part) (i : IslandNo) (load : Int) (k : SetNo) : Int :=
  let c := setCfg p k
  match c.mode with
  | .fixed => c.fixedOut
  | _ =>
    let e : Int := c.weight * c.rated
    let others := (busSets p i).filter fun j => !ramping p j && (shareRole p [] j).1 == .sharing
    let total := ((others.map fun j => (shareItem p j).weight)).sum
    let s' := remainderOf load ((busSets p i).map (shadowContribution p)).sum
    min c.rated (s' * e / (total + e))

/-- A RAMP_OUT set has reached the end of its ramp-out (R82). -/
def rampOutDone (p : Part) (k : SetNo) : Bool :=
  let c := setCfg p k
  rampValue p k == c.pmin &&
    ((p.setImage[k].fresh.state == .qualified && p.setImage[k].kw ≤ c.pmin + deadbandKw c) ||
      (match p.share[k].pminTime with | some t => t + Config.pminWait ≤ p.clock | none => false))

/-- Stage 3 for one set: its ramp is complete (R80, R82). -/
def rampDone (p : Part) (i : IslandNo) (load : Int) (k : SetNo) : Bool :=
  match p.seq[k].state with
  | some .rampIn => shadowTarget p i load k ≤ rampValue p k
  | some .rampOut => rampOutDone p k
  | _ => false

/-- Target of a set of the island for the period (R77). -/
def periodTarget (p : Part) (done : List SetNo) (targets : List (SetNo × Int)) (k : SetNo) : Option Nat :=
  match targets.find? fun t => t.1 == k with
  | some t => some t.2.toNat
  | none =>
    match p.seq[k].state, (setCfg p k).mode with
    | some .onBus, .fixed => some (setCfg p k).fixedOut
    | some .rampIn, .fixed => if done.contains k then some (setCfg p k).fixedOut else some (rampValue p k)
    | some .rampIn, _ => if done.contains k then none else some (rampValue p k)
    | some .rampOut, _ => if done.contains k then none else some (rampValue p k)
    | _, _ => none

/-- What a share period hands on (R78), with the sets that its capacity counts. -/
structure PeriodResults where
  figures : Figures
  counted : List SetNo
  done : List SetNo
  roles : List (SetNo × ShareRole)
deriving DecidableEq, Repr

/-- The six stages of an island's share period (R67). -/
def computePeriod (i : IslandNo) (p : Part) : Part × PeriodResults :=
  let figures := figuresOf p i
  let ramped := advanceRamps i (keepFigures i figures p)
  let bus := busSets ramped i
  let done := bus.filter (rampDone ramped i figures.load)
  let roles := bus.map fun k => (k, shareRole ramped done k)
  let pFixed := (roles.map fun r => r.2.2).sum
  let s := remainderOf figures.load pFixed
  let sharing := (roles.filter fun r => r.2.1 == .sharing).map fun r => shareItem ramped r.1
  let shared := divideRemainder sharing s
  let members := allSets.filter fun k => setConfigured ramped k && inIsland ramped i (setCfg ramped k).sect
  let targeted := members.foldl
    (fun q k => onShare k (fun r => { r with target := periodTarget ramped done shared.targets k }) q) ramped
  let kept := onIsland i (fun r =>
    { r with pFixed := some pFixed, remainder := some s, residual := some shared.residual, periodAt := some p.clock,
             nextPeriod := some (p.clock + Config.sharePeriod) }) targeted
  (kept, { figures := figures, counted := countedSets p i, done := done, roles := roles.map fun r => (r.1, r.2.1) })

/-- An island's share periods begin: the first is due at once (R66, R84). -/
def beginPeriods (i : IslandNo) (p : Part) : Part := onIsland i (fun r => { r with nextPeriod := some p.clock }) p

/-- The states for which R77 gives a target. -/
def hasTarget : Option SetState → Bool
  | some .onBus | some .rampIn | some .rampOut => true
  | _ => false

/-- The Share Unit takes a change of a set's state (R77, R79, R81, R83). -/
def shareChange (c : SetChange) (p : Part) : Part :=
  let cfg := setCfg p c.set
  let kw := p.setImage[c.set].kw
  let keepTarget (r : ShareRecord) : ShareRecord := if hasTarget c.new then r else { r with target := none }
  onShare c.set (fun r =>
    match c.new with
    | some .rampIn => { r with ramp := some (min cfg.rated kw), pminTime := none }
    | some .rampOut =>
      { r with ramp := some (max cfg.pmin (min cfg.rated (r.target.getD kw))), pminTime := none }
    | _ => keepTarget { r with ramp := none, pminTime := none }) p

/-- The sets of an island lose their targets and ramp values: its share periods have ended (R66). -/
def clearTargets (i : IslandNo) (p : Part) : Part :=
  (allSets.filter fun k => setConfigured p k && inIsland p i (setCfg p k).sect).foldl
    (fun q k => onShare k (fun _ => ShareRecord.reset) q) p

/-- An island's period timer stops (R66, R84). -/
def stopPeriods (i : IslandNo) (p : Part) : Part := onIsland i (fun r => { r with nextPeriod := none }) p

end Sys2Proof.Machine
end

