-- ==== Sys2Proof/Machine/Governor.lean ====
section
/-! DEFINITION. The Governor Output Unit: the terms and the net pulse (R89 to R91), its layout (R93), the plans and
the sixteen lines (R86 to R97). -/

namespace Sys2Proof.Machine

/-- The sign of a magnitude. -/
def signed (negative : Bool) (magnitude : Nat) : Int := if negative then -(magnitude : Int) else magnitude

/-- Share term q_s of a target and a measured kW (R89). -/
def shareTermOf (c : SetConfig) (target measured : Nat) : Int :=
  let err : Int := (target : Int) - measured
  if err.natAbs ≤ deadbandKw c then 0
  else signed (err < 0) (err.natAbs * 1000 / c.rated * c.gain / 16)

/-- Trim term q_f of an island frequency (R90). -/
def trimTermOf (c : PlantConfig) (freq : Option Nat) : Int :=
  match freq with
  | none => 0
  | some f =>
    let diff : Int := (c.nominal : Int) - f
    if diff.natAbs ≤ c.freqDeadband then 0 else signed (diff < 0) (min c.trimMax (diff.natAbs * c.trimGain / 64))

/-- Net pulse of a plan before saturation is taken off it: saturated when it is beyond 192 ms (R91). -/
def pulseSaturated (q : Int) : Bool := Config.pulseMax < q.natAbs

/-- Net pulse n (R91). -/
def netPulse (q : Int) : Int := signed (q < 0) (min Config.pulseMax q.natAbs)

/-- Line of a net pulse (R91). -/
def pulseLine (n : Int) : PulseLine := if 0 < n then .raise else if n < 0 then .lower else .neither

/-- The four sub-pulse lengths of a net pulse magnitude (R93). -/
def pulseLengths (magnitude : Nat) : Vector Nat 4 :=
  let base := magnitude / 4
  let rem := magnitude % 4
  let len (k : Nat) : Nat := if k < rem then base + 1 else base
  #v[len 0, len 1, len 2, len 3]

/-- Class of a set at plan making (R88). -/
def planClass (p : Part) (k : SetNo) (role : ShareRole) : PlanClass :=
  match role with
  | .sharing => if p.share[k].target.isSome then .shareAndTrim else .noPulse
  | .fixed =>
    let state := p.seq[k].state
    let asked := (state == some .onBus && (setCfg p k).mode == .fixed) || state == some .rampIn || state == some .rampOut
    if asked && p.setImage[k].fresh.state == .qualified && p.share[k].target.isSome then .shareOnly else .noPulse

/-- The plan of a set whose class and share and trim terms are given (R87, R91, R93). -/
def planOf (origin : Nat) (cls : PlanClass) (qs qf : Int) : PulsePlan :=
  let n := netPulse (qs + qf)
  { origin := some origin, cls := cls, shareTerm := qs, trimTerm := qf, net := n, line := pulseLine n,
    lengths := pulseLengths n.natAbs, delivered := 0, cutShort := false, saturated := pulseSaturated (qs + qf),
    inProgress := true }

/-- The plan that the period's results bring a set (R88 to R91). -/
def planFor (p : Part) (origin : Nat) (freq : Option Nat) (k : SetNo) (role : ShareRole) : PulsePlan :=
  let cls := planClass p k role
  let qs := shareTermOf (setCfg p k) (p.share[k].target.getD 0) p.setImage[k].kw
  match cls with
  | .shareAndTrim => planOf origin cls qs (trimTermOf p.cfg.plant freq)
  | .shareOnly => planOf origin cls qs 0
  | .noPulse => planOf origin cls 0 0

/-- Both lines of a set inactive (R86). -/
def linesOff (g : GovRecord) : GovRecord := { g with raise := false, lower := false, pulseEnd := none }

/-- Make a set's plan from the results of an island's period, with its saturation flag (R88, R92). -/
def makePlan (i : IslandNo) (origin : Nat) (freq : Option Nat) (k : SetNo) (role : ShareRole) (p : Part) : Part :=
  let plan := planFor p origin freq k role
  let planned := onGov k (fun g => { linesOff g with plan := plan, madeBy := some i, saturation := plan.saturated }) p
  if plan.saturated && !p.gov[k].saturation then occur .correctionSaturated (.set k) planned else planned

/-- Make the plans of an island's sets from the period's results (R88). DESIGN CHOICE (log entry 53): by set number, and so
is the CORRECTION_SATURATED of several sets (R92). -/
def makePlans (i : IslandNo) (origin : Nat) (roles : List (SetNo × ShareRole)) (p : Part) : Part :=
  let freq := islandFrequency p i
  roles.foldl (fun q r => makePlan i origin freq r.1 r.2 q) p

/-- End a plan at once (R94, R95). -/
def endPlan (g : GovRecord) : GovRecord :=
  { linesOff g with plan := { g.plan with cutShort := true, inProgress := false } }

/-- A change gives the set class NONE: its plan is ended, unless it is of class NONE already (R95). -/
def cutPlan (k : SetNo) (p : Part) : Part :=
  onGov k (fun g => if g.plan.inProgress && g.plan.cls != .noPulse then endPlan g else g) p

/-- The Governor Output Unit takes a change of a set's state: a state without a target has class NONE (R88, R95). -/
def govChange (c : SetChange) (p : Part) : Part := if hasTarget c.new then p else cutPlan c.set p

/-- The configured sets of an island. -/
def islandSets (p : Part) (i : IslandNo) : List SetNo :=
  allSets.filter fun k => setConfigured p k && inIsland p i (setCfg p k).sect

/-- A plan in progress that a period of the island, begun at the given time, has made (R97). -/
def planOfPeriod (i : IslandNo) (periodAt : Option Nat) (g : GovRecord) : Bool :=
  g.plan.inProgress && g.madeBy == some i && g.plan.origin == periodAt

/-- The plans of an island's running period are ended, its period timer having stopped: those that the period has made,
wherever their sets' sections now lie (R97). -/
def stopPlans (i : IslandNo) (p : Part) : Part :=
  let periodAt := (island p i).periodAt
  allSets.foldl (fun q k => onGov k (fun g => if planOfPeriod i periodAt g then endPlan g else g) q) p

/-- The saturation flags of an island's sets clear when it becomes DEAD (R92, R97). -/
def clearSaturation (i : IslandNo) (p : Part) : Part :=
  (islandSets p i).foldl (fun q k => onGov k (fun g => { g with saturation := false }) q) p

/-- Length of a plan's sub-pulse (R93). -/
def subPulseLength (plan : PulsePlan) (j : Nat) : Nat := plan.lengths.toList.getD j 0

/-- A sub-period of a set's plan begins (R93). -/
def beginSubPulse (k : SetNo) (p : Part) : Part :=
  let plan := p.gov[k].plan
  match plan.origin with
  | some origin =>
    if plan.inProgress && plan.delivered < 4 then
      let start := origin + Config.subPeriod * plan.delivered
      let len := subPulseLength plan plan.delivered
      onGov k (fun g =>
        { g with
          raise := 0 < len && plan.line == .raise
          lower := 0 < len && plan.line == .lower
          pulseEnd := if 0 < len then some (start + len) else none
          plan := { plan with delivered := plan.delivered + 1,
                              inProgress := plan.delivered + 1 < 4 || 0 < len } }) (reach start p)
    else p
  | none => p

/-- A sub-pulse's length has passed: its line is made inactive, and the fourth ends the plan (R93, R94). -/
def endSubPulse (k : SetNo) (p : Part) : Part :=
  match p.gov[k].pulseEnd with
  | some t =>
    onGov k (fun g => { linesOff g with plan := { g.plan with inProgress := g.plan.inProgress && g.plan.delivered < 4 } })
      (reach t p)
  | none => p

end Sys2Proof.Machine
end

