-- ==== Sys2Proof/Machine/Contingency.lean ====
section
/-! DEFINITION. Eligibility (R130), the selection walk (R138, R139) and the contingency table with its rebuild (R136 to
R140). -/

namespace Sys2Proof.Machine

/-- The entry is eligible for automatic selection in the island (R130). -/
def eligible (p : Part) (i : IslandNo) (e : EntryConfig) : Bool :=
  entryInIsland p i e && p.entry[e.consumer].state == some .connected && !e.guarded && !e.inhibit
    && !p.entry[e.consumer].tripFailed && 0 < offeredKw p e

/-- The action that an eligible entry contributes towards `needed` kW, and the kW it adds (R138). The new limit stands as the
formula gives it; the order made of the action keeps within R27 (`limitOrder`). -/
def entryAction (p : Part) (e : EntryConfig) (needed : Nat) : ShedAction × Nat :=
  match e.kind with
  | .breaker => ({ consumer := e.consumer, means := .trip }, offeredKw p e)
  | .limitable =>
    if needed ≤ offeredKw p e then
      ({ consumer := e.consumer, means := .limit (p.consumerImage[e.consumer].kw - needed) }, needed)
    else ({ consumer := e.consumer, means := .limit e.floor }, offeredKw p e)

/-- The selection walk for a deficit, from a running total on: the actions taken and the final total (R138). -/
def walk (p : Part) (i : IslandNo) (d : Nat) : List EntryConfig → Nat → List ShedAction × Nat
  | [], total => ([], total)
  | e :: rest, total =>
    if d ≤ total then ([], total)
    else if eligible p i e then
      let a := entryAction p e (d - total)
      let tail := walk p i d rest (total + a.2)
      (a.1 :: tail.1, tail.2)
    else walk p i d rest total

/-- The selection for a deficit (R137, R138, R139). -/
def selectionFor (p : Part) (i : IslandNo) (k : SetNo) (deficit : Int) : Selection :=
  if deficit ≤ 0 then { set := k, deficit := deficit, actions := [], covered := 0, insufficient := false }
  else
    let walked := walk p i deficit.toNat p.cfg.shedList 0
    { set := k, deficit := deficit, actions := walked.1, covered := walked.2,
      insufficient := (walked.2 : Int) < deficit }

/-- The rated kW that leaves a capacity with a set, where the capacity counts these sets: R′_k (R137). -/
def ratingAtStake (p : Part) (counted : List SetNo) (k : SetNo) : Nat :=
  if counted.contains k then (setCfg p k).rated else 0

/-- Deficit d_k of a set's selection (R137). -/
def contingencyDeficit (p : Part) (f : Figures) (counted : List SetNo) (k : SetNo) : Int :=
  f.projected - (f.capacity - ratingAtStake p counted k) * (p.cfg.plant.ceiling : Int) / 100

/-- The contingency table of an island from its figures, whose capacity counts these sets: one selection for each
breaker-closed set (R136). -/
def tableOf (p : Part) (i : IslandNo) (f : Figures) (counted : List SetNo) : List Selection :=
  (allSets.filter (onIslandBus p i)).map fun k => selectionFor p i k (contingencyDeficit p f counted k)

/-- A selection newly built for its set: CONTINGENCY_SHORT where it is insufficient and the build before it was not
(R139). DESIGN CHOICE (log entry 49): a set that a merge or a split brings into another island's table has not newly entered
it, and keeps the flag of its last build. -/
def noteSelection (s : Selection) (p : Part) : Part :=
  let kept := onSelection s.set (fun _ => { last := some s, short := s.insufficient }) p
  if s.insufficient && !p.selection[s.set].short then occur .contingencyShort (.set s.set) kept else kept

/-- A set of the island whose breaker is held open has left the table and keeps its last selection (R136, R139). -/
def leaveTable (i : IslandNo) (p : Part) : Part :=
  (allSets.filter fun k => inIsland p i (setCfg p k).sect && !onIslandBus p i k).foldl
    (fun q k => onSelection k (fun r => { r with short := false }) q) p

/-- Rebuild an island's contingency table from the given figures, whose capacity counts these sets (R140). DESIGN CHOICE (log
entry 55): by set number, and so is the CONTINGENCY_SHORT of several sets (R139). -/
def rebuildWith (i : IslandNo) (f : Figures) (counted : List SetNo) (p : Part) : Part :=
  let table := tableOf p i f counted
  let noted := table.foldl (fun q s => noteSelection s q) (leaveTable i p)
  onIsland i (fun r => { r with table := table, rebuiltAt := some p.clock }) noted

/-- Rebuild an island's contingency table with figures taken afresh (R140). -/
def rebuild (i : IslandNo) (p : Part) : Part := 
  rebuildWith i (figuresOf p i) (countedSets p i) (takeFigures i p)

/-- Rebuild the table of the island that holds a listed consumer, if any (R140). -/
def rebuildFor (c : ConsumerNo) (p : Part) : Part :=
  match entryIsland p c with
  | some i => rebuild i p
  | none => p

/-- Discard a set's last selection: its next build counts as following a clear one (R136, R139). -/
def discardSelection (k : SetNo) (p : Part) : Part := onSelection k (fun _ => SelectionRecord.reset) p

end Sys2Proof.Machine
end

