-- ==== Sys2Proof/Machine/Orders.lean ====
section
/-! DEFINITION. The two order queues, the transmit arbiter and the order frame (R27 to R34, R40). -/

namespace Sys2Proof.Machine

/-- The object of an order (R27). -/
def OrderBody.object : OrderBody → ObjectRef
  | .consumer c _ => .consumer c
  | .set k _ => .set k

/-- Order kind byte of an order record (R40). -/
def OrderBody.kindByte : OrderBody → Byte
  | .consumer _ .trip => 1 | .consumer _ .close => 2 | .consumer _ (.limit _) => 3 | .consumer _ .release => 3
  | .consumer _ .grant => 4 | .consumer _ .deny => 5
  | .set _ .start => 6 | .set _ .stop => 7 | .set _ (.sync _) => 8 | .set _ .openBreaker => 9

/-- Object number of an order record (R40). -/
def OrderBody.number : OrderBody → Nat
  | .consumer c _ => c.val + 1
  | .set k _ => k.val + 1

/-- Argument of an order record: the new limit, 65,535 for none, the dead-bus permission, else 0 (R40). -/
def OrderBody.argument : OrderBody → Nat
  | .consumer _ (.limit kw) => kw
  | .consumer _ .release => 65535
  | .set _ (.sync deadBus) => if deadBus then 1 else 0
  | _ => 0

/-- The frame of an order addressed to a station (R40). -/
def orderFrame (station : Nat) (b : OrderBody) : List Byte :=
  fieldFrame station ([b.kindByte, byteOf b.number] ++ be16 b.argument)

/-- The order is queued for the given object. -/
def Order.isFor (o : ObjectRef) (q : Order) : Bool := q.body.object == o

/-- The queued order of an object, where it has one (R28). -/
def queuedFor (p : Part) (o : ObjectRef) : Option Order := (p.urgent ++ p.normal).find? (Order.isFor o)

/-- What handing an order over comes to: its serial number when it is queued, and the order it replaced. -/
structure HandedOver where
  part : Part
  queued : Option Nat
  replaced : Option Order

/-- An order handed back as not queued because the normal queue is full (R28, R29). -/
def queueFull (b : OrderBody) (p : Part) : HandedOver :=
  { part := occur .orderQueueFull (objectNamed b.object) p, queued := none, replaced := none }

/-- The new order replaces the queued order `old` (R29). -/
def replaceOrder (o old : Order) (p : Part) : HandedOver :=
  let next := { p with nextOrder := p.nextOrder + 1 }
  if old.urgent == o.urgent then
    let swap (q : Order) : Order := if q.isFor o.body.object then o else q
    { part := { next with urgent := p.urgent.map swap, normal := p.normal.map swap }, queued := some o.serial,
      replaced := some old }
  else if o.urgent then
    { part := { next with urgent := p.urgent ++ [o], normal := p.normal.filter fun q => !q.isFor o.body.object },
      queued := some o.serial, replaced := some old }
  else if p.normal.length < Config.normalMax then
    { part := { next with urgent := p.urgent.filter (fun q => !q.isFor o.body.object), normal := p.normal ++ [o] },
      queued := some o.serial, replaced := some old }
  else queueFull o.body p

/-- Begin sending an order's frame, addressed to the station its object is configured to (R32). -/
def beginOrder (o : Order) (p : Part) : Part :=
  let station := objectStation p o.body.object
  { p with fieldTx := some { order := o, station := station, frame := orderFrame station o.body, withdrawn := false } }

/-- The transmit arbiter: the urgent head, else the normal head, when the transmitter is idle in RUN (R32, R34). -/
def arbitrate (p : Part) : Part :=
  if p.phase == .run && p.fieldTx.isNone then
    match p.urgent, p.normal with
    | o :: rest, _ => beginOrder o { p with urgent := rest }
    | [], o :: rest => beginOrder o { p with normal := rest }
    | [], [] => p
  else p

/-- An order handed over joins its queue (R28, R29). -/
def joinQueues (b : OrderBody) (urgent : Bool) (p : Part) : HandedOver :=
  let o : Order := { serial := p.nextOrder, body := b, urgent := urgent }
  if !objectConfigured p b.object then { part := p, queued := none, replaced := none }
  else
    match queuedFor p b.object with
    | some old => replaceOrder o old p
    | none =>
      if urgent then
        { part := { p with urgent := p.urgent ++ [o], nextOrder := p.nextOrder + 1 }, queued := some o.serial,
          replaced := none }
      else if p.normal.length < Config.normalMax then
        { part := { p with normal := p.normal ++ [o], nextOrder := p.nextOrder + 1 }, queued := some o.serial,
          replaced := none }
      else queueFull b p

/-- Hand an order over (R28, R29). With the transmitter idle in RUN and both queues empty it is taken at once (R32). -/
def handOver (b : OrderBody) (urgent : Bool) (p : Part) : HandedOver :=
  let h := joinQueues b urgent p
  if p.urgent.isEmpty && p.normal.isEmpty then { h with part := arbitrate h.part } else h

/-- Take an object's queued order out of its queue (R30, R31). -/
def dropQueued (o : ObjectRef) (p : Part) : Part :=
  { p with urgent := p.urgent.filter (fun q => !q.isFor o), normal := p.normal.filter fun q => !q.isFor o }

/-- Feedback time of a consumer order (R35); none for an order that awaits no feedback (R33). -/
def feedbackTime : ConsumerOrder → Option Nat
  | .trip => some Config.feedbackShort
  | .limit _ => some Config.feedbackShort
  | .release => some Config.feedbackShort
  | .close => some Config.feedbackClose
  | .grant => none
  | .deny => none

/-- The record shows the ordered state (R36). -/
def confirms (a : ConsumerOrder) (r : ConsumerImage) : Bool :=
  match a with
  | .trip => !r.closed
  | .limit kw => !r.closed || (match r.limit with | some l => l ≤ kw | none => false)
  | .release => r.limit.isNone && r.closed
  | .close => r.closed
  | .grant => false
  | .deny => false

/-- The LIMIT order for a new limit, within the 0 to 20,000 kW of R27 and R40. DESIGN CHOICE (log entry 42): where the formula
of R138 or R150 gives more, as it can for a held kW above 20,000, the order carries 20,000. -/
def limitOrder (kw : Nat) : ConsumerOrder := .limit (min Config.limitMax kw)

end Sys2Proof.Machine
end

