-- ==== Sys2Proof/Machine/Restore.lean ====
section
/-! DEFINITION. The Shed Unit's entries, history and restore context: entry states (R126 to R129), the history stack
(R156 to R158), the restore pacer (R159), and the outcomes of shed and restore orders (R144, R145, R161). -/

namespace Sys2Proof.Machine

/-! ### Entry states -/

/-- An entry enters a state, with what that clears: trip-failed on SHED or OPEN_EXTERNAL, restore-failed on CONNECTED
(R128), the pending relief and the kept cause on leaving SHED_PENDING (R129, R144). -/
def enterEntry (c : ConsumerNo) (st : EntryState) (p : Part) : Part :=
  onEntry c (fun r =>
    { state := some st
      tripFailed := if st == .shed || st == .openExternal then false else r.tripFailed
      restoreFailed := if st == .connected then false else r.restoreFailed
      relief := if st == .shedPending then r.relief else 0
      cause := if st == .shedPending then r.cause else none }) p

/-- The state that a configured entry is derived in (R126). -/
def deriveEntry (c : ConsumerNo) (p : Part) : Part :=
  enterEntry c (if p.consumerImage[c].closed then .connected else .openExternal) p

/-- The entry is in this state. -/
def entryIs (p : Part) (c : ConsumerNo) (st : EntryState) : Bool := p.entry[c].state == some st

/-! ### Restore pacer (R159) -/

/-- A restore context that waits for interval A (R159). -/
def restoreDelayed (p : Part) : RestoreContext :=
  { RestoreContext.fresh with state := .delay, timer := some (after p (p.cfg.plant.restoreDelay * 1000)) }

/-- A retrigger of an island's restore pacer (R159). -/
def retrigger (i : IslandNo) (p : Part) : Part :=
  if islandLive p i then
    onIsland i (fun r =>
      { r with restore :=
          match r.restore.state with
          | .stepWait => { r.restore with retriggered := true }
          | _ => if r.history.isEmpty then RestoreContext.fresh else restoreDelayed p }) p
  else p

/-- The restore pacer moves on as its step ends (R161). -/
def afterStep (p : Part) (r : Island) : RestoreContext :=
  if r.history.isEmpty then RestoreContext.fresh
  else if r.restore.retriggered then restoreDelayed p
  else
    match p.cfg.plant.restoreMode with
    | .continuous =>
      { RestoreContext.fresh with state := .interval, timer := some (after p (p.cfg.plant.restoreStep * 1000)) }
    | .step => { RestoreContext.fresh with state := .held }

/-- The outcome of a restore order of this consumer ends the step that waits for it, if one does (R161). -/
def endStepFor (c : ConsumerNo) (p : Part) : Part :=
  allSections.foldl (fun q i =>
    onIsland i (fun r =>
      if r.restore.state == .stepWait && r.restore.stepConsumer == some c then { r with restore := afterStep q r } else r)
      q) p

/-! ### Shed history (R156 to R158) -/

/-- A consumer has a history record in some island (R155). -/
def hasRecord (p : Part) (c : ConsumerNo) : Bool :=
  allSections.any fun i => (island p i).history.any fun h => h.consumer == c

/-- Push a record on top of an island's history; an IDLE pacer of a LIVE island starts (R156, R159). -/
def pushRecord (i : IslandNo) (h : HistoryRecord) (p : Part) : Part :=
  onIsland i (fun r =>
    { r with
      history := h :: r.history
      restore := if r.restore.state == .idle && islandLive p i then restoreDelayed p else r.restore }) p

/-- A history without a consumer's record; one that is left empty makes its pacer IDLE in DELAY, INTERVAL or HELD
(R157). -/
def withoutRecord (c : ConsumerNo) (r : Island) : Island :=
  let history := r.history.filter fun h => h.consumer != c
  let emptied := history.isEmpty && !r.history.isEmpty
  let waits := r.restore.state == .delay || r.restore.state == .interval || r.restore.state == .held
  { r with history := history, restore := if emptied && waits then RestoreContext.fresh else r.restore }

/-- Remove a consumer's record from its history (R157). -/
def removeRecord (c : ConsumerNo) (p : Part) : Part :=
  allSections.foldl (fun q i => onIsland i (withoutRecord c) q) p

/-- The record is taken before the other as two histories become one: the newer shed time, and the lower consumer
number on equal times (R158). -/
def recordFirst (a b : HistoryRecord) : Bool := b.time < a.time || (a.time == b.time && a.consumer < b.consumer)

/-- Two histories become one, from the top down (R158), with at most as many records taken as `fuel`. -/
def mergeRecords : Nat → List HistoryRecord → List HistoryRecord → List HistoryRecord
  | 0, as, bs => as ++ bs
  | _ + 1, [], bs => bs
  | _ + 1, as, [] => as
  | fuel + 1, a :: as, b :: bs =>
    if recordFirst b a then b :: mergeRecords fuel (a :: as) bs else a :: mergeRecords fuel as (b :: bs)

/-- Two histories become one stack (R158). -/
def mergeHistories (as bs : List HistoryRecord) : List HistoryRecord := mergeRecords (as.length + bs.length) as bs

/-- Change the record of a consumer in whichever history holds it (R154, R155). -/
def changeRecord (c : ConsumerNo) (f : HistoryRecord → HistoryRecord) (p : Part) : Part :=
  allSections.foldl (fun q i =>
    onIsland i (fun r => { r with history := r.history.map fun h => if h.consumer == c then f h else h }) q) p

/-- The record of a consumer, where it has one. -/
def recordOf (p : Part) (c : ConsumerNo) : Option HistoryRecord :=
  allSections.findSome? fun i => (island p i).history.find? fun h => h.consumer == c

/-! ### Outcomes of shed orders (R144) -/

/-- The outcome of a consumer's shed order reaches a burst or a paced step that waits for it (R147, R148, R151). -/
def noteShedOutcome (c : ConsumerNo) (p : Part) (r : ShedContext) : ShedContext :=
  let burst := r.burst.filter fun b => b != c
  let r1 :=
    if r.burst.contains c then
      if burst.isEmpty && r.state == .burst then
        { r with burst := burst, state := .postCheck, checkTimer := some (after p Config.checkTime) }
      else { r with burst := burst }
    else r
  let r2 :=
    if r1.state == .stepWait && r1.stepConsumer == some c then
      { r1 with state := .settling, stepConsumer := none, pacerTimer := some (after p (p.cfg.plant.settle * 1000)) }
    else r1
  match r2.saved with
  | some s =>
    if s.state == .stepWait && s.stepConsumer == some c then { r2 with saved := some { s with arrived := true } } else r2
  | none => r2

/-- Every sequence that waits for a consumer's shed order takes its outcome (R144). -/
def endShedFor (c : ConsumerNo) (p : Part) : Part := allSections.foldl (fun q i => onShed i (noteShedOutcome c p) q) p

/-- A SHED_PENDING entry takes the confirmation of its shed order: SHED, with a history record (R144, R156). -/
def entryShed (c : ConsumerNo) (p : Part) : Part :=
  let r := p.entry[c]
  let shed := enterEntry c .shed p
  match entryIsland p c with
  | some i => pushRecord i { consumer := c, time := p.clock, cause := r.cause.getD .manual, offered := r.relief } shed
  | none => shed

/-- A SHED_PENDING entry takes the failure of its shed order (R144). -/
def entryShedFailed (c : ConsumerNo) (p : Part) : Part :=
  let failed := occur .tripFail (.consumer c) p
  if p.consumerImage[c].closed then onEntry c (fun r => { r with tripFailed := true }) (enterEntry c .connected failed)
  else enterEntry c .openExternal failed

/-- The outcome of a shed order, other than replaced (R144). The table is rebuilt where the entry has changed (R140). -/
def shedOutcome (c : ConsumerNo) (out : OrderOutcome) (p : Part) : Part :=
  if entryIs p c .shedPending then
    match out with
    | .confirmed => rebuildFor c (endShedFor c (entryShed c p))
    | .timedOut | .superseded => rebuildFor c (endShedFor c (entryShedFailed c p))
    | .withdrawn | .replaced | .notQueued | .sent => endShedFor c p
  else endShedFor c p

/-! ### Outcomes of restore orders (R161) -/

/-- A RESTORE_PENDING entry takes the outcome of its restore order (R161). -/
def entryRestored (c : ConsumerNo) (out : OrderOutcome) (p : Part) : Part :=
  match out with
  | .confirmed => occur .restored (.consumer c) (enterEntry c .connected (removeRecord c p))
  | .timedOut | .superseded =>
    enterEntry c .shed (onEntry c (fun r => { r with restoreFailed := true }) (occur .restoreFail (.consumer c) p))
  | .withdrawn | .replaced | .notQueued | .sent => enterEntry c .shed p

/-- The outcome of a restore order (R161). An entry no longer RESTORE_PENDING is not changed, and no table is rebuilt for it
(R140). -/
def restoreOutcome (c : ConsumerNo) (out : OrderOutcome) (p : Part) : Part :=
  if entryIs p c .restorePending then rebuildFor c (endStepFor c (entryRestored c out p)) else endStepFor c p

/-- The restore orders (R27). -/
def isRestoreOrder : OrderBody → Bool
  | .consumer _ .close | .consumer _ .release => true
  | _ => false

/-- The shed orders (R143). -/
def isShedOrder : OrderBody → Bool
  | .consumer _ .trip | .consumer _ (.limit _) => true
  | _ => false

/-- A queued restore order of a consumer. -/
def restoreQueued (p : Part) (c : ConsumerNo) : Bool :=
  match queuedFor p (.consumer c) with
  | some o => isRestoreOrder o.body
  | none => false

/-- The Shed Unit withdraws a consumer's queued restore order; it is handed back as withdrawn (R30, R161). -/
def withdrawRestore (c : ConsumerNo) (p : Part) : Part :=
  if restoreQueued p c then restoreOutcome c .withdrawn (dropQueued (.consumer c) p) else p

/-- A restoration is abandoned (R162): the queued restore order of a step is withdrawn and the context becomes IDLE. -/
def abandonRestore (i : IslandNo) (p : Part) : Part :=
  let ctx := (island p i).restore
  let withdrawn :=
    match ctx.state, ctx.stepConsumer with
    | .stepWait, some c => withdrawRestore c p
    | _, _ => p
  onRestore i (fun _ => RestoreContext.fresh) withdrawn

/-! ### External changes (R127, R145) -/

/-- The consumer is reported in its restored state: breaker closed, and no limit for a LIMITABLE entry (R145). -/
def reportedRestored (kind : EntryKind) (r : ConsumerImage) : Bool :=
  match kind with
  | .breaker => r.closed
  | .limitable => r.closed && r.limit.isNone

/-- The entry is CONNECTED by the plant's own doing: its record goes, without an event (R145, R157). -/
def restoredOutside (c : ConsumerNo) (p : Part) : Part := enterEntry c .connected (removeRecord c p)

/-- A change of a consumer's breaker or limit that answers no order (R127, R145). -/
def externalChange (c : ConsumerNo) (old : ConsumerImage) (p : Part) : Part :=
  let now := p.consumerImage[c]
  let kind := ((entryCfg p c).map EntryConfig.kind).getD .breaker
  match p.entry[c].state with
  | some .connected => if old.closed && !now.closed then rebuildFor c (enterEntry c .openExternal p) else p
  | some .openExternal => if !old.closed && now.closed then rebuildFor c (enterEntry c .connected p) else p
  | some .shed => if reportedRestored kind now then rebuildFor c (restoredOutside c p) else p
  | some .restorePending =>
    if reportedRestored kind now then withdrawRestore c (rebuildFor c (restoredOutside c p)) else p
  | some .shedPending => p
  | none => p

end Sys2Proof.Machine
end

