-- ==== Sys2Proof/Machine/Sequencer.lean ====
section
/-! DEFINITION. The Set Sequencer: the set state machine (R45 to R60), the derived state (R61) and the supervisor's
commands on a set (R62 to R65). Each operation answers the part and the state changes it makes, in order; the changes are
handed on to the other blocks afterwards, each as an event of its own (R44). -/

namespace Sys2Proof.Machine

/-- A part together with the state changes still to be handed on (R44). -/
structure Sequenced where
  part : Part
  changes : List SetChange

/-- No change yet. -/
def sequenced (p : Part) : Sequenced := { part := p, changes := [] }

/-- Act on the part and make no change of state. -/
def Sequenced.on (o : Sequenced) (f : Part → Part) : Sequenced := { o with part := f o.part }

/-- Put a set in a state. -/
def Sequenced.enter (o : Sequenced) (k : SetNo) (st : SetState) : Sequenced :=
  { part := onSeq k (fun r => { r with state := some st, stayFrom := o.part.nextOrder }) o.part
    changes := o.changes ++ [{ set := k, old := o.part.seq[k].state, new := some st, toReserve := true }] }

/-- The set's state. -/
def setStateIs (p : Part) (k : SetNo) (st : SetState) : Bool := p.seq[k].state == some st

/-- Stop the set timer. -/
def stopSetTimer (k : SetNo) (p : Part) : Part := onSeq k (fun r => { r with timer := none }) p

/-- Start the set timer (R42). -/
def startSetTimer (k : SetNo) (t : SetTimer) (ms : Nat) (p : Part) : Part :=
  onSeq k (fun r => { r with timer := some (t, after p ms) }) p

/-- Set the ramp-out origin. -/
def setOrigin (k : SetNo) (o : Option RampOrigin) (p : Part) : Part := onSeq k (fun r => { r with origin := o }) p

/-- Set the dead-bus permission sent. -/
def setDeadBusSent (k : SetNo) (b : Option Bool) (p : Part) : Part := onSeq k (fun r => { r with deadBusSent := b }) p

/-- A set that comes onto the bus has its slow-start flag cleared (R46). -/
def clearSlow (k : SetNo) (p : Part) : Part := onSeq k (fun r => { r with slow := false }) p

/-- Record the outcome of a set order handed back (R42, R56). -/
def noteOutcome (k : SetNo) (a : SetOrder) (out : OrderOutcome) (p : Part) : Part :=
  onSeq k (fun r => { r with lastOutcome := some (a, out) }) p

/-- Record a set order that was replaced by the set's next order (R56). -/
def noteReplaced (k : SetNo) (replaced : Option Order) (p : Part) : Part :=
  match replaced with
  | some { body := .set _ a, .. } => noteOutcome k a .replaced p
  | _ => p

/-- What the Set Sequencer records of a set order just handed over; the second value says whether it is queued (R56). -/
def noteHanded (k : SetNo) (a : SetOrder) (h : HandedOver) : Part × Bool :=
  let p1 := noteReplaced k h.replaced h.part
  if h.queued.isSome then (p1, true) else (noteOutcome k a .notQueued p1, false)

/-- Hand a set order over in the normal class (R27); the second value says whether it is queued. -/
def handSet (k : SetNo) (a : SetOrder) (p : Part) : Part × Bool := noteHanded k a (handOver (.set k a) false p)

/-- Withdraw the set order still queued for a set (R30). -/
def withdrawSet (k : SetNo) (p : Part) : Part :=
  match queuedFor p (.set k) with
  | some { body := .set _ a, .. } => noteOutcome k a .withdrawn (dropQueued (.set k) p)
  | _ => p

/-- The dead-bus argument of a SYNC order handed over now: the island holding the set is DEAD (R48). -/
def deadBusNow (p : Part) (k : SetNo) : Bool :=
  match setIsland p k with
  | some i => !islandLive p i
  | none => false

/-- Hand a SYNC order over by `hand` (R48); one that is not queued puts the set in BLOCKED with SYNC_FAIL and a STOP
(R56). -/
def Sequenced.handSyncBy (hand : OrderBody → Bool → Part → HandedOver) (o : Sequenced) (k : SetNo) : Sequenced :=
  let deadBus := deadBusNow o.part k
  let h := noteHanded k (.sync deadBus) (hand (.set k (.sync deadBus)) false (setDeadBusSent k (some deadBus) o.part))
  let o1 := { o with part := h.1 }
  if h.2 then o1
  else
    ((o1.on (stopSetTimer k)).enter k .blocked).on fun p =>
      (handSet k .stop (occur .syncFail (.set k) p)).1

/-- Hand a SYNC order over (R48). -/
def Sequenced.handSync (o : Sequenced) (k : SetNo) : Sequenced := o.handSyncBy handOver k

/-- Put a set in STOPPING with a STOP order (R55); one that is not queued puts it in BLOCKED with STOP_FAIL (R56). -/
def Sequenced.enterStopping (o : Sequenced) (k : SetNo) : Sequenced :=
  let o1 := (o.on (stopSetTimer k)).enter k .stopping
  let h := handSet k .stop o1.part
  let o2 := { o1 with part := h.1 }
  if h.2 then o2 else (o2.on (occur .stopFail (.set k))).enter k .blocked

/-! ### Requests of the Reserve Unit (R45, R52) -/

/-- A start request; the second value says whether it is answered as started (R45). -/
def startRequest (k : SetNo) (p : Part) : Sequenced × Bool :=
  if setConfigured p k && (setCfg p k).mode != .localRun && setStateIs p k .standby then
    let o := ((sequenced p).on (stopSetTimer k)).enter k .starting
    let h := handSet k .start o.part
    let o1 := { o with part := h.1 }
    if h.2 then (o1, true) else (o1.enter k .standby, false)
  else (sequenced p, false)

/-- The changes of a start that was answered to the Reserve Unit as not started are not its test occasions (R45). -/
def Sequenced.unseenByReserve (o : Sequenced) : Sequenced :=
  { o with changes := o.changes.map fun c => { c with toReserve := false } }

/-- An automatic stop request; the second value says whether it is taken (R52). -/
def stopRequest (k : SetNo) (p : Part) : Sequenced × Bool :=
  if (setCfg p k).mode == .auto && setStateIs p k .onBus then
    (((sequenced p).on (setOrigin k (some .automatic))).enter k .rampOut, true)
  else (sequenced p, false)

/-- An abandon request: taken in RAMP_OUT of origin automatic (R52). -/
def abandonRequest (k : SetNo) (p : Part) : Sequenced :=
  if setStateIs p k .rampOut && p.seq[k].origin == some .automatic then
    ((sequenced p).on fun q => setOrigin k none (clearSlow k q)).enter k .onBus
  else sequenced p

/-! ### Timers (R46, R49, R54, R55) -/

/-- The state in which a set timer runs (3.2). -/
def SetTimer.runsIn : SetTimer → SetState
  | .start => .starting | .sync => .synchronising | .openBreaker => .opening | .stop => .stopping

/-- The time of expiry of a set timer that runs as this one, in the state that it belongs to. -/
def setTimerRuns (p : Part) (k : SetNo) (t : SetTimer) : Option Nat :=
  match p.seq[k].timer with
  | some (t', d) => if t' = t ∧ p.seq[k].state = some t.runsIn then some d else none
  | none => none

/-- The start timer expires in STARTING (R46). -/
def startExpired (k : SetNo) (p : Part) : Sequenced :=
  if p.seq[k].slow then
    let failed := stopSetTimer k (occur .startFail (.set k) p)
    (sequenced (handSet k .stop failed).1).enter k .blocked
  else
    sequenced (startSetTimer k .start ((setCfg p k).startTime * 1000)
      (occur .startSlow (.set k) (onSeq k (fun r => { r with slow := true }) p)))

/-- The sync timer expires in SYNCHRONISING (R49). -/
def syncExpired (k : SetNo) (p : Part) : Sequenced :=
  let failed := stopSetTimer k (occur .syncFail (.set k) p)
  (sequenced (handSet k .stop failed).1).enter k .blocked

/-- A set in OPENING returns to ON_BUS: the open timer has expired, or its OPEN was not queued (R54, R56). -/
def Sequenced.openFailed (o : Sequenced) (k : SetNo) : Sequenced :=
  (o.on fun p => setOrigin k none (clearSlow k (stopSetTimer k (occur .openFail (.set k) p)))).enter k .onBus

/-- The stop timer expires in STOPPING (R55). -/
def stopExpired (k : SetNo) (p : Part) : Sequenced :=
  (sequenced (stopSetTimer k (occur .stopFail (.set k) p))).enter k .blocked

/-! ### Ramp reports of the Share Unit (R51, R53) -/

/-- The Share Unit reports a set's ramp complete: RAMP_IN to ON_BUS, RAMP_OUT to OPENING with an OPEN order. -/
def rampComplete (k : SetNo) (p : Part) : Sequenced :=
  if setStateIs p k .rampIn then
    ((sequenced p).on (clearSlow k)).enter k .onBus
  else if setStateIs p k .rampOut then
    let o := ((sequenced p).on (stopSetTimer k)).enter k .opening
    let h := handSet k .openBreaker o.part
    let o1 := { o with part := h.1 }
    if h.2 then o1 else o1.openFailed k
  else sequenced p

/-! ### SET STATUS records (R44, R47, R50, R54, R55, R57 to R60) -/

/-- A protection trip held with the breaker open puts a set in TRIPPED (R59). -/
def Sequenced.protection (o : Sequenced) (k : SetNo) : Sequenced :=
  let r := o.part.setImage[k]
  if r.trip && !r.closed then
    match o.part.seq[k].state with
    | some .standby | some .stopping | some .blocked => (o.on (stopSetTimer k)).enter k .tripped
    | some .starting | some .synchronising =>
      ((o.on (stopSetTimer k)).enter k .tripped).on fun p => (handSet k .stop p).1
    | _ => o
  else o

/-- The breaker is reported closed in a state the part did not lead the set to (R60). -/
def Sequenced.unexpectedClose (o : Sequenced) (k : SetNo) : Sequenced :=
  (o.on fun p => setDeadBusSent k none (withdrawSet k (stopSetTimer k p))).enter k .rampIn

/-- A breaker opening that the part did not order (R58). -/
def Sequenced.trippedOff (o : Sequenced) (k : SetNo) : Sequenced :=
  (o.on fun p => withdrawSet k (setOrigin k none (stopSetTimer k p))).enter k .tripped

/-- A set in STOPPING whose STOP has been sent and whose running is held no enters STANDBY (R55). The stop timer runs
exactly when the STOP of the stay has been sent. -/
def Sequenced.stoppedIfDown (o : Sequenced) (k : SetNo) : Sequenced :=
  if (setTimerRuns o.part k .stop).isSome && !o.part.setImage[k].running then
    (o.on fun p => setOrigin k none (stopSetTimer k p)).enter k .standby
  else o

/-- A SYNCHRONISING set whose breaker is reported closed (R50). -/
def Sequenced.synchronised (o : Sequenced) (k : SetNo) : Sequenced :=
  (o.on fun p => setDeadBusSent k none (withdrawSet k (stopSetTimer k p))).enter k .rampIn

/-- A STARTING set that is reported running, its breaker open or closed (R47). With the breaker closed the SYNC is withdrawn
in the event that hands it over: it only joins its queue, and is not taken at once (DESIGN CHOICE, log entry 38). Where that SYNC is not queued, R56 blocks the
set, and the closed breaker of the same record is then an unexpected close (R60), in the same event (DEDUCED, log entry 64). -/
def Sequenced.runningReported (o : Sequenced) (k : SetNo) : Sequenced :=
  let entered := (o.on (stopSetTimer k)).enter k .synchronising
  if o.part.setImage[k].closed then
    let o1 := entered.handSyncBy joinQueues k
    if setStateIs o1.part k .synchronising then o1.synchronised k else o1.unexpectedClose k
  else entered.handSync k

/-- The event of an accepted SET STATUS record at the Set Sequencer, judged from the held values (R44). -/
def recordEvent (k : SetNo) (p : Part) : Sequenced :=
  let r := p.setImage[k]
  let o := sequenced p
  match p.seq[k].state with
  | some .starting =>
    if r.running && (r.closed || !r.trip) then o.runningReported k
    else if r.closed then o.unexpectedClose k
    else o.protection k
  | some .synchronising => if r.closed then o.synchronised k else o.protection k
  | some .rampIn | some .onBus | some .rampOut => if r.closed then o else o.trippedOff k
  | some .opening => if r.closed then o else (o.enterStopping k).protection k
  | some .stopping => if r.closed then o.unexpectedClose k else (o.stoppedIfDown k).protection k
  | some .standby =>
    if r.closed then o.unexpectedClose k
    else if r.running then (o.enter k .blocked).protection k
    else o.protection k
  | some .tripped => if r.closed then o.unexpectedClose k else o
  | some .blocked => if r.closed then o.unexpectedClose k else o.protection k
  | some .localRun => o
  | none => o

/-- A set loss (R57): in RUN, the breaker of a configured set has gone from closed to open outside RAMP_OUT and
OPENING. -/
def isSetLoss (p : Part) (k : SetNo) (wasClosed : Bool) : Bool :=
  p.phase == .run && setConfigured p k && wasClosed && !p.setImage[k].closed
    && !setStateIs p k .rampOut && !setStateIs p k .opening

/-! ### Outcomes of set orders (R56) -/

/-- A set order is handed back as sent (R46, R49, R54, R55, R56). -/
def setOrderSent (k : SetNo) (a : SetOrder) (serial : Nat) (p : Part) : Sequenced :=
  let noted := noteOutcome k a .sent p
  let ofStay := p.seq[k].stayFrom ≤ serial
  match p.seq[k].state, a with
  | some .starting, .start => sequenced (startSetTimer k .start ((setCfg p k).startTime * 1000) noted)
  | some .synchronising, .sync _ =>
    if ofStay && (setTimerRuns p k .sync).isNone then sequenced (startSetTimer k .sync Config.syncTime noted)
    else sequenced noted
  | some .opening, .openBreaker => sequenced (startSetTimer k .openBreaker Config.openTime noted)
  | some .stopping, .stop =>
    if ofStay then ((sequenced (startSetTimer k .stop Config.stopTime noted)).stoppedIfDown k).protection k else sequenced noted
  | _, _ => sequenced noted

/-! ### Derived state and supervisor commands (R61 to R65) -/

/-- The state derived from the mode and the held values (R61). -/
def derivedState (p : Part) (k : SetNo) : SetState :=
  let r := p.setImage[k]
  if (setCfg p k).mode == .localRun then .localRun
  else if r.closed then .onBus
  else if r.trip then .tripped
  else if r.running then .blocked
  else .standby

/-- Put a set in a state it may already be in: only a change is handed on (R44). -/
def Sequenced.settle (o : Sequenced) (k : SetNo) (st : SetState) : Sequenced :=
  if setStateIs o.part k st then o else o.enter k st

/-- Derive a set's state (R61). DEDUCED (log entry 63): a set derived ON_BUS keeps its slow-start flag, as R61 says of
derivation; R46 clears it where a set comes to ON_BUS otherwise. -/
def deriveSet (k : SetNo) (p : Part) : Sequenced :=
  let cleared := setDeadBusSent k none (setOrigin k none (stopSetTimer k p))
  (sequenced cleared).settle k (derivedState p k)

/-- A set moves to LOCAL (R62). -/
def toLocal (k : SetNo) (p : Part) : Sequenced :=
  (sequenced (setDeadBusSent k none (setOrigin k none (withdrawSet k (stopSetTimer k p))))).enter k .localRun

/-- A new control mode takes effect (R62). In ACQUIRE, and for a set that is not configured, the mode alone is
written. -/
def changeMode (k : SetNo) (m : Mode) (p : Part) : Sequenced :=
  let old := (setCfg p k).mode
  let written := onSetCfg k (fun c => { c with mode := m }) p
  if old == m then sequenced p
  else if p.phase == .acquire || !setConfigured p k then sequenced written
  else
    match old, m with
    | _, .localRun => toLocal k written
    | .localRun, _ => deriveSet k written
    | _, _ => sequenced written

/-- COMMAND SET START (R63). -/
def commandStart (k : SetNo) (p : Part) : Sequenced × ResultCode :=
  let s := startRequest k p
  (s.1, if s.2 then .done else .refused)

/-- COMMAND SET STOP (R63). -/
def commandStop (k : SetNo) (p : Part) : Sequenced × ResultCode :=
  match p.seq[k].state with
  | some .rampIn | some .onBus =>
    let f := match setIsland p k with
      | some i => lastFigures p i
      | none => { load := 0, projected := 0, capacity := 0, heavy := 0, spare := 0 }
    if f.capacity - ((setCfg p k).rated : Int) < f.projected then (sequenced p, .refused)
    else (((sequenced p).on (setOrigin k (some .supervisor))).enter k .rampOut, .done)
  | some .starting | some .synchronising => ((sequenced p).enterStopping k, .done)
  | some .rampOut => (sequenced (setOrigin k (some .supervisor) p), .done)
  | some .opening | some .stopping => (sequenced p, .done)
  | _ => (sequenced p, .refused)

/-- COMMAND SET BLOCK (R64). -/
def commandBlock (k : SetNo) (p : Part) : Sequenced × ResultCode :=
  match p.seq[k].state with
  | some .standby | some .tripped | some .stopping => ((sequenced (stopSetTimer k p)).enter k .blocked, .done)
  | some .starting | some .synchronising =>
    ((sequenced (handSet k .stop (stopSetTimer k p)).1).enter k .blocked, .done)
  | some .blocked => (sequenced p, .done)
  | _ => (sequenced p, .refused)

/-- COMMAND SET RESET (R65). -/
def commandReset (k : SetNo) (p : Part) : Sequenced × ResultCode :=
  let cleared := onSeq k (fun r => { r with slow := false }) p
  match p.seq[k].state with
  | some .tripped => if p.setImage[k].trip then (sequenced p, .refused) else (deriveSet k cleared, .done)
  | some .blocked => (deriveSet k cleared, .done)
  | some .standby => (sequenced cleared, .done)
  | _ => (sequenced p, .refused)

end Sys2Proof.Machine
end

