-- ==== Sys2Proof/Machine/Reserve.lean ====
section
/-! DEFINITION. The Reserve Unit's tests and states (R102 to R112), and the handing on of a set's state changes to the
Share, Governor Output, Reserve and Shed Units (R44). -/

namespace Sys2Proof.Machine

/-! ### Choices and tests (R102 to R105) -/

/-- Start choice of an island (R102). -/
def startChoice (p : Part) (i : IslandNo) : Option SetNo :=
  p.cfg.standby.find? fun k =>
    setStateIs p k .standby && (setCfg p k).mode != .localRun && inIsland p i (setCfg p k).sect

/-- Stop choice of an island (R102). -/
def stopChoice (p : Part) (i : IslandNo) : Option SetNo :=
  p.cfg.standby.reverse.find? fun k =>
    setStateIs p k .onBus && (setCfg p k).mode == .auto && inIsland p i (setCfg p k).sect

/-- The island holds a set in flight (R103). -/
def flightIn (p : Part) (i : IslandNo) : Bool :=
  allSets.any fun k => p.inFlight[k] && inIsland p i (setCfg p k).sect

/-- The states of a set in flight (R103). -/
def flightState : Option SetState → Bool
  | some .starting | some .synchronising | some .rampIn => true
  | _ => false

/-- The head of the heavy queue is waiting (R104). -/
def headWaits (p : Part) (i : IslandNo) (spare : Int) : Bool :=
  match (island p i).reserve.queue with
  | q :: _ => spare - q.kw < p.cfg.plant.reserve
  | [] => false

/-- Start need (R104). -/
def startNeed (p : Part) (i : IslandNo) (spare : Int) : Bool :=
  !islandLive p i || spare < p.cfg.plant.reserve || headWaits p i spare

/-- The stop condition with `rating` still to be taken off the spare (R105). -/
def stopCondition (p : Part) (i : IslandNo) (spare : Int) (rating : Nat) : Bool :=
  islandLive p i && p.cfg.plant.autoStop && !flightIn p i && (island p i).history.isEmpty
    && (island p i).reserve.queue.isEmpty
    && (p.cfg.plant.reserve : Int) + p.cfg.plant.stopHysteresis ≤ spare - rating

/-- The island meets the stop condition for its stop choice (R105). -/
def stopChoiceHolds (p : Part) (i : IslandNo) (spare : Int) : Bool :=
  match stopChoice p i with
  | some k => stopCondition p i spare (setCfg p k).rated
  | none => false

/-! ### Reserve states (R107 to R112) -/

/-- The reserve state with its timer stopped. -/
def reserveState (i : IslandNo) (st : ReserveState) (p : Part) : Part :=
  onReserve i (fun r => { r with state := st, timer := none, stoppingSet := none }) p

/-- START_CONFIRM with the reserve timer started (R107, R108). -/
def confirmStart (i : IslandNo) (p : Part) : Part :=
  onReserve i (fun r =>
    { r with state := .startConfirm, timer := some (after p (p.cfg.plant.startConfirm * 1000)), stoppingSet := none }) p

/-- The reserve-low flag cleared. -/
def clearLow (i : IslandNo) (p : Part) : Part := onReserve i (fun r => { r with low := false }) p

/-- RESERVE_LOW, raised once in each episode of need (R108). -/
def raiseLow (i : IslandNo) (p : Part) : Part :=
  let raised := if (island p i).reserve.low then p else occur .reserveLow (.island i) p
  onReserve i (fun r => { r with low := true }) raised

/-- A test occasion judged in QUIET (R107). -/
def judgeQuiet (i : IslandNo) (spare : Int) (p : Part) : Part :=
  let p1 := if startNeed p i spare then p else clearLow i p
  if flightIn p i then reserveState i .startInFlight p1
  else if startNeed p i spare then confirmStart i p1
  else if stopChoiceHolds p i spare then
    onReserve i (fun r => { r with state := .stopConfirm, timer := some (after p (p.cfg.plant.stopDelay * 1000)) }) p1
  else p1

/-- The state becomes QUIET and the same occasion is judged in it (R110, R111). -/
def quietThenJudge (i : IslandNo) (spare : Int) (p : Part) : Part := judgeQuiet i spare (reserveState i .quiet p)

/-- A start asked of the Set Sequencer; a start answered as not started brings the confirmation again (R108, R109,
R112). -/
def tryStart (i : IslandNo) (k : SetNo) (p : Part) : Sequenced :=
  let s := startRequest k p
  if s.2 then s.1.on (reserveState i .startInFlight) else s.1.unseenByReserve.on (confirmStart i)

/-- A test occasion judged by the island's reserve state (R107, R108, R110 to R112). -/
def reserveJudge (i : IslandNo) (spare : Int) (p : Part) : Sequenced :=
  match (island p i).reserve.state with
  | .quiet => sequenced (judgeQuiet i spare p)
  | .startConfirm =>
    if flightIn p i then sequenced (reserveState i .startInFlight p)
    else if !startNeed p i spare then sequenced (reserveState i .quiet (clearLow i p))
    else if islandLive p i then sequenced p
    else
      match startChoice p i with
      | some k => tryStart i k p
      | none => sequenced p
  | .startInFlight => sequenced p
  | .stopConfirm =>
    if flightIn p i then sequenced (reserveState i .startInFlight p)
    else if stopChoiceHolds p i spare then sequenced p
    else sequenced (quietThenJudge i spare p)
  | .stopping =>
    match (island p i).reserve.stoppingSet with
    | some k => if stopCondition p i spare 0 then sequenced p else (abandonRequest k p).on (quietThenJudge i spare)
    | none => sequenced (quietThenJudge i spare p)

/-- The last flight of an island has ended in failure (R109). -/
def flightFailed (i : IslandNo) (spare : Int) (p : Part) : Sequenced :=
  if !startNeed p i spare then sequenced (reserveState i .quiet (clearLow i p))
  else
    let dead := !islandLive p i
    match startChoice p i with
    | some k =>
      if p.cfg.plant.autoStart || dead then tryStart i k p else sequenced (raiseLow i (confirmStart i p))
    | none => sequenced (raiseLow i (confirmStart i p))

/-- The reserve timer expires in START_CONFIRM, the figures having been taken afresh (R108, R112). -/
def startConfirmExpired (i : IslandNo) (spare : Int) (p : Part) : Sequenced :=
  if flightIn p i then sequenced (reserveState i .startInFlight p)
  else if !startNeed p i spare then sequenced (reserveState i .quiet (clearLow i p))
  else
    match startChoice p i with
    | some k =>
      if p.cfg.plant.autoStart || !islandLive p i then tryStart i k p else sequenced (raiseLow i (confirmStart i p))
    | none => sequenced (raiseLow i (confirmStart i p))

/-- The reserve timer expires in STOP_CONFIRM, the figures having been taken afresh (R110). -/
def stopDelayExpired (i : IslandNo) (spare : Int) (p : Part) : Sequenced :=
  let quiet := reserveState i .quiet p
  match stopChoice p i with
  | some k =>
    if stopCondition p i spare (setCfg p k).rated then
      let s := stopRequest k quiet
      if s.2 then s.1.on (onReserve i fun r => { r with state := .stopping, stoppingSet := some k }) else s.1
    else sequenced quiet
  | none => sequenced quiet

/-- A dead island's start: at once, without confirmation (R112). -/
def blackoutStart (i : IslandNo) (p : Part) : Sequenced :=
  if flightIn p i then sequenced (reserveState i .startInFlight p)
  else
    match startChoice p i with
    | some k => tryStart i k (reserveState i .quiet p)
    | none => sequenced (raiseLow i (confirmStart i p))

/-! ### The changes handed on (R44) -/

/-- The Reserve Unit takes a change of a set's state (R103, R106, R109, R111). DESIGN CHOICE (log entry 54): a change that ends
STOPPING in QUIET is not judged in QUIET as well. -/
def reserveChange (c : SetChange) (p : Part) : Sequenced :=
  let followed := { p with inFlight := modifyAt p.inFlight c.set fun _ => flightState c.new }
  match setIsland p c.set with
  | none => sequenced followed
  | some i =>
    let p1 := takeFigures i followed
    let spare := (figuresOf followed i).spare
    let ended := p.inFlight[c.set] && !flightState c.new
    match (island p1 i).reserve.state with
    | .startInFlight =>
      if ended && !flightIn p1 i then
        if c.new == some .onBus then sequenced (quietThenJudge i spare p1) else flightFailed i spare p1
      else sequenced p1
    | .stopping =>
      if (island p1 i).reserve.stoppingSet == some c.set && c.new != some .rampOut then
        sequenced (reserveState i .quiet p1)
      else reserveJudge i spare p1
    | _ => reserveJudge i spare p1

/-- One change is handed to the Share, Governor Output, Reserve and Shed Units in that order (R44). The Reserve Unit's
own requests make further changes. -/
def deliverChange (c : SetChange) (p : Part) : Sequenced :=
  let units := govChange c (shareChange c p)
  let o := if c.toReserve then reserveChange c units else sequenced units
  o.on fun q =>
    match setIsland q c.set with
    | some i => rebuild i q
    | none => q

/-- Hand changes on, each as an event of its own, with the changes that follow from them behind (R44). `fuel` bounds the
events: a change leads to at most one request of the Reserve Unit, and the changes of that request to none (log entry
9). -/
def handOnAll : Nat → List SetChange → Part → Part
  | 0, _, p => p
  | _ + 1, [], p => p
  | fuel + 1, c :: rest, p =>
    let o := deliverChange c p
    handOnAll fuel (rest ++ o.changes) o.part

/-- Hand on the changes of an operation of the Set Sequencer. -/
def Sequenced.handOn (o : Sequenced) : Part := handOnAll 64 o.changes o.part

/-- A test occasion of an island, with figures taken afresh (R106). -/
def testIsland (i : IslandNo) (p : Part) : Part :=
  if p.islands[i].isSome then (reserveJudge i (figuresOf p i).spare (takeFigures i p)).handOn else p

/-- A test occasion for every island (R101, R113). DESIGN CHOICE (log entry 47): in the order of their names. -/
def testAll (p : Part) : Part := allSections.foldl (fun q i => testIsland i q) p

end Sys2Proof.Machine
end

