-- ==== Sys2Proof/Machine/Heavy.lean ====
section
/-! DEFINITION. Heavy-load requests: the queues, the grants and their orders (R114 to R119). -/

namespace Sys2Proof.Machine

/-! ### Held grants -/

/-- The grant held by a consumer, in whichever island (R100). -/
def grantOf (p : Part) (c : ConsumerNo) : Option HeavyGrant :=
  allSections.findSome? fun i => (island p i).reserve.grants.find? fun g => g.consumer == c

/-- The island whose record holds a consumer's grant. -/
def grantIsland (p : Part) (c : ConsumerNo) : Option IslandNo :=
  allSections.find? fun i => (island p i).reserve.grants.any fun g => g.consumer == c

/-- Take a consumer's grant out of an island's held grants (R117). -/
def dropGrant (i : IslandNo) (c : ConsumerNo) (p : Part) : Part :=
  onReserve i (fun r => { r with grants := r.grants.filter fun g => g.consumer != c }) p

/-- A consumer's grant is released, and the release is a test occasion (R106, R117). -/
def releaseGrant (c : ConsumerNo) (p : Part) : Part :=
  match grantIsland p c with
  | some i => testIsland i (dropGrant i c p)
  | none => p

/-- A GRANT order is handed back as replaced or withdrawn: its grant is released, if held (R117, R118). -/
def grantLost (o : Order) (p : Part) : Part :=
  match o.body with
  | .consumer c .grant =>
    match grantOf p c with
    | some g => if g.serial == o.serial then releaseGrant c p else p
    | none => p
  | _ => p

/-! ### GRANT and DENY orders -/

/-- What a GRANT or DENY order comes to: its serial number when it was queued, and whether it has been replaced again by
the shed order whose place it took (R144). -/
structure HeavyHanded where
  part : Part
  queued : Option Nat
  displaced : Bool

/-- Hand a GRANT or DENY over (R114). A shed order it replaces is handed over again at once and replaces it in turn
(R144), DESIGN CHOICE (log entry 46): without retriggering the restore pacer again. A restore order it replaces returns its
entry to SHED (R161), and a GRANT that a DENY replaces releases its grant (R117, R118). -/
def handHeavy (c : ConsumerNo) (a : ConsumerOrder) (p : Part) : HeavyHanded :=
  let h := handOver (.consumer c a) false p
  match h.replaced with
  | some old =>
    if isShedOrder old.body then
      { part := (handOver old.body old.urgent h.part).part, queued := h.queued, displaced := true }
    else if isRestoreOrder old.body then
      { part := restoreOutcome c .replaced h.part, queued := h.queued, displaced := false }
    else { part := grantLost old h.part, queued := h.queued, displaced := false }
  | none => { part := h.part, queued := h.queued, displaced := false }

/-- A request is denied: a DENY order and HEAVY_DENY (R114, R116). -/
def deny (c : ConsumerNo) (p : Part) : Part := occur .heavyDeny (.consumer c) (handHeavy c .deny p).part

/-! ### The heavy queue -/

/-- The head of a queue keeps its deadline if it has one, and is given one if it has just become head; no request behind
it has one (R100, R116, R120, R121). -/
def headed (deadline : Nat) : List HeavyRequest → List HeavyRequest
  | [] => []
  | q :: rest => { q with deadline := some (q.deadline.getD deadline) } :: rest.map fun r => { r with deadline := none }

/-- The deadline of a request that becomes head now (R114, R116). -/
def headDeadline (p : Part) : Nat := after p (p.cfg.plant.heavyExpiry * 1000)

/-- Change an island's heavy queue and give its head its deadline. -/
def onQueue (i : IslandNo) (f : List HeavyRequest → List HeavyRequest) (p : Part) : Part :=
  onReserve i (fun r => { r with queue := headed (headDeadline p) (f r.queue) }) p

/-- The island whose heavy queue holds a consumer's request. -/
def queueIsland (p : Part) (c : ConsumerNo) : Option IslandNo :=
  allSections.find? fun i => (island p i).reserve.queue.any fun q => q.consumer == c

/-- An order handed back as replaced by an order of the Shed Unit (R118). -/
def heavyReplaced (replaced : Option Order) (p : Part) : Part :=
  match replaced with
  | some o => grantLost o p
  | none => p

/-- A GRANT is handed back as sent: its grant's hold deadline starts (R117). -/
def grantSent (c : ConsumerNo) (serial : Nat) (p : Part) : Part :=
  allSections.foldl (fun q i =>
    onReserve i (fun r =>
      { r with grants := r.grants.map fun g =>
          if g.consumer == c && g.serial == serial then
            { g with hold := some (after p (p.cfg.plant.heavyHold * 1000)) }
          else g }) q) p

/-- A consumer's measured kW is handed on: half the requested kW releases the grant (R117). -/
def drawReported (c : ConsumerNo) (p : Part) : Part :=
  match grantOf p c with
  | some g => if g.kw ≤ p.consumerImage[c].kw * 2 then releaseGrant c p else p
  | none => p

/-! ### Requests (R114) and their ends (R115, R116, R119) -/

/-- A request joins an island's queue, or replaces the kW of the consumer's request that is there, or is denied (R114,
from its fourth case on). -/
def queueHeavy (i : IslandNo) (c : ConsumerNo) (kw : Nat) (p : Part) : Part :=
  let queue := (island p i).reserve.queue
  if queue.any fun q => q.consumer == c then
    testIsland i (onQueue i (fun qs => qs.map fun q => if q.consumer == c then { q with kw := kw } else q) p)
  else if !islandLive p i || Config.heavyMax ≤ queue.length then deny c p
  else
    testIsland i (onQueue i (fun qs => qs ++ [{ consumer := c, kw := kw, arrival := p.clock, deadline := none }]) p)

/-- An accepted HEAVY REQUEST (R114). -/
def heavyRequest (c : ConsumerNo) (kw : Nat) (p : Part) : Part :=
  let asks := ((entryCfg p c).map EntryConfig.askFirst).getD false
  match p.phase, entryIsland p c with
  | .run, some i => if asks then queueHeavy i c kw (releaseGrant c p) else deny c p
  | _, _ => deny c p

/-- The head of an island's heavy queue is considered at a share period; the second value is the kW of the grant just
made (R115). -/
def considerHead (i : IslandNo) (spare : Int) (p : Part) : Part × Nat :=
  match (island p i).reserve.queue with
  | q :: _ =>
    if (p.cfg.plant.reserve : Int) ≤ spare - q.kw then
      let h := handHeavy q.consumer .grant p
      match h.queued with
      | some serial =>
        let granted := onReserve i (fun r =>
          { r with queue := headed (headDeadline p) r.queue.tail,
                   grants := r.grants ++ [{ consumer := q.consumer, kw := q.kw, hold := none, serial := serial }] })
          h.part
        let told := occur .heavyGrant (.consumer q.consumer) granted
        if h.displaced then (releaseGrant q.consumer told, 0) else (told, q.kw)
      | none => (h.part, 0)
    else (p, 0)
  | [] => (p, 0)

/-- A share period's results at the Reserve Unit: the head, then the tests with the spare lowered by the grant just made
(R106, R115). -/
def reservePeriod (i : IslandNo) (f : Figures) (p : Part) : Part :=
  let h := considerHead i f.spare p
  (reserveJudge i (f.spare - h.2) h.1).handOn

/-- The head's deadline has passed (R116). -/
def headExpired (i : IslandNo) (p : Part) : Part :=
  match (island p i).reserve.queue with
  | q :: _ => testIsland i (deny q.consumer (onQueue i List.tail p))
  | [] => p

/-- A dead island's heavy queue is denied head first and its grants are released (R119). -/
def emptyHeavy (i : IslandNo) (p : Part) : Part :=
  let queue := (island p i).reserve.queue
  let emptied := onReserve i (fun r => { r with queue := [], grants := [] }) p
  queue.foldl (fun q r => deny r.consumer q) emptied

/-- A consumer leaves the heavy queue and its grant is released, with no DENY and no event (R119). -/
def forgetHeavy (c : ConsumerNo) (p : Part) : Part :=
  let left :=
    match queueIsland p c with
    | some i => testIsland i (onQueue i (fun qs => qs.filter fun q => q.consumer != c) p)
    | none => p
  releaseGrant c left

/-! ### Queues that become one (R119, R120) -/

/-- The request is taken before the other as two queues become one (R120). -/
def requestFirst (a b : HeavyRequest) : Bool :=
  a.arrival < b.arrival || (a.arrival == b.arrival && a.consumer < b.consumer)

/-- Two heavy queues become one, head first (R120), with at most as many requests taken as `fuel`. -/
def mergeRequests : Nat → List HeavyRequest → List HeavyRequest → List HeavyRequest
  | 0, as, bs => as ++ bs
  | _ + 1, [], bs => bs
  | _ + 1, as, [] => as
  | fuel + 1, a :: as, b :: bs =>
    if requestFirst b a then b :: mergeRequests fuel (a :: as) bs else a :: mergeRequests fuel as (b :: bs)

/-- Two heavy queues become one (R120). -/
def mergeQueues (as bs : List HeavyRequest) : List HeavyRequest := mergeRequests (as.length + bs.length) as bs

/-- A consumer's grant moves with its section from one island to another: a LIVE one holds it, which is no release and no
test occasion, and a DEAD one releases it (R106, R119). -/
def moveGrant (c : ConsumerNo) (src dst : IslandNo) (p : Part) : Part :=
  match (island p src).reserve.grants.find? fun g => g.consumer == c with
  | some g =>
    let dropped := dropGrant src c p
    if islandLive p dst then onReserve dst (fun r => { r with grants := r.grants ++ [g] }) dropped
    else testIsland src dropped
  | none => p

/-- A consumer's request as it leaves its island's queue: a head keeps its deadline (R119). -/
def leavingRequest (r : ReserveRecord) (q : HeavyRequest) : HeavyRequest :=
  { q with deadline := if (r.queue.head?.map HeavyRequest.consumer) == some q.consumer then q.deadline else none }

/-- A consumer's request moves with its section from one island to another, or is denied (R119). DESIGN CHOICE (log entry
56): the old island is tested before the new one. -/
def moveRequest (c : ConsumerNo) (src dst : IslandNo) (p : Part) : Part :=
  match (island p src).reserve.queue.find? fun q => q.consumer == c with
  | some q =>
    let dropped := onQueue src (fun qs => qs.filter fun r => r.consumer != c) p
    let merged := mergeQueues (island dropped dst).reserve.queue [leavingRequest (island p src).reserve q]
    if !islandLive p dst || Config.heavyMax < merged.length then testIsland src (deny c dropped)
    else testIsland dst (testIsland src (onQueue dst (fun _ => merged) dropped))
  | none => p

/-- The request or grant of a consumer moves with its section from one island to another (R119). -/
def moveHeavy (c : ConsumerNo) (src dst : IslandNo) (p : Part) : Part := moveRequest c src dst (moveGrant c src dst p)

end Sys2Proof.Machine
end

