-- ==== Sys2Proof/Machine/ShedSeq.lean ====
section
/-! DEFINITION. The shed sequences: shed orders (R143), fast shed (R146 to R149), paced shed (R150, R151), dead-island
clearing (R153), manual shed and release (R154, R155) and the restore steps (R160, R161). -/

namespace Sys2Proof.Machine

/-! ### Shed orders (R129, R143) -/

/-- Pending relief that an order fixes: the offered kW for a TRIP, and the measured kW less the new limit for a LIMIT,
which for the floor is the offered kW (R129). -/
def shedRelief (p : Part) (e : EntryConfig) : ConsumerOrder → Nat
  | .limit kw => p.consumerImage[e.consumer].kw - kw
  | _ => offeredKw p e

/-- Shed orders handed over together: the consumers whose order was queued, and the orders they replaced. -/
structure ShedHanded where
  part : Part
  queued : List ConsumerNo
  replaced : List Order

/-- No shed order handed over yet. -/
def noneHanded (p : Part) : ShedHanded := { part := p, queued := [], replaced := [] }

/-- The order that a shed order takes the place of: a restore order ends its own sequence at once (R29, R161), a GRANT or
DENY is left for the Reserve Unit. -/
def displaced (c : ConsumerNo) (old : Option Order) (p : Part) : Part :=
  match old with
  | some o => if isRestoreOrder o.body then restoreOutcome c .replaced p else p
  | none => p

/-- The entry of a queued shed order enters SHED_PENDING with its relief and cause, and its island's restore pacer is
retriggered (R143). -/
def pendShed (e : EntryConfig) (relief : Nat) (cause : ShedCause) (p : Part) : Part :=
  let pended := onEntry e.consumer (fun r => { r with relief := relief, cause := some cause })
    (enterEntry e.consumer .shedPending p)
  match islandOf p e.sect with
  | some i => retrigger i pended
  | none => pended

/-- Hand one shed order over (R143). -/
def ShedHanded.hand (o : ShedHanded) (e : EntryConfig) (a : ConsumerOrder) (urgent : Bool) (cause : ShedCause) :
    ShedHanded :=
  let relief := shedRelief o.part e a
  let h := handOver (.consumer e.consumer a) urgent o.part
  if h.queued.isSome then
    { part := pendShed e relief cause (displaced e.consumer h.replaced h.part)
      queued := o.queued ++ [e.consumer]
      replaced := o.replaced ++ h.replaced.toList }
  else { o with part := h.part }

/-- The test occasions of the grants whose GRANT a group of shed orders has replaced (R117). -/
def ShedHanded.grantsLost (o : ShedHanded) (p : Part) : Part := o.replaced.foldl (fun q r => grantLost r q) p

/-- The end of a group of shed orders: one rebuild for the entries' changes, which there are where an order was queued
(R140, R146), and then the test occasions of the replaced GRANTs. -/
def ShedHanded.done (o : ShedHanded) (i : IslandNo) : Part :=
  o.grantsLost (if o.queued.isEmpty then o.part else rebuild i o.part)

/-- The order of a selection's action (R143, R146). -/
def ShedMeans.order : ShedMeans → ConsumerOrder
  | .trip => .trip
  | .limit kw => limitOrder kw

/-- The order that takes an entry off whole: TRIP, or LIMIT to its floor (R153, R154). -/
def wholeOrder (e : EntryConfig) : ConsumerOrder :=
  match e.kind with
  | .breaker => .trip
  | .limitable => .limit e.floor

/-! ### Fast shed (R146 to R149) -/

/-- One action of a selection: passed over when its entry is no longer CONNECTED or no longer in the island (R146). -/
def takeAction (i : IslandNo) (cause : ShedCause) (o : ShedHanded) (a : ShedAction) : ShedHanded :=
  match entryCfg o.part a.consumer with
  | some e =>
    if entryInIsland o.part i e && entryIs o.part a.consumer .connected then o.hand e a.means.order true cause else o
  | none => o

/-- The paced phase that a fast shed preempts (R148). DESIGN CHOICE (log entry 58): STEP_WAIT, in which the pacer timer does
not run, is saved with 0 ms still to run, and READ ISLAND shows that. -/
def pacedPhase (now : Nat) (r : ShedContext) : Option PacedPhase :=
  match r.state with
  | .confirming | .stepWait | .settling =>
    some { state := r.state, remaining := r.pacerTimer.getD now - now, stepConsumer := r.stepConsumer, arrived := false,
           steps := r.steps, exhausted := r.exhausted }
  | .idle | .burst | .postCheck => none

/-- The shed context after a fast shed whose queued orders are for these consumers (R146 to R148). -/
def burstContext (now : Nat) (joined : List ConsumerNo) (r : ShedContext) : ShedContext :=
  let burst := r.burst ++ joined.filter fun c => !r.burst.contains c
  { r with
    state := if burst.isEmpty then .postCheck else .burst
    burst := burst
    checkTimer := if burst.isEmpty then some (now + Config.checkTime) else none
    pacerTimer := none
    stepConsumer := none
    saved := match r.saved with
      | some s => some s
      | none => pacedPhase now r }

/-- A fast shed of a LIVE island: restoration is abandoned, the actions are handed over as urgent orders, the burst is
joined and the restore pacer retriggered (R146, R149, R162). -/
def fastShed (i : IslandNo) (cause : ShedCause) (actions : List ShedAction) (p : Part) : Part :=
  let handed := actions.foldl (takeAction i cause) (noneHanded (abandonRestore i p))
  let burst := retrigger i (onShed i (burstContext p.clock handed.queued) handed.part)
  let told := if handed.queued.isEmpty then burst else occur .fastShed (.island i) burst
  ShedHanded.done { handed with part := told } i

/-- A set loss taken in the island named with it (R146). -/
def setLoss (k : SetNo) (i : IslandNo) (p : Part) : Part :=
  let actions := match p.selection[k].last with
    | some s => s.actions
    | none => []
  let discarded := discardSelection k p
  if islandLive p i then fastShed i .contingency actions discarded else discarded

/-! ### Paced shed (R150, R151) -/

/-- The pacer timer for interval B (R150, R151). -/
def settleUntil (p : Part) : Nat := after p (p.cfg.plant.settle * 1000)

/-- The order of a paced step for an entry (R150). -/
def stepOrder (p : Part) (f : Figures) (e : EntryConfig) : ConsumerOrder :=
  match e.kind with
  | .breaker => .trip
  | .limitable =>
    let deficit := f.projected - permitted f p.cfg.plant.overload
    if deficit ≤ offeredKw p e then limitOrder ((p.consumerImage[e.consumer].kw : Int) - deficit).toNat else .limit e.floor

/-- Nothing eligible remains: SHED_EXHAUSTED once in an episode, and interval B runs (R150). -/
def stepExhausted (i : IslandNo) (p : Part) : Part :=
  let told := if (island p i).shed.exhausted then p else occur .shedExhausted (.island i) p
  onShed i (fun r =>
    { r with state := .settling, exhausted := true, stepConsumer := none, checkTimer := none,
             pacerTimer := some (settleUntil p) }) told

/-- A paced step from the figures of the step (R150). -/
def pacedStep (i : IslandNo) (f : Figures) (p : Part) : Part :=
  match p.cfg.shedList.find? (eligible p i) with
  | none => stepExhausted i p
  | some e =>
    let handed := (noneHanded p).hand e (stepOrder p f e) true .paced
    if handed.queued.isEmpty then handed.part
    else
      let stepped := onShed i (fun r =>
        { r with state := .stepWait, steps := min Config.stepsMax (r.steps + 1), stepConsumer := some e.consumer,
                 checkTimer := none, pacerTimer := none }) handed.part
      ShedHanded.done { handed with part := occur .pacedShed (.consumer e.consumer) stepped } i

/-- The paced test of a share period (R150). -/
def pacedTest (i : IslandNo) (f : Figures) (p : Part) : Part :=
  match (island p i).shed.state with
  | .idle =>
    if overloaded p f then
      retrigger i (onShed i (fun r =>
        { r with state := .confirming, pacerTimer := some (after p p.cfg.plant.overloadConfirm), steps := 0,
                 exhausted := false }) p)
    else p
  | .confirming => if overloaded p f then p else onShed i (fun _ => ShedContext.fresh) p
  | .burst | .postCheck | .stepWait | .settling => p

/-- A saved phase becomes the current one (R148). -/
def resumePhase (p : Part) (s : PacedPhase) : ShedContext :=
  let base : ShedContext := { ShedContext.fresh with steps := s.steps, exhausted := s.exhausted }
  match s.state with
  | .stepWait =>
    if s.arrived then { base with state := .settling, pacerTimer := some (settleUntil p) }
    else { base with state := .stepWait, stepConsumer := s.stepConsumer }
  | st => { base with state := st, pacerTimer := some (after p s.remaining) }

/-- The check timer expires (R147). -/
def checkExpired (i : IslandNo) (p : Part) : Part :=
  let f := figuresOf p i
  let taken := takeFigures i p
  if overloaded p f then
    match (island p i).shed.saved with
    | some s => onShed i (fun _ => resumePhase p s) taken
    | none => pacedStep i f (onShed i (fun r => { r with steps := 0, exhausted := false }) taken)
  else onShed i (fun _ => ShedContext.fresh) taken

/-- The pacer timer expires in CONFIRMING or SETTLING (R150, R151). -/
def pacerExpired (i : IslandNo) (p : Part) : Part :=
  let f := figuresOf p i
  let taken := takeFigures i p
  if overloaded p f then pacedStep i f taken else onShed i (fun _ => ShedContext.fresh) taken

/-! ### Restore steps (R160, R161) -/

/-- A history record meets the tests of a restore candidate (R160). -/
def isCandidate (p : Part) (h : HistoryRecord) : Bool :=
  h.cause != .manual && ((entryCfg p h.consumer).map EntryConfig.autoRestore).getD false
    && !p.entry[h.consumer].restoreFailed && entryIs p h.consumer .shed

/-- Restore candidate of an island (R160). -/
def restoreCandidate (p : Part) (i : IslandNo) : Option HistoryRecord := (island p i).history.find? (isCandidate p)

/-- Restore condition for a candidate (R160). -/
def restoreHolds (p : Part) (i : IslandNo) (f : Figures) (h : HistoryRecord) : Bool :=
  let estimate := ((entryCfg p h.consumer).map EntryConfig.estimate).getD 0
  islandLive p i && (island p i).shed.state == .idle && p.cfg.plant.autoRestore
    && ((p.cfg.plant.reserve + p.cfg.plant.restoreMargin : Nat) : Int) ≤ f.spare - (max h.offered estimate : Nat)

/-- The order that restores an entry: CLOSE, or LIMIT none (R160). -/
def restoreOrder (p : Part) (c : ConsumerNo) : ConsumerOrder :=
  match (entryCfg p c).map EntryConfig.kind with
  | some .limitable => .release
  | _ => .close

/-- No step could yet be made (R160). -/
def stillDue (i : IslandNo) (p : Part) : Part := onRestore i (fun r => { r with due := true, timer := none }) p

/-- Hand a candidate's restore order over (R160). DESIGN CHOICE (log entry 65): where it replaces a GRANT, the table is rebuilt
for the entry's change first, and the test occasion of the released grant follows. -/
def restoreStepFor (i : IslandNo) (c : ConsumerNo) (p : Part) : Part :=
  let h := handOver (.consumer c (restoreOrder p c)) false p
  if h.queued.isSome then
    let stepped := onRestore i (fun _ => { RestoreContext.fresh with state := .stepWait, stepConsumer := some c })
      (enterEntry c .restorePending h.part)
    heavyReplaced h.replaced (rebuildFor c stepped)
  else stillDue i h.part

/-- A restore step is tried (R160). -/
def tryRestore (i : IslandNo) (f : Figures) (p : Part) : Part :=
  if (island p i).history.isEmpty then onRestore i (fun _ => RestoreContext.fresh) p
  else
    match restoreCandidate p i with
    | some h => if restoreHolds p i f h then restoreStepFor i h.consumer p else stillDue i p
    | none => stillDue i p

/-- RESTORE STEP moves a HELD pacer to INTERVAL (R161). -/
def heldToInterval (p : Part) (r : RestoreContext) : RestoreContext :=
  { r with state := .interval, timer := some (after p (p.cfg.plant.restoreStep * 1000)), due := false }

/-- RESTORE STEP at an island (R161). -/
def commandRestoreStep (i : IslandNo) (p : Part) : Part × ResultCode :=
  if (island p i).restore.state == .held then (onRestore i (heldToInterval p) p, .done) else (p, .refused)

/-! ### A share period's results at the Shed Unit (R140, R149, R150, R160) -/

/-- The deficit of a fast overload (R149). -/
def overloadDeficit (p : Part) (f : Figures) : Int := f.projected - permitted f p.cfg.plant.ceiling

/-- The fast overload test is made in this state (R149). -/
def fastTested : ShedState → Bool
  | .idle | .confirming | .stepWait | .settling => true
  | .burst | .postCheck => false

/-- The overload tests of a share period (R149, R150). -/
def overloadTests (i : IslandNo) (f : Figures) (p : Part) : Part :=
  if fastTested (island p i).shed.state && fastOverloaded p f then
    fastShed i .fastOverload (selectionFor p i 0 (overloadDeficit p f)).actions p
  else pacedTest i f p

/-- A share period's results at the Shed Unit: the figures handed on, and the sets that their capacity counts (R137, R140,
R149, R150, R160). DESIGN CHOICE (log entry 57): the overload tests come first, and then the restore try that is due. -/
def shedPeriod (i : IslandNo) (f : Figures) (counted : List SetNo) (p : Part) : Part :=
  let tested := overloadTests i f (rebuildWith i f counted p)
  if (island tested i).restore.due then tryRestore i f tested else tested

/-! ### Dead-island clearing (R153) -/

/-- The entry is given an order by dead-island clearing (R153). -/
def clearedWhenDead (p : Part) (i : IslandNo) (e : EntryConfig) : Bool :=
  entryInIsland p i e && entryIs p e.consumer .connected && !e.guarded

/-- Dead-island clearing (R153). The change of marking, the merge or the split that yields the DEAD island rebuilds its
table, whether or not an order is queued (R140). -/
def clearDead (i : IslandNo) (p : Part) : Part :=
  let reset := abandonRestore i (onShed i (fun _ => ShedContext.fresh) p)
  let handed := (reset.cfg.shedList.filter (clearedWhenDead reset i)).foldl
    (fun o e => o.hand e (wholeOrder e) true .deadBus) (noneHanded reset)
  let members := allSets.filter fun k => inIsland p i (setCfg p k).sect
  handed.grantsLost (rebuild i (members.foldl (fun q k => discardSelection k q) handed.part))

/-! ### Manual shed and release (R154, R155) -/

/-- SHED CONSUMER for an entry (R154). -/
def manualShed (e : EntryConfig) (p : Part) : Part × ResultCode :=
  match p.entry[e.consumer].state with
  | some .connected =>
    let handed := (noneHanded p).hand e (wholeOrder e) false .manual
    if handed.queued.isEmpty then (handed.part, .refused)
    else
      match islandOf p e.sect with
      | some i => (handed.done i, .done)
      | none => (handed.part, .done)
  | some .shed => (changeRecord e.consumer (fun h => { h with cause := .manual }) p, .done)
  | _ => (p, .refused)

/-- RELEASE CONSUMER for a consumer (R155): a changed restore-failed flag is a rebuild occasion (R128). -/
def manualRelease (c : ConsumerNo) (p : Part) : Part × ResultCode :=
  if hasRecord p c then
    let released := changeRecord c (fun h => if h.cause == .manual then { h with cause := .released } else h) p
    if p.entry[c].restoreFailed then
      (rebuildFor c (onEntry c (fun r => { r with restoreFailed := false }) released), .done)
    else (released, .done)
  else (p, .refused)

end Sys2Proof.Machine
end

