-- ==== Sys2Proof/Machine/Topology.lean ====
section
/-! DEFINITION. The Topology Unit: the island map (R12), changes of marking (R15), dead islands (R20, R21, R112, R153),
merges (R19, R84, R97, R120, R158) and splits (R20, R121, R158). -/

namespace Sys2Proof.Machine

/-! ### The island map (R12) -/

/-- The `n` ties that lead from a section onwards round the ring all join (tie t joins section t and the next). -/
def ringJoined (joins : Vector Bool 4) (s : SectionNo) : Nat → Bool
  | 0 => true
  | n + 1 => joins[s] && ringJoined joins (s + 1) n

/-- Two sections share an island: one of the two ways round the ring between them is joined (R12). -/
def sectionsJoined (joins : Vector Bool 4) (s t : SectionNo) : Bool :=
  ringJoined joins s (t - s).val || ringJoined joins t (s - t).val

/-- Name of the island of a section: the lowest letter it contains (R12). -/
def islandName (joins : Vector Bool 4) (s : SectionNo) : IslandNo := (allSections.find? (sectionsJoined joins s)).getD s

/-- The island map of recorded tie states (R12). -/
def islandMapOf (joins : Vector Bool 4) : Vector IslandNo 4 := Vector.ofFn (islandName joins)

/-- A tie joins its sections: it is configured and held closed (R12). -/
def tieJoinsNow (p : Part) (t : TieNo) : Bool := tieConfigured p t && p.tieImage[t].closed

/-! ### Dead-bus permission (R48) -/

/-- A SYNCHRONISING set of the island whose dead-bus permission no longer agrees with the marking (R48). -/
def syncDisagrees (p : Part) (i : IslandNo) (k : SetNo) : Bool :=
  setConfigured p k && inIsland p i (setCfg p k).sect && setStateIs p k .synchronising
    && p.seq[k].deadBusSent != some (deadBusNow p k)

/-- Fresh SYNC orders bring an island's SYNCHRONISING sets into agreement with its marking (R48). DESIGN CHOICE (log entry
52): by set number. -/
def syncAgree (i : IslandNo) (p : Part) : Sequenced :=
  allSets.foldl (fun o k => if syncDisagrees o.part i k then o.handSync k else o) (sequenced p)

/-! ### Dead islands (R15, R20, R112, R119, R153) -/

/-- The Reserve Unit takes a dead island: queue and grants, then the blackout start (R112, R119). -/
def reserveDead (i : IslandNo) (p : Part) : Part :=
  (blackoutStart i (emptyHeavy i (onReserve i (fun r => { r with timer := none, stoppingSet := none }) p))).handOn

/-- An island is handed to the Shed Unit and the Reserve Unit as a dead island. -/
def deadIsland (i : IslandNo) (p : Part) : Part := reserveDead i (clearDead i p)

/-- The Share and Governor Output Units end an island's share periods (R66, R92, R97). -/
def endPeriods (i : IslandNo) (p : Part) : Part := clearSaturation i (clearTargets i (stopPlans i (stopPeriods i p)))

/-- A change of marking from LIVE to DEAD (R15). -/
def becameDead (i : IslandNo) (p : Part) : Part :=
  let synced := syncAgree i (occur .deadIsland (.island i) p)
  deadIsland i (endPeriods i synced.handOn)

/-- A change of marking from DEAD to LIVE (R15, R66, R112, R140, R159). -/
def becameLive (i : IslandNo) (p : Part) : Part :=
  rebuild i (retrigger i (clearLow i (beginPeriods i (syncAgree i p).handOn)))

/-- Hand on the marking of an island where it has changed from what it was (R15). -/
def handMarking (i : IslandNo) (wasLive : Bool) (p : Part) : Part :=
  match wasLive, islandLive p i with
  | true, false => becameDead i p
  | false, true => becameLive i p
  | _, _ => p

/-! ### The Reserve Unit's records (R120, R121) -/

/-- An island in STOPPING has its stopping set's ramp-out abandoned (R120, R121). -/
def Sequenced.abandonStopping (o : Sequenced) (i : IslandNo) : Sequenced :=
  let r := (island o.part i).reserve
  match r.state, r.stoppingSet with
  | .stopping, some k =>
    let a := abandonRequest k o.part
    { part := a.part, changes := o.changes ++ a.changes }
  | _, _ => o

/-- Reserve state of an island that a merge or a split yields (R120, R121). -/
def yieldedState (p : Part) (i : IslandNo) : ReserveState := if flightIn p i then .startInFlight else .quiet

/-- The merged reserve record (R120), before the requests beyond the eighth are denied. -/
def mergedReserve (p : Part) (lo hi : IslandNo) : ReserveRecord :=
  let a := (island p lo).reserve
  let b := (island p hi).reserve
  { state := yieldedState p lo, timer := none, stoppingSet := none, low := false,
    queue := headed (headDeadline p) ((mergeQueues a.queue b.queue).take Config.heavyMax), grants := a.grants ++ b.grants }

/-- The requests that a merge leaves no room for (R120). -/
def mergeOverflow (p : Part) (lo hi : IslandNo) : List HeavyRequest :=
  (mergeQueues (island p lo).reserve.queue (island p hi).reserve.queue).drop Config.heavyMax

/-- The reserve record of an island that a split yields, from the original's (R121). -/
def splitReserve (p : Part) (i : IslandNo) (r : ReserveRecord) : ReserveRecord :=
  { state := yieldedState p i, timer := none, stoppingSet := none, low := false,
    queue := headed (headDeadline p) (r.queue.filter fun q => entryIsland p q.consumer == some i),
    grants := r.grants.filter fun g => entryIsland p g.consumer == some i }

/-! ### The Shed Unit's contexts (R158) -/

/-- The paced phase that a context holds, current or saved (R158). -/
def heldPhase (r : ShedContext) : Option PacedPhase :=
  match r.saved with
  | some s => some s
  | none => pacedPhase 0 r

/-- The context is in BURST or POST_CHECK. -/
def inBurst (r : ShedContext) : Bool := r.state == .burst || r.state == .postCheck

/-- The shed context of a merged island (R158). -/
def mergedShed (p : Part) (a b : ShedContext) : ShedContext :=
  let burst := a.burst ++ b.burst.filter fun c => !a.burst.contains c
  let phases := [heldPhase a, heldPhase b].filterMap id
  let steps := min Config.stepsMax (phases.map PacedPhase.steps).sum
  let exhausted := phases.any PacedPhase.exhausted
  if inBurst a || inBurst b then
    { state := if burst.isEmpty then .postCheck else .burst
      burst := burst
      checkTimer := if burst.isEmpty then some (after p Config.checkTime) else none
      pacerTimer := none
      stepConsumer := none
      steps := steps
      exhausted := exhausted
      saved := if phases.isEmpty then none
        else some { state := .settling, remaining := p.cfg.plant.settle * 1000, stepConsumer := none, arrived := false,
                    steps := steps, exhausted := exhausted } }
  else if phases.isEmpty then ShedContext.fresh
  else { ShedContext.fresh with state := .settling, pacerTimer := some (settleUntil p), steps := steps,
                                exhausted := exhausted }

/-! ### Merge (R18, R19) -/

/-- The Share and Governor Output Units take a merge: the periods of both islands stop, with their plans (R84, R97). -/
def shareMerge (lo hi : IslandNo) (p : Part) : Part :=
  let ended := stopPlans hi (stopPeriods hi (stopPlans lo (stopPeriods lo p)))
  if islandLive p lo then beginPeriods lo ended else ended

/-- The Reserve Unit takes a merge: its records become one (R120). -/
def reserveMerge (lo hi : IslandNo) (p : Part) : Part :=
  let merged := onReserve lo (fun _ => mergedReserve p lo hi)
    (onReserve hi (fun r => { r with queue := [], grants := [] }) p)
  (mergeOverflow p lo hi).foldl (fun q r => deny r.consumer q) merged

/-- The Shed Unit takes a merge: restoration is abandoned, contexts and histories become one, and the absorbed record
ceases (R158). DESIGN CHOICE (log entry 48): the surviving island's restoration is abandoned first. -/
def shedMerge (lo hi : IslandNo) (p : Part) : Part :=
  let abandoned := abandonRestore hi (abandonRestore lo p)
  let a := island abandoned lo
  let b := island abandoned hi
  let joined := onIsland lo (fun r =>
    { r with shed := mergedShed p a.shed b.shed, history := mergeHistories a.history b.history }) abandoned
  let ceased := { joined with islands := joined.islands.set hi none }
  let waiting := retrigger lo ceased
  if islandLive waiting lo then rebuild lo waiting else clearDead lo waiting

/-- Two islands merge; `lo` survives and `hi` is absorbed. The map is already the new one (R18, R19). DESIGN CHOICE (log entry
48): the surviving island's abandon request (R120) is handed over first. -/
def mergeIslands (lo hi : IslandNo) (p : Part) : Part :=
  let synced := syncAgree lo (occur .islandChange (.island lo) p)
  let abandoned := ((synced.on (shareMerge lo hi)).abandonStopping lo).abandonStopping hi
  let merged := (abandoned.on (reserveMerge lo hi)).on (shedMerge lo hi)
  let handed := merged.handOn
  if islandLive handed lo then testIsland lo handed else (blackoutStart lo handed).handOn

/-! ### Split (R18, R20) -/

/-- The Share and Governor Output Units take an island that a split yields (R84, R97). -/
def shareSplit (i : IslandNo) (p : Part) : Part :=
  let ended := stopPlans i (stopPeriods i p)
  if islandLive p i then beginPeriods i ended else clearSaturation i (clearTargets i ended)

/-- The Shed Unit gives an island that a split yields its part of the history, and an IDLE context (R158). -/
def shedSplit (i : IslandNo) (history : List HistoryRecord) (p : Part) : Part :=
  retrigger i (onIsland i (fun r =>
    { r with shed := ShedContext.fresh, restore := RestoreContext.fresh,
             history := history.filter fun h => entryIsland p h.consumer == some i }) p)

/-- The marking of an island that a split yields: a LIVE one is tested, a DEAD one is handed on as a dead island, with
DEAD_ISLAND where the original was LIVE (R20, R121). -/
def yieldSplit (wasLive : Bool) (i : IslandNo) (p : Part) : Part :=
  if islandLive p i then testIsland i p
  else deadIsland i (if wasLive then occur .deadIsland (.island i) p else p)

/-- One island splits; `keep` keeps the record and `other` gets a new one. The map is already the new one (R18, R20). DESIGN
CHOICE (log entry 40): the two events, the two hand-ons and the two islands' tests take the island that keeps the name first,
and then the new one. -/
def splitIsland (keep other : IslandNo) (wasLive : Bool) (p : Part) : Part :=
  let created := { p with islands := p.islands.set other (some Island.fresh) }
  let told := occur .islandChange (.island other) (occur .islandChange (.island keep) created)
  let first := syncAgree keep told
  let second := syncAgree other first.part
  let synced : Sequenced := { part := second.part, changes := first.changes ++ second.changes }
  let abandoned := (synced.on fun q => shareSplit other (shareSplit keep q)).abandonStopping keep
  let original := (island abandoned.part keep).reserve
  let reserved := abandoned.on fun q =>
    onReserve other (fun _ => splitReserve q other original) (onReserve keep (fun _ => splitReserve q keep original) q)
  let shed := reserved.on fun q =>
    let restored := abandonRestore keep q
    let history := (island restored keep).history
    rebuild other (rebuild keep (shedSplit other history (shedSplit keep history restored)))
  yieldSplit wasLive other (yieldSplit wasLive keep shed.handOn)

/-! ### Tie changes (R17) -/

/-- The two islands at a tie's ends. -/
def tieEnds (m : Vector IslandNo 4) (t : TieNo) : IslandNo × IslandNo := (m[t], m[t + 1])

/-- The Topology Unit takes a tie's change: the map is made anew, and it is unchanged, or two islands merge, or one
splits (R17). It records nothing in ACQUIRE (R21). -/
def tieChanged (t : TieNo) (joins : Bool) (p : Part) : Part :=
  match p.islandMap with
  | none => p
  | some old =>
    let recorded := { p with tieJoins := p.tieJoins.set t joins }
    let new := islandMapOf recorded.tieJoins
    let mapped := { recorded with islandMap := some new }
    if new == old then recorded
    else if joins then
      let ends := tieEnds old t
      mergeIslands (min ends.1 ends.2) (max ends.1 ends.2) mapped
    else
      let ends := tieEnds new t
      splitIsland (min ends.1 ends.2) (max ends.1 ends.2) (islandLive p (tieEnds old t).1) mapped

end Sys2Proof.Machine
end

