-- ==== Sys2Proof/Machine/Transmit.lean ====
section
/-! DEFINITION. The supervisor transmitter: reply frames (R169, R180) and what is sent next (R168, R183). -/

namespace Sys2Proof.Machine

/-- Value of a result code (R169). -/
def ResultCode.value : ResultCode → Nat
  | .done => 0 | .clamped => 1 | .noSuch => 2 | .badRequest => 3 | .refused => 4 | .inSequence => 5 | .listFull => 6
  | .duplicate => 7 | .storeBusy => 8 | .storeFailed => 9 | .busy => 10

/-- The frame of a reply: the request's kind with its most significant bit set, the request's tag, the code and the data
(R180). -/
def replyFrame (r : Reply) : List Byte := supervisorFrame (r.kind ||| 128#8) r.tag (byteOf r.code.value :: r.data)

/-- A reply begins to be sent: its request or its busy-list entry becomes SENDING (R168). -/
def beginReply (r : Reply) (p : Part) : Part :=
  { p with
    supTx := some { what := .reply r.serial, frame := replyFrame r }
    requests := p.requests.map fun q => if q.serial == r.serial then { q with condition := some .sending } else q
    busyList := p.busyList.map fun b => if b.serial == r.serial then { b with sending := true } else b }

/-- The idle supervisor transmitter sends the head of the reply order, else a report that the allowance covers (R168). -/
def sendNext (p : Part) : Part :=
  if p.supTx.isSome then p
  else
    match p.replies with
    | r :: rest => beginReply r { p with replies := rest }
    | [] => sendReport p

end Sys2Proof.Machine
end

