-- ==== Sys2Proof/Machine/Startup.lean ====
section
/-! DEFINITION. Cold start, the end of ACQUIRE, restart, the reset input and the loss of power (R188 to R193), and what
the part does of its own accord once an event has been taken: ACQUIRE ends when it is due, the order arbiter and the
supervisor transmitter choose (R9, R32, R168). -/

namespace Sys2Proof.Machine

/-! ### Freshness of every object (R5, R6, R9) -/

/-- Freshness record of an object. -/
def freshOf (p : Part) : ObjectRef → Fresh
  | .set k => p.setImage[k].fresh
  | .consumer c => p.consumerImage[c].fresh
  | .meter s => p.meterImage[s].fresh
  | .tie t => p.tieImage[t].fresh

/-- Change an object's freshness record. -/
def onFresh (o : ObjectRef) (f : Fresh → Fresh) (p : Part) : Part :=
  match o with
  | .set k => onSetImage k (fun r => { r with fresh := f r.fresh }) p
  | .consumer c => onConsumerImage c (fun r => { r with fresh := f r.fresh }) p
  | .meter s => onMeterImage s (fun r => { r with fresh := f r.fresh }) p
  | .tie t => onTieImage t (fun r => { r with fresh := f r.fresh }) p

/-- Every object: sets, consumers, section meters and ties, each by number. -/
def allObjects : List ObjectRef :=
  allSets.map .set ++ allConsumers.map .consumer ++ allSections.map .meter ++ allTies.map .tie

/-- Freshness of an object that has gone STALE (R6, R9). -/
def Fresh.gone : Fresh := { state := .stale, counted := false, staleAt := none }

/-- An object goes STALE: OBJECT_STALE is raised, and a set's plan ends (R6, R9, R95). -/
def goStale (o : ObjectRef) (p : Part) : Part :=
  let raised := occur .objectStale (objectNamed o) (onFresh o (fun _ => Fresh.gone) p)
  match o with
  | .set k => cutPlan k raised
  | _ => raised

/-- Every configured object is QUALIFIED (R9). -/
def allQualified (p : Part) : Bool :=
  allObjects.all fun o => !objectConfigured p o || (freshOf p o).state == .qualified

/-! ### The end of ACQUIRE (R189) -/

/-- Objects still UNQUALIFIED are made STALE (R9). -/
def staleRemaining (p : Part) : Part :=
  allObjects.foldl
    (fun q o => if objectConfigured q o && (freshOf q o).state == .unqualified then goStale o q else q) p

/-- The island map and the island records are built (R21). -/
def buildIslands (p : Part) : Part :=
  let joins := Vector.ofFn (tieJoinsNow p)
  let map := islandMapOf joins
  { p with
    tieJoins := joins
    islandMap := some map
    islands := Vector.ofFn fun i => if map[i] = i then some Island.fresh else none }

/-- Set and entry states are derived (R61, R126). No other block holds anything yet that a derived state would change
(log entry 23). -/
def deriveStates (p : Part) : Part :=
  let sets := (allSets.filter (setConfigured p)).foldl (fun q k => (deriveSet k q).part) p
  (allConsumers.filter (consumerConfigured p)).foldl (fun q c => deriveEntry c q) sets

/-- An island just built is handed on: a DEAD one as a dead island with DEAD_ISLAND, a LIVE one to its share periods
(R21). -/
def openIsland (i : IslandNo) (p : Part) : Part :=
  if islandLive p i then beginPeriods i p else deadIsland i (occur .deadIsland (.island i) p)

/-- The end of ACQUIRE, in the order of R189. The order transmitter stays idle until the last step, for the phase is ACQUIRE
until then (R34). DESIGN CHOICE (log entry 59): the tables are built in the order of the islands' names. -/
def endAcquire (p : Part) : Part :=
  let derived := deriveStates (buildIslands (staleRemaining p))
  let tabled := (islandNames derived).foldl (fun q i => rebuild i q) derived
  let opened := (islandNames tabled).foldl (fun q i => openIsland i q) tabled
  { opened with phase := .run, acquireAt := none }

/-- ACQUIRE ends once every configured object is QUALIFIED (R9, R189). -/
def checkAcquire (p : Part) : Part := if p.phase == .acquire && allQualified p then endAcquire p else p

/-- What follows each event at once: the end of ACQUIRE where it is due (R189), the choice of the order arbiter (R32)
and that of the supervisor transmitter (R168). DESIGN CHOICE (log entry 66): where the event is the service of a request, its
reply has been formed before ACQUIRE ends, and goes before the reports that the end of ACQUIRE raises. -/
def kick (p : Part) : Part := sendNext (arbitrate (checkAcquire p))

/-! ### Cold start, restart, reset and power (R188 to R193) -/

/-- Rate selected by the two strap pins (R193). -/
def strapRate (strap1 strap2 : Bool) : LineRate := if strap1 && strap2 then .r460800 else .r115200

/-- The store after whatever write was in progress has been cut off (R191). -/
def Store.cutOff (s : Store) : Store := { s with saving := none }

/-- The working configuration that a cold start loads (R188). -/
def loadedConfiguration (s : Store) : Configuration := if s.valid then s.contents else Configuration.default

/-- A cold start (R188). -/
def coldStart (strap1 strap2 : Bool) (p : Part) : Part :=
  kick { Part.acquiring p.store.cutOff (loadedConfiguration p.store) (strapRate strap1 strap2) with
    resetAsserted := p.resetAsserted }

/-- A restart: the working configuration, the store and the line rate are kept (R192). -/
def restartTaken (p : Part) : Part :=
  kick { Part.acquiring p.store p.cfg p.rate with resetAsserted := p.resetAsserted }

/-- The part held in reset: lines inactive, transmitters idle, receivers discarding (R98, R188). -/
def heldInReset (p : Part) : Part :=
  { p with resetAsserted := true, gov := p.gov.map linesOff, fieldTx := none, supTx := none,
           fieldRx := Receiver.hunting, supRx := Receiver.hunting }

/-- The reset input is asserted (R188). -/
def assertReset (p : Part) : Part := if p.powered then heldInReset p else { p with resetAsserted := true }

/-- The reset input is released: a cold start, if it was asserted and the part is powered (R188). -/
def releaseReset (strap1 strap2 : Bool) (p : Part) : Part :=
  let released := { p with resetAsserted := false }
  if p.powered && p.resetAsserted then coldStart strap1 strap2 released else released

/-- A part without power: only the store is left (R191). Its other fields stand as reset would give them, and nothing
reads them before the next cold start. -/
def Part.unpowered (s : Store) (resetAsserted : Bool) : Part :=
  { Part.acquiring s.cutOff Configuration.default .r115200 with
    powered := false, resetAsserted := resetAsserted, acquireAt := none }

/-- Power is lost (R191). -/
def losePower (p : Part) : Part := Part.unpowered p.store p.resetAsserted

/-- The event acts while the part is powered and not held in reset (R188); what the part does of its own accord follows
it (log entry 19). -/
def whileRunning (f : Part → Part) (p : Part) : Part := if p.powered && !p.resetAsserted then kick (f p) else p

/-- The acquire timer expires (R189). -/
def acquireExpired (p : Part) : Part :=
  match p.phase, p.acquireAt with
  | .acquire, some d => endAcquire (reach d p)
  | _, _ => p

end Sys2Proof.Machine
end

