-- ==== Sys2Proof/Machine/FieldLine.lean ====
section
/-! DEFINITION. The field line: station records and what they bring about (R3 to R9, R25, R36, R38, R44, R57), the
receiver (R23, R24), order frames sent and feedback (R33, R35, R37), and stale timers (R5, R6). -/

namespace Sys2Proof.Machine

/-! ### Freshness of an accepted record (R5 to R7) -/

/-- Freshness after an accepted record. -/
def Fresh.accept (staleTime now : Nat) (f : Fresh) : Fresh :=
  let running := some (now + staleTime)
  match f.state with
  | .unqualified =>
    if f.counted then { state := .qualified, counted := false, staleAt := running }
    else { state := .unqualified, counted := true, staleAt := running }
  | .qualified | .stale => { state := .qualified, counted := false, staleAt := running }

/-- A stale timer runs out (R5, R6). -/
def staleExpired (o : ObjectRef) (p : Part) : Part :=
  match (freshOf p o).staleAt with
  | none => p
  | some d =>
    let now := reach d p
    match (freshOf p o).state with
    | .qualified => goStale o now
    | _ => onFresh o (fun f => { f with counted := false, staleAt := none }) now

/-! ### SET STATUS (R4, R44, R57, R146) -/

/-- A set's breaker change at the Shed Unit: a set loss is taken, and the island's table is rebuilt (R140, R146). -/
def shedBreakerChange (k : SetNo) (lost : Bool) (p : Part) : Part :=
  match setIsland p k with
  | none => p
  | some i => rebuild i (if lost then setLoss k i p else p)

/-- The changes that a SET STATUS record hands on: the Set Sequencer, its state changes, the marking, the Shed Unit
(R4, R15, R44, R57). -/
def setChanged (k : SetNo) (old : SetImage) (wasLive : Bool) (p : Part) : Part :=
  let lost := isSetLoss p k old.closed
  let raised := if lost then occur .setLoss (.set k) p else p
  let sequenced := (recordEvent k raised).handOn
  let marked := match setIsland sequenced k with
    | some i => handMarking i wasLive sequenced
    | none => sequenced
  if old.closed == p.setImage[k].closed then marked else shedBreakerChange k lost marked

/-- An accepted SET STATUS record. A record that changes none of running, breaker closed and protection trip hands
nothing on (R4). -/
def setStatus (k : SetNo) (running closed : Bool) (kw : Nat) (trip : Bool) (p : Part) : Part :=
  let old := p.setImage[k]
  let wasLive := match setIsland p k with
    | some i => islandLive p i
    | none => false
  let written := onSetImage k (fun r =>
    { running := running, closed := closed, kw := kw, trip := trip,
      fresh := r.fresh.accept Config.staleFast p.clock }) p
  if old.running == running && old.closed == closed && old.trip == trip then written
  else setChanged k old wasLive written

/-! ### CONSUMER STATUS (R4, R36, R38) -/

/-- A consumer order is handed back to the Shed Unit with an outcome (R144, R161). -/
def orderOutcome (c : ConsumerNo) (a : ConsumerOrder) (out : OrderOutcome) (p : Part) : Part :=
  if isShedOrder (.consumer c a) then shedOutcome c out p
  else if isRestoreOrder (.consumer c a) then restoreOutcome c out p
  else p

/-- Stop a consumer's feedback timer. -/
def dropFeedback (c : ConsumerNo) (p : Part) : Part := { p with feedback := p.feedback.set c none }

/-- The order of a consumer that a record confirms, if one awaits feedback and the record shows its state (R36). -/
def confirmedOrder (p : Part) (c : ConsumerNo) : Option ConsumerOrder :=
  match p.feedback[c] with
  | some { order := { body := .consumer _ a, .. }, .. } => if confirms a p.consumerImage[c] then some a else none
  | _ => none

/-- A written CONSUMER STATUS record at the Shed Unit: a confirmation and the change with it are one event, and any other
change is external (R36, R38). -/
def consumerChanged (c : ConsumerNo) (old : ConsumerImage) (p : Part) : Part :=
  match confirmedOrder p c with
  | some a => orderOutcome c a .confirmed (dropFeedback c p)
  | none =>
    let now := p.consumerImage[c]
    if old.closed == now.closed && old.limit == now.limit then p else externalChange c old p

/-- An accepted CONSUMER STATUS record. DESIGN CHOICE (log entry 39): where one record changes both what the Shed Unit and
what the Reserve Unit is handed (R4), the Shed Unit acts first, and then the Reserve Unit judges the draw. -/
def consumerStatus (c : ConsumerNo) (closed : Bool) (kw : Nat) (limit : Option Nat) (p : Part) : Part :=
  let old := p.consumerImage[c]
  let written := onConsumerImage c (fun r =>
    { closed := closed, kw := kw, limit := limit, fresh := r.fresh.accept Config.staleSlow p.clock }) p
  let shed := consumerChanged c old written
  if old.kw == kw then shed else drawReported c shed

/-! ### METER STATUS, TIE STATUS and the delivery of a record (R3, R25) -/

/-- An accepted METER STATUS record (R4). -/
def meterStatus (s : SectionNo) (voltage : Bool) (freq : Option Nat) (p : Part) : Part :=
  onMeterImage s (fun r =>
    { voltage := voltage, freq := freq, fresh := r.fresh.accept Config.staleFast p.clock }) p

/-- An accepted TIE STATUS record (R17). -/
def tieStatus (t : TieNo) (closed : Bool) (p : Part) : Part :=
  let written := onTieImage t (fun r => { closed := closed, fresh := r.fresh.accept Config.staleSlow p.clock }) p
  if p.tieImage[t].closed == closed then written else tieChanged t closed written

/-- An accepted record, whole, with its hand-on (R25). -/
def deliverRecord (r : StationRecord) (p : Part) : Part :=
  match r with
  | .set k running closed kw trip => setStatus k running closed kw trip p
  | .consumer c closed kw limit => consumerStatus c closed kw limit p
  | .meter s voltage freq => meterStatus s voltage freq p
  | .tie t closed => tieStatus t closed p
  | .heavy c kw => heavyRequest c kw p

/-- A record meets the three tests of R3. -/
def takeRecord (station : Nat) (bytes : List Byte) (p : Part) : Part :=
  match decodeRecord p bytes with
  | none => occur .fieldFrameError .fieldLine p
  | some r =>
    if !objectConfigured p r.object then occur .unknownObject (objectNamed r.object) p
    else if objectStation p r.object != station then occur .stationMismatch (objectNamed r.object) p
    else deliverRecord r p

/-- A complete field frame: its sum and its record area are checked, and its records are taken one after another, each
with what follows it at once (R24, R25). -/
def fieldFrameArrived (frame : List Byte) (p : Part) : Part :=
  match areaRecords (fieldArea frame) with
  | some records =>
    if sumHolds frame then records.foldl (fun q r => kick (takeRecord (fieldStation frame) r q)) p
    else occur .fieldFrameError .fieldLine p
  | none => occur .fieldFrameError .fieldLine p

/-! ### The field receiver (R23, R24) -/

/-- The field receiver collects these bytes. -/
def fieldBuffer (buf : List Byte) (p : Part) : Part := { p with fieldRx := { buf := buf, lastAt := p.clock } }

/-- Bytes reach the field receiver one after another; those of a rejected frame that follow its start mark are hunted
through again (R24). `fuel` bounds the bytes taken: a rejected frame has at most three bytes to be hunted again. -/
def fieldBytes : Nat → List Byte → Part → Part
  | 0, _, p => p
  | _ + 1, [], p => p
  | fuel + 1, b :: rest, p =>
    match fieldTake p.fieldRx.buf b with
    | .collecting buf => fieldBytes fuel rest (fieldBuffer buf p)
    | .rejected again => fieldBytes fuel (again ++ rest) (occur .fieldFrameError .fieldLine (fieldBuffer [] p))
    | .complete frame => fieldBytes fuel rest (fieldFrameArrived frame (fieldBuffer [] p))

/-- One byte arrives at the field receiver (R23). -/
def fieldByte (b : Byte) (p : Part) : Part := fieldBytes 16 [b] p

/-- The whole of a frame whose header check fails at its last byte, from its start mark on, arrives at a hunting receiver
(R24). -/
def fieldHeaderRejected (bytes : List Byte) (p : Part) : Part := fieldBytes (4 * bytes.length + 16) bytes (fieldBuffer [] p)

/-- A whole frame arrives: it is checked by R24 from its start mark on, and the receiver hunts after it. -/
def fieldFrameTaken (frame : List Byte) (p : Part) : Part :=
  let hunting := fieldBuffer [] p
  if fieldHeaderGood frame then fieldFrameArrived frame hunting else occur .fieldFrameError .fieldLine hunting

/-- More than 2 ms pass after the last byte of a partial frame (R23). -/
def fieldGapPassed (p : Part) : Part :=
  if p.fieldRx.buf.isEmpty then p
  else
    let late := reach (p.fieldRx.lastAt + Config.fieldGap) p
    occur .fieldFrameError .fieldLine (fieldBuffer [] late)

/-! ### Orders on the line (R31, R33, R35, R37) -/

/-- A feedback timer starts; an order still awaiting feedback is handed back as superseded (R35). -/
def startFeedback (c : ConsumerNo) (o : Order) (ms : Nat) (p : Part) : Part :=
  let started := { p with feedback := p.feedback.set c (some { order := o, deadline := after p ms }) }
  match p.feedback[c] with
  | some { order := { body := .consumer _ a, .. }, .. } => orderOutcome c a .superseded started
  | _ => started

/-- A consumer order has been sent (R33). -/
def consumerOrderSent (c : ConsumerNo) (a : ConsumerOrder) (o : Order) (p : Part) : Part :=
  match feedbackTime a with
  | some ms => startFeedback c o ms p
  | none => if a == .grant then grantSent c o.serial p else p

/-- An order whose object became unconfigured is handed back as withdrawn once its frame has ended (R31). A set order
goes with its set record (R56). -/
def withdrawnOrderSent (o : Order) (p : Part) : Part :=
  match o.body with
  | .consumer c a => orderOutcome c a .withdrawn p
  | .set _ _ => p

/-- An order's frame has been sent (R33). -/
def orderSent (p : Part) : Part :=
  match p.fieldTx with
  | none => p
  | some tx =>
    let idle := { p with fieldTx := none }
    if tx.withdrawn then withdrawnOrderSent tx.order idle
    else
      match tx.order.body with
      | .consumer c a => consumerOrderSent c a tx.order idle
      | .set k a => (setOrderSent k a tx.order.serial idle).handOn

/-- A feedback timer runs out (R37). -/
def feedbackExpired (c : ConsumerNo) (p : Part) : Part :=
  match p.feedback[c] with
  | some { order := { body := .consumer _ a, .. }, deadline := d } =>
    orderOutcome c a .timedOut (dropFeedback c (reach d p))
  | _ => p

/-! ### Objects that leave or change their station (R8, R10, R31) -/

/-- An order in transmission for the object will be handed back as withdrawn (R31). -/
def markWithdrawn (o : ObjectRef) (p : Part) : Part :=
  match p.fieldTx with
  | some tx => if tx.order.isFor o then { p with fieldTx := some { tx with withdrawn := true } } else p
  | none => p

/-- An object is re-mapped: it goes to UNQUALIFIED, and a set's plan ends (R8, R95). -/
def remap (o : ObjectRef) (p : Part) : Part :=
  let moved := onFresh o (fun _ => Fresh.reset) p
  match o with
  | .set k => cutPlan k moved
  | _ => moved

end Sys2Proof.Machine
end

