-- ==== Sys2Proof/Machine/Editing.lean ====
section
/-! DEFINITION. The requests that change the working configuration: WRITE SET (R171), the shed list edits (R131 to R135),
WRITE PLANT (R173), WRITE STANDBY ORDER (R101), with the objects they configure, re-map and unconfigure (R8, R10,
R31). -/

namespace Sys2Proof.Machine

/-- What serving a request comes to: the part, the result code and the data of a read. -/
structure Served where
  part : Part
  code : ResultCode
  data : List Byte

/-- A request that is turned away or that carries no data. -/
def answered (code : ResultCode) (p : Part) : Served := { part := p, code := code, data := [] }

/-- DONE, or CLAMPED where a value was brought into its range (R169). -/
def doneOr (clamped : Bool) (p : Part) : Served := answered (if clamped then .clamped else .done) p

/-! ### Sets (R10, R41, R171) -/

/-- A set becomes unconfigured: its order goes, its records take their reset values, and its state becomes none (R10, R31,
R42, R86, R92, R136). -/
def unconfigureSet (k : SetNo) (p : Part) : Sequenced :=
  let dropped := markWithdrawn (.set k) (dropQueued (.set k) p)
  let reset := onSelection k (fun _ => SelectionRecord.reset) (onGov k (fun _ => GovRecord.reset)
    (onSeq k (fun _ => SeqRecord.reset) (onSetImage k (fun _ => SetImage.reset) dropped)))
  { part := reset
    changes := if p.seq[k].state.isSome then [{ set := k, old := p.seq[k].state, new := none, toReserve := true }] else [] }

/-- A set becomes configured: its object record starts afresh, and in RUN its state is STANDBY, or LOCAL in LOCAL mode
(R10, R42). -/
def configureSet (k : SetNo) (p : Part) : Sequenced :=
  let fresh := sequenced (onSetImage k (fun _ => SetImage.reset) p)
  if p.phase == .run then fresh.enter k (if (setCfg p k).mode == .localRun then .localRun else .standby) else fresh

/-- A station address written for a set, its former one being `old` (R8, R10). -/
def setStationWritten (k : SetNo) (old : Nat) (p : Part) : Sequenced :=
  let now := (setCfg p k).station
  if old == now then sequenced p
  else if !stationAssigned old then configureSet k p
  else if !stationAssigned now then unconfigureSet k p
  else sequenced (remap (.set k) p)

/-- Rebuild the table of a section's island, where there is one (R140). -/
def rebuildSection (s : SectionNo) (p : Part) : Part :=
  match islandOf p s with
  | some i => rebuild i p
  | none => p

/-- R10 refuses the write: in RUN it would unconfigure a configured set or change its section while its breaker is held
closed or its state is other than STANDBY, BLOCKED or LOCAL. -/
def setWriteRefused (p : Part) (k : SetNo) (new : SetConfig) : Bool :=
  p.phase == .run && setConfigured p k && (!stationAssigned new.station || new.sect != (setCfg p k).sect)
    && (p.setImage[k].closed
      || !(setStateIs p k .standby || setStateIs p k .blocked || setStateIs p k .localRun))

/-- WRITE SET (R41, R171): the fields, then what a new station or section brings, then the mode. DESIGN CHOICE (log entry 51):
the state that a new station brings is handed on before the mode is taken. DESIGN CHOICE (log entry 56): the table of the
old section's island is rebuilt before that of the new one. -/
def writeSet (n : Byte) (m : Masked) (p : Part) : Served :=
  match numbered 8 n.toNat with
  | none => answered .noSuch p
  | some k =>
    let old := setCfg p k
    let w := writtenSet m old
    if setWriteRefused p k w.value then answered .refused p
    else
      let written := onSetCfg k (fun _ => w.value) p
      let stationed := (setStationWritten k old.station written).handOn
      let moved := if old.sect == w.value.sect then stationed
        else rebuildSection w.value.sect (rebuildSection old.sect stationed)
      doneOr w.clamped (changeMode k (m.mode 9 old.mode) moved).handOn

/-! ### The shed list (R131 to R135) -/

/-- The sequence of an island collides with an edit (R135). -/
def sequenceRuns (p : Part) (i : Option IslandNo) : Bool :=
  match i with
  | some i => (island p i).shed.state != .idle
  | none => false

/-- An edit of a listed entry collides (R135). -/
def editCollides (p : Part) (c : ConsumerNo) : Bool :=
  sequenceRuns p (entryIsland p c) || entryIs p c .shedPending || entryIs p c .restorePending

/-- An edit refused with IN_SEQUENCE (R135). -/
def collided (c : ConsumerNo) (p : Part) : Served := answered .inSequence (occur .editCollision (.consumer c) p)

/-- A consumer's queued order, if any, is handed back as withdrawn, and so is one awaiting feedback (R31). A GRANT's grant
has been released before. -/
def withdrawOrders (c : ConsumerNo) (p : Part) : Part :=
  let queued := match queuedFor p (.consumer c) with
    | some { body := .consumer _ a, .. } => orderOutcome c a .withdrawn (dropQueued (.consumer c) p)
    | _ => p
  let awaited := match queued.feedback[c] with
    | some { order := { body := .consumer _ a, .. }, .. } => orderOutcome c a .withdrawn (dropFeedback c queued)
    | _ => queued
  markWithdrawn (.consumer c) awaited

/-- A consumer becomes unconfigured: entry, history record, object record, heavy request and orders (R10, R31, R119, R126,
R133). -/
def unconfigureConsumer (c : ConsumerNo) (p : Part) : Part :=
  let left := onConsumerImage c (fun _ => ConsumerImage.reset) (onEntry c (fun _ => EntryRecord.reset) (removeRecord c p))
  withdrawOrders c (forgetHeavy c left)

/-- A consumer becomes configured: its object record starts afresh, and in RUN its entry is derived (R10, R126). -/
def configureConsumer (c : ConsumerNo) (p : Part) : Part :=
  let fresh := onConsumerImage c (fun _ => ConsumerImage.reset) p
  if p.phase == .run then deriveEntry c fresh else fresh

/-- The list with an entry put at a position counted from 0 (R123). -/
def insertEntry (l : List EntryConfig) (n : Nat) (e : EntryConfig) : List EntryConfig := l.take n ++ e :: l.drop n

/-- A new shed list. -/
def withShedList (l : List EntryConfig) (p : Part) : Part := { p with cfg := { p.cfg with shedList := l } }

/-- PLACE CONSUMER with the move indicator clear (R131). -/
def addEntry (c : ConsumerNo) (position : Byte) (fields : List Word) (p : Part) : Served :=
  let w := writtenEntry { mask := 511, fields := fields } (EntryConfig.blank c)
  if (entryCfg p c).isSome then answered .duplicate p
  else if Config.shedListMax ≤ p.cfg.shedList.length then answered .listFull p
  else if sequenceRuns p (islandOf p w.value.sect) then collided c p
  else
    let place := clampTo 1 (p.cfg.shedList.length + 1) position.toNat
    let listed := withShedList (insertEntry p.cfg.shedList (place - 1) w.value) p
    let configured := if stationAssigned w.value.station then configureConsumer c listed else listed
    doneOr (w.clamped || place != position.toNat) (rebuildSection w.value.sect configured)

/-- PLACE CONSUMER with the move indicator set (R132). -/
def moveEntry (c : ConsumerNo) (position : Byte) (p : Part) : Served :=
  match entryCfg p c with
  | none => answered .noSuch p
  | some e =>
    if editCollides p c then collided c p
    else
      let place := clampTo 1 p.cfg.shedList.length position.toNat
      let rest := p.cfg.shedList.filter fun d => d.consumer != c
      doneOr (place != position.toNat) (rebuildSection e.sect (withShedList (insertEntry rest (place - 1) e) p))

/-- PLACE CONSUMER (R131, R132). -/
def placeConsumer (n position : Byte) (move : Bool) (fields : List Word) (p : Part) : Served :=
  match numbered 48 n.toNat with
  | none => answered .noSuch p
  | some c => if move then moveEntry c position p else addEntry c position fields p

/-- REMOVE CONSUMER (R133). -/
def removeConsumer (n : Byte) (p : Part) : Served :=
  match numbered 48 n.toNat with
  | none => answered .noSuch p
  | some c =>
    match entryCfg p c with
    | none => answered .noSuch p
    | some e =>
      if editCollides p c then collided c p
      else
        let gone := unconfigureConsumer c p
        answered .done (rebuildSection e.sect
          (withShedList (gone.cfg.shedList.filter fun d => d.consumer != c) gone))

/-- A WRITE CONSUMER changes what a running sequence reads: section, kind or protected, or the station to 0 (R134,
R135). -/
def collidingChange (old new : EntryConfig) : Bool :=
  old.sect != new.sect || old.kind != new.kind || old.guarded != new.guarded
    || (stationAssigned old.station && !stationAssigned new.station)

/-- A station address written for an entry, its former one being `old` (R8, R10, R134). -/
def entryStationWritten (c : ConsumerNo) (old new : Nat) (p : Part) : Part :=
  if old == new then p
  else if !stationAssigned old then configureConsumer c p
  else if !stationAssigned new then unconfigureConsumer c p
  else remap (.consumer c) p

/-- An entry's history record moves to another island's history, placed as a merge places it (R134, R157, R158). -/
def moveRecord (c : ConsumerNo) (src dst : IslandNo) (p : Part) : Part :=
  match (island p src).history.find? fun h => h.consumer == c with
  | some h =>
    onIsland dst (fun r => { r with history := mergeHistories r.history [h] }) (onIsland src (withoutRecord c) p)
  | none => p

/-- An entry's section has been written (R119, R134). DESIGN CHOICE (log entry 56): the history record moves first, then the
grant and the request with their tests, and then the tables are rebuilt, the old island's before the new one's, which
`entryWritten` rebuilds last. -/
def entrySectionWritten (c : ConsumerNo) (old new : SectionNo) (p : Part) : Part :=
  match islandOf p old, islandOf p new with
  | some src, some dst =>
    if src = dst then p else rebuild src (moveHeavy c src dst (moveRecord c src dst p))
  | _, _ => p

/-- What the written fields of an entry bring about (R134). -/
def entryWritten (old new : EntryConfig) (clearTrip : Bool) (p : Part) : Part :=
  let c := new.consumer
  let stationed := entryStationWritten c old.station new.station p
  let moved := entrySectionWritten c old.sect new.sect stationed
  let kinded := if old.kind == new.kind then moved else onConsumerImage c (fun r => { r with limit := none }) moved
  let cleared := if clearTrip then onEntry c (fun r => { r with tripFailed := false }) kinded else kinded
  rebuildSection new.sect cleared

/-- WRITE CONSUMER (R134, R172). -/
def writeConsumer (n : Byte) (m : Masked) (p : Part) : Served :=
  match (numbered 48 n.toNat).bind (entryCfg p) with
  | none => answered .noSuch p
  | some old =>
    let w := writtenEntry m old
    if collidingChange old w.value
        && (editCollides p old.consumer || sequenceRuns p (islandOf p w.value.sect)) then collided old.consumer p
    else if old.kind != w.value.kind && entryIs p old.consumer .shed then answered .refused p
    else
      doneOr w.clamped
        (entryWritten old w.value (m.flag 9 false) (onEntryCfg old.consumer (fun _ => w.value) p))

/-! ### WRITE PLANT (R10, R106, R140, R152, R173) -/

/-- A tie after a write, its former configuration being given (R8, R10, R17). -/
def tieWritten (old : PlantConfig) (p : Part) (t : TieNo) : Part :=
  let was := old.tiePresent[t] && stationAssigned old.tieStation[t]
  match was, tieConfigured p t with
  | false, true => onTieImage t (fun _ => TieImage.reset) p
  | true, false =>
    let reset := onTieImage t (fun _ => TieImage.reset) p
    if p.tieImage[t].closed then tieChanged t false reset else reset
  | true, true => if old.tieStation[t] == p.cfg.plant.tieStation[t] then p else remap (.tie t) p
  | false, false => p

/-- A section meter after a write, its former configuration being given (R8, R10). -/
def meterWritten (old : PlantConfig) (p : Part) (s : SectionNo) : Part :=
  let was := stationAssigned old.meterStation[s]
  match was, meterConfigured p s with
  | true, true => if old.meterStation[s] == p.cfg.plant.meterStation[s] then p else remap (.meter s) p
  | false, false => p
  | _, _ => onMeterImage s (fun _ => MeterImage.reset) p

/-- Restore mode CONTINUOUS moves every HELD pacer to INTERVAL (R152). -/
def releaseHeld (p : Part) : Part :=
  allSections.foldl (fun q i =>
    onRestore i (fun r => if r.state == .held then heldToInterval q r else r) q) p

/-- WRITE PLANT (R173). DESIGN CHOICE (log entry 50): its consequences come in this order: the ties (log entry 14), the meters,
the rebuild of every table by a changed ceiling, in the order of the islands' names (R140), the release of HELD pacers
(R152), and the tests of the Reserve Unit (R106, log entry 47). -/
def writePlant (m : Masked) (p : Part) : Served :=
  let old := p.cfg.plant
  let w := writtenPlant m old
  let written := { p with cfg := { p.cfg with plant := w.value } }
  let tied := allTies.foldl (tieWritten old) written
  let metered := allSections.foldl (meterWritten old) tied
  let tabled := if old.ceiling == w.value.ceiling then metered
    else (islandNames metered).foldl (fun q i => rebuild i q) metered
  let held := if old.restoreMode == .step && w.value.restoreMode == .continuous then releaseHeld tabled else tabled
  doneOr w.clamped (testAll held)

/-! ### WRITE STANDBY ORDER (R101) -/

/-- A list holds a number twice. -/
def hasRepeat : List SetNo → Bool
  | [] => false
  | k :: ks => ks.contains k || hasRepeat ks

/-- WRITE STANDBY ORDER (R101). -/
def writeStandbyOrder (sets : List Byte) (p : Part) : Served :=
  match sets.mapM fun n => numbered 8 n.toNat with
  | none => answered .noSuch p
  | some order =>
    if hasRepeat order then answered .duplicate p
    else if 8 < order.length then answered .listFull p
    else answered .done (testAll { p with cfg := { p.cfg with standby := order } })

end Sys2Proof.Machine
end

