-- ==== Sys2Proof/Machine/Reads.lean ====
section
/-! DEFINITION. The seven reads and their data (R174 to R176), with the coding of 9.6. -/

namespace Sys2Proof.Machine

/-! ### Coding of read data (9.6, R170) -/

/-- A numeric datum: four bytes, signed. -/
def numData (n : Int) : List Byte := wordBytes (BitVec.ofInt 32 n)

/-- A numeric datum that may be none: none is −1. -/
def numOr (n : Option Nat) : List Byte := numData (n.elim (-1) fun v => (v : Int))

/-- A signed numeric datum that may be none. -/
def intOr (n : Option Int) : List Byte := numData (n.getD (-1))

/-- An enumerated datum: its code in one byte. -/
def codeData (n : Nat) : List Byte := [byteOf n]

/-- An enumerated datum that may be none: none is 255. -/
def codeOr (n : Option Nat) : List Byte := codeData (n.getD 255)

/-- A yes/no datum. -/
def flagData (b : Bool) : List Byte := codeData (if b then 1 else 0)

/-- A yes/no datum that may be none. -/
def flagOr (b : Option Bool) : List Byte := codeOr (b.map fun v => if v then 1 else 0)

/-- A plant time, its low 32 bits. -/
def timeData (t : Nat) : List Byte := be32 t

/-- A plant time that may be none, or a timer: none is four bytes of 255. -/
def timeOr (t : Option Nat) : List Byte := t.elim [255#8, 255#8, 255#8, 255#8] timeData

/-- An object number, a section code or an island name, from 0 in the model and from 1 on the line. -/
def numberData {m : Nat} (n : Fin m) : List Byte := codeData (n.val + 1)

/-- An object number that may be none. -/
def numberOr {m : Nat} (n : Option (Fin m)) : List Byte := codeOr (n.map fun v => v.val + 1)

/-- A list: its count in one byte, then its items. -/
def listData {α : Type} (item : α → List Byte) (l : List α) : List Byte := byteOf l.length :: l.flatMap item

/-- An event mask in four bytes. -/
def maskData (m : BitVec 26) : List Byte := be32 m.toNat

/-- Code of an entry kind (R124). -/
def EntryKind.code : EntryKind → Nat
  | .breaker => 0 | .limitable => 1

/-- Code of a restore mode (R152). -/
def RestoreMode.code : RestoreMode → Nat
  | .continuous => 0 | .step => 1

/-- Code of a freshness state (1.3). -/
def Freshness.code : Freshness → Nat
  | .unqualified => 0 | .qualified => 1 | .stale => 2

/-- Code of a set state (R42). -/
def SetState.code : SetState → Nat
  | .standby => 0 | .starting => 1 | .synchronising => 2 | .rampIn => 3 | .onBus => 4 | .rampOut => 5 | .opening => 6
  | .stopping => 7 | .tripped => 8 | .blocked => 9 | .localRun => 10

/-- Code of what a set timer runs as (R42). -/
def SetTimer.code : SetTimer → Nat
  | .start => 0 | .sync => 1 | .openBreaker => 2 | .stop => 3

/-- Code of a ramp-out origin (R42). -/
def RampOrigin.code : RampOrigin → Nat
  | .automatic => 0 | .supervisor => 1

/-- Code of an order kind, in the order of R27's table. -/
def OrderBody.code : OrderBody → Nat
  | .consumer _ .trip => 0 | .consumer _ (.limit _) => 1 | .consumer _ .release => 1 | .consumer _ .close => 2
  | .consumer _ .grant => 3 | .consumer _ .deny => 4
  | .set _ .start => 5 | .set _ .stop => 6 | .set _ (.sync _) => 7 | .set _ .openBreaker => 8

/-- Code of an order outcome, in the order of the summary of order outcomes (chapter 2). -/
def OrderOutcome.code : OrderOutcome → Nat
  | .notQueued => 0 | .replaced => 1 | .withdrawn => 2 | .sent => 3 | .confirmed => 4 | .superseded => 5 | .timedOut => 6

/-- Code of a plan class (R87). -/
def PlanClass.code : PlanClass → Nat
  | .shareAndTrim => 0 | .shareOnly => 1 | .noPulse => 2

/-- Code of a plan's line (R87). -/
def PulseLine.code : PulseLine → Nat
  | .raise => 0 | .lower => 1 | .neither => 2

/-- Code of an entry state (R125). -/
def EntryState.code : EntryState → Nat
  | .connected => 0 | .shedPending => 1 | .shed => 2 | .restorePending => 3 | .openExternal => 4

/-- Code of a cause (R156). -/
def ShedCause.code : ShedCause → Nat
  | .contingency => 0 | .fastOverload => 1 | .paced => 2 | .deadBus => 3 | .manual => 4 | .released => 5

/-- Code of a shed context's state (R142). -/
def ShedState.code : ShedState → Nat
  | .idle => 0 | .burst => 1 | .postCheck => 2 | .confirming => 3 | .stepWait => 4 | .settling => 5

/-- Code of a restore state (R159). -/
def RestoreState.code : RestoreState → Nat
  | .idle => 0 | .delay => 1 | .stepWait => 2 | .interval => 3 | .held => 4

/-- Code of a reserve state (R100). -/
def ReserveState.code : ReserveState → Nat
  | .quiet => 0 | .startConfirm => 1 | .startInFlight => 2 | .stopConfirm => 3 | .stopping => 4

/-- Code of the plant phase. -/
def Phase.code : Phase → Nat
  | .acquire => 0 | .run => 1

/-- Line rate in bit/s (R163). -/
def LineRate.bits : LineRate → Nat
  | .r115200 => 115200
  | .r460800 => 460800

/-! ### The part as a whole (R174) -/

/-- Data of IDENTIFY (R174). -/
def identifyData (p : Part) : List Byte :=
  numData Config.partNumber ++ numData Config.revision ++ numData p.rate.bits ++ codeData p.phase.code
    ++ timeData p.clock ++ flagData p.store.valid

/-- The thirty-four plant fields (R173, R174). -/
def plantData (c : PlantConfig) : List Byte :=
  ([c.reserve, c.overload, c.fastOverload, c.ceiling, c.overloadConfirm, c.settle, c.startConfirm, c.stopDelay,
      c.stopHysteresis, c.restoreDelay, c.restoreStep, c.restoreMargin].flatMap fun (n : Nat) => numData n)
    ++ codeData c.restoreMode.code
    ++ ([c.nominal, c.freqDeadband, c.trimGain, c.trimMax, c.heavyHold, c.heavyExpiry].flatMap
        fun (n : Nat) => numData n)
    ++ ([c.autoStart, c.autoStop, c.autoRestore] ++ c.tiePresent.toList).flatMap flagData
    ++ (c.tieStation.toList ++ c.meterStation.toList).flatMap fun (n : Nat) => numData n

/-- Data of READ PLANT (R174). -/
def readPlantData (p : Part) : List Byte :=
  codeData p.phase.code ++ timeData p.clock ++ flagData p.store.saving.isSome ++ flagData p.store.valid
    ++ plantData p.cfg.plant ++ listData (fun e => numberData e.consumer) p.cfg.shedList
    ++ listData numberData p.cfg.standby ++ numData p.urgent.length ++ numData p.normal.length

/-- Data of READ FLAGS (R174). -/
def readFlagsData (p : Part) : List Byte :=
  maskData p.rawFlags ++ maskData p.cfg.enable ++ numData p.reports.length ++ numData p.allowance

/-! ### Sets and consumers (R175) -/

/-- The order that is queued, in transmission or awaiting feedback for an object, with its condition (R175). Of several,
the one raised last is shown. -/
def shownOrder (p : Part) (o : ObjectRef) : Option (OrderBody × Nat) :=
  let sending := match p.fieldTx with
    | some tx => if tx.order.isFor o then some (tx.order.body, 1) else none
    | none => none
  let awaiting := match o with
    | .consumer c => (p.feedback[c]).map fun f => (f.order.body, 2)
    | _ => none
  match queuedFor p o with
  | some q => some (q.body, 0)
  | none => match sending with
    | some s => some s
    | none => awaiting

/-- An object's order in a read: kind and condition (R175). -/
def orderData (p : Part) (o : ObjectRef) : List Byte :=
  let shown := shownOrder p o
  codeOr (shown.map fun s => s.1.code) ++ codeOr (shown.map Prod.snd)

/-- A set's last order outcome (R42, R56). -/
def outcomeData (k : SetNo) (r : SeqRecord) : List Byte :=
  codeOr (r.lastOutcome.map fun l => (OrderBody.set k l.1).code) ++ codeOr (r.lastOutcome.map fun l => l.2.code)

/-- A set's configuration (R41). -/
def setConfigData (c : SetConfig) : List Byte :=
  numberData c.sect
    ++ ([c.rated, c.pmin, c.weight, c.fixedOut, c.rampRate, c.deadband, c.gain, c.startTime].flatMap
        fun (n : Nat) => numData n)
    ++ codeData c.mode.code ++ numData c.station

/-- The Set Sequencer's fields of a set (R42). -/
def seqData (k : SetNo) (r : SeqRecord) : List Byte :=
  codeOr (r.state.map SetState.code) ++ codeOr (r.timer.map fun t => t.1.code) ++ timeOr (r.timer.map Prod.snd)
    ++ flagData r.slow ++ codeOr (r.origin.map RampOrigin.code) ++ flagOr r.deadBusSent ++ outcomeData k r

/-- A pulse plan (R87). -/
def planData (g : PulsePlan) : List Byte :=
  timeOr g.origin ++ codeData g.cls.code ++ numData g.shareTerm ++ numData g.trimTerm ++ numData g.net
    ++ codeData g.line.code ++ (g.lengths.toList.flatMap fun (n : Nat) => numData n) ++ numData g.delivered
    ++ flagData g.cutShort ++ flagData g.saturated

/-- Data of READ SET (R175). -/
def readSetData (p : Part) (k : SetNo) : List Byte :=
  let r := p.setImage[k]
  setConfigData (setCfg p k)
    ++ flagData r.running ++ flagData r.closed ++ numData r.kw ++ flagData r.trip ++ codeData r.fresh.state.code
    ++ seqData k p.seq[k]
    ++ numOr p.share[k].ramp ++ numOr p.share[k].target ++ timeOr p.share[k].pminTime
    ++ flagData p.gov[k].saturation ++ planData p.gov[k].plan
    ++ orderData p (.set k) ++ outcomeData k p.seq[k]

/-- An entry's configuration (R124). -/
def entryConfigData (e : EntryConfig) : List Byte :=
  numberData e.consumer ++ numberData e.sect ++ codeData e.kind.code ++ flagData e.guarded ++ flagData e.autoRestore
    ++ flagData e.askFirst ++ numData e.floor ++ numData e.estimate ++ flagData e.inhibit ++ numData e.station

/-- A consumer's heavy-load condition: 0 queued, 1 holding a grant, 2 neither, with the kW and the hold deadline
(R175). -/
def heavyData (p : Part) (c : ConsumerNo) : List Byte :=
  match queueIsland p c, grantOf p c with
  | some i, _ =>
    codeData 0
      ++ numOr (((island p i).reserve.queue.find? fun q => q.consumer == c).map HeavyRequest.kw) ++ timeOr none
  | none, some g => codeData 1 ++ numData g.kw ++ timeOr g.hold
  | none, none => codeData 2 ++ numOr none ++ timeOr none

/-- Position of a consumer on the shed list, from 1 (R123). -/
def positionOf (p : Part) (c : ConsumerNo) : Nat := p.cfg.shedList.findIdx (fun e => e.consumer == c) + 1

/-- Data of READ CONSUMER (R175). -/
def readConsumerData (p : Part) (e : EntryConfig) : List Byte :=
  let c := e.consumer
  let r := p.consumerImage[c]
  let x := p.entry[c]
  numData (positionOf p c) ++ entryConfigData e
    ++ flagData r.closed ++ numData r.kw ++ numOr r.limit ++ codeData r.fresh.state.code
    ++ codeOr (x.state.map EntryState.code) ++ flagData x.tripFailed ++ flagData x.restoreFailed ++ numData x.relief
    ++ orderData p (.consumer c) ++ heavyData p c

/-! ### Islands (R176) -/

/-- The items of a page: up to `size` items from the given index. -/
def page {α : Type} (size first : Nat) (l : List α) : List α := (l.drop first).take size

/-- The figures (R68). -/
def figuresData (f : Figures) : List Byte :=
  [f.load, f.projected, f.capacity, f.heavy, f.spare].flatMap numData

/-- The latest period's P_fixed, S and residual, none while the island is DEAD, and its time (R76, R78, R85). DESIGN CHOICE
(log entry 44): an island that is LIVE again shows those of its earlier periods until its next one. -/
def periodData (live : Bool) (r : Island) : List Byte :=
  let shown (n : Option Int) : List Byte := intOr (if live then n else none)
  shown r.pFixed ++ shown r.remainder ++ shown r.residual ++ timeOr r.periodAt

/-- A held grant (R100). -/
def grantData (g : HeavyGrant) : List Byte := numberData g.consumer ++ numData g.kw ++ timeOr g.hold

/-- A heavy-load request (R100). -/
def requestData (q : HeavyRequest) : List Byte :=
  numberData q.consumer ++ numData q.kw ++ timeData q.arrival ++ timeOr q.deadline

/-- Grants in consumer-number order (R176). -/
def grantsInOrder (gs : List HeavyGrant) : List HeavyGrant :=
  allConsumers.flatMap fun c => gs.filter fun g => g.consumer == c

/-- The reserve record (R100, R176). -/
def reserveData (heavy : Int) (first : Nat) (r : ReserveRecord) : List Byte :=
  codeData r.state.code ++ timeOr r.timer ++ numberOr r.stoppingSet ++ flagData r.low ++ listData requestData r.queue
    ++ numData r.grants.length ++ listData grantData (page 4 first (grantsInOrder r.grants)) ++ numData heavy

/-- A saved paced phase, every field none where there is none (R142). -/
def savedData (s : Option PacedPhase) : List Byte :=
  codeOr (s.map fun v => v.state.code) ++ numOr (s.map PacedPhase.remaining)
    ++ numberOr (s.bind PacedPhase.stepConsumer) ++ flagOr (s.map PacedPhase.arrived)
    ++ numOr (s.map PacedPhase.steps) ++ flagOr (s.map PacedPhase.exhausted)

/-- The shed context (R142): the burst set by the number of consumers in it. -/
def shedData (r : ShedContext) : List Byte :=
  codeData r.state.code ++ numData r.burst.length ++ timeOr r.checkTimer ++ timeOr r.pacerTimer
    ++ numberOr r.stepConsumer ++ numData r.steps ++ flagData r.exhausted ++ savedData r.saved

/-- The restore context (R159). -/
def restoreData (r : RestoreContext) : List Byte :=
  codeData r.state.code ++ timeOr r.timer ++ flagData r.due ++ numberOr r.stepConsumer ++ flagData r.retriggered

/-- Data of READ ISLAND (R176). -/
def readIslandData (p : Part) (i : IslandNo) (f : Figures) (first : Nat) : List Byte :=
  let r := island p i
  let live := islandLive p i
  numberData i ++ listData numberData (allSections.filter (inIsland p i)) ++ codeData (if live then 0 else 1)
    ++ numOr (islandFrequency p i) ++ figuresData f ++ periodData live r
    ++ reserveData f.heavy first r.reserve ++ shedData r.shed ++ restoreData r.restore

/-- One selection of a table, without its actions (R176). -/
def selectionData (s : Selection) : List Byte :=
  numData s.deficit ++ numData s.covered ++ flagData s.insufficient ++ numData s.actions.length

/-- One action of a selection (R176). -/
def actionData (a : ShedAction) : List Byte :=
  numberData a.consumer ++ codeData (OrderBody.consumer a.consumer a.means.order).code
    ++ numOr (match a.means with | .trip => none | .limit kw => some kw)

/-- One history record with its entry's state and restore-failed flag (R156, R176). -/
def historyData (p : Part) (h : HistoryRecord) : List Byte :=
  let x := p.entry[h.consumer]
  numberData h.consumer ++ timeData h.time ++ codeData h.cause.code ++ numData h.offered
    ++ codeOr (x.state.map EntryState.code) ++ flagData x.restoreFailed

/-! ### Serving the reads -/

/-- A read answered DONE with its data. -/
def readDone (data : List Byte) (p : Part) : Served := { part := p, code := .done, data := data }

/-- READ SET (R175). -/
def serveReadSet (n : Byte) (p : Part) : Served :=
  match numbered 8 n.toNat with
  | some k => readDone (readSetData p k) p
  | none => answered .noSuch p

/-- READ CONSUMER (R175). -/
def serveReadConsumer (n : Byte) (p : Part) : Served :=
  match (numbered 48 n.toNat).bind (entryCfg p) with
  | some e => readDone (readConsumerData p e) p
  | none => answered .noSuch p

/-- The island that a section code names: the one whose members include the section (R176). -/
def namedIsland (p : Part) (code : Byte) : Option IslandNo := (numbered 4 code.toNat).bind (islandOf p)

/-- READ ISLAND: the figures are taken at the read (R68, R176). -/
def serveReadIsland (code first : Byte) (p : Part) : Served :=
  match namedIsland p code with
  | some i => readDone (readIslandData p i (figuresOf p i) first.toNat) (takeFigures i p)
  | none => answered .noSuch p

/-- READ CONTINGENCY of one set's selection (R176). -/
def readSelection (i : IslandNo) (k : SetNo) (first : Nat) (p : Part) : Served :=
  match (island p i).table.find? fun s => s.set == k with
  | some s => readDone (numberData i ++ selectionData s ++ listData actionData (page 32 first s.actions)) p
  | none => answered .noSuch p

/-- READ CONTINGENCY (R176). -/
def serveReadContingency (code n first : Byte) (p : Part) : Served :=
  match namedIsland p code with
  | none => answered .noSuch p
  | some i =>
    if n = 0#8 then
      readDone (numberData i ++ timeOr (island p i).rebuiltAt
        ++ listData (fun s => numberData s.set ++ selectionData s) (island p i).table) p
    else
      match numbered 8 n.toNat with
      | some k => readSelection i k first.toNat p
      | none => answered .noSuch p

/-- READ HISTORY (R176). -/
def serveReadHistory (code first : Byte) (p : Part) : Served :=
  match namedIsland p code with
  | some i =>
    let h := (island p i).history
    readDone (numberData i ++ numData h.length ++ listData (historyData p) (page 20 first.toNat h)) p
  | none => answered .noSuch p

end Sys2Proof.Machine
end

