-- ==== Sys2Proof/Machine/Requests.lean ====
section
/-! DEFINITION. The commands on sets, consumers, islands, flags and reports, and the serving of every request (R166 to
R178). -/

namespace Sys2Proof.Machine

/-- The configured set a number names (3.7). -/
def namedSet (p : Part) (n : Byte) : Option SetNo :=
  match numbered 8 n.toNat with
  | some k => if setConfigured p k then some k else none
  | none => none

/-- SET MODE (R62). -/
def serveSetMode (n : Byte) (m : Mode) (p : Part) : Served :=
  match namedSet p n with
  | some k => answered .done (changeMode k m p).handOn
  | none => answered .noSuch p

/-- A COMMAND SET action at a set (R63 to R65). -/
def setAction (a : SetAction) (k : SetNo) (p : Part) : Sequenced × ResultCode :=
  match a with
  | .start => commandStart k p
  | .stop => commandStop k p
  | .block => commandBlock k p
  | .reset => commandReset k p

/-- COMMAND SET (R63 to R65, 3.7). -/
def serveCommandSet (n : Byte) (a : SetAction) (p : Part) : Served :=
  match namedSet p n with
  | none => answered .noSuch p
  | some k =>
    if p.phase == .acquire then answered .refused p
    else
      let o := setAction a k p
      answered o.2 o.1.handOn

/-- SHED CONSUMER (R154). -/
def serveShed (n : Byte) (p : Part) : Served :=
  match (numbered 48 n.toNat).bind (entryCfg p) with
  | none => answered .noSuch p
  | some e =>
    if !stationAssigned e.station then answered .noSuch p
    else if p.phase == .acquire then answered .refused p
    else
      let o := manualShed e p
      answered o.2 o.1

/-- RELEASE CONSUMER (R155). -/
def serveRelease (n : Byte) (p : Part) : Served :=
  match (numbered 48 n.toNat).bind (entryCfg p) with
  | none => answered .noSuch p
  | some e =>
    let o := manualRelease e.consumer p
    answered o.2 o.1

/-- RESTORE STEP (R161, R177). -/
def serveRestoreStep (code : Byte) (p : Part) : Served :=
  match namedIsland p code with
  | none => answered .noSuch p
  | some i =>
    let o := commandRestoreStep i p
    answered o.2 o.1

/-- GRANT REPORTS (R184). -/
def serveGrantReports (n : Byte) (p : Part) : Served :=
  let sum := p.allowance + n.toNat
  doneOr (Config.countMax < sum) { p with allowance := min Config.countMax sum }

/-- A SAVE is served: the store becomes invalid and begins writing (R191). Its reply is formed later. -/
def beginSave (serial : Nat) (p : Part) : Part :=
  { p with store := { p.store with valid := false, saving := some { serial := serial, started := p.clock } } }

/-- The request's own tests and effect, for a request that answers at its service (R166). SAVE does not, and is given the
reply that it never sends. -/
def serveOwn (r : Request) (serial : Nat) (p : Part) : Served :=
  match r with
  | .identify => readDone (identifyData p) p
  | .readSet n => serveReadSet n p
  | .readConsumer n => serveReadConsumer n p
  | .readIsland s first => serveReadIsland s first p
  | .readContingency s n first => serveReadContingency s n first p
  | .readHistory s first => serveReadHistory s first p
  | .readFlags => readDone (readFlagsData p) p
  | .readPlant => readDone (readPlantData p) p
  | .writeSet n mask fields => writeSet n { mask := mask.toNat, fields := fields } p
  | .writeConsumer n mask fields => writeConsumer n { mask := mask.toNat, fields := fields } p
  | .writePlant mask fields => writePlant { mask := mask.toNat, fields := fields } p
  | .placeConsumer n position move fields => placeConsumer n position move fields p
  | .removeConsumer n => removeConsumer n p
  | .writeStandbyOrder sets => writeStandbyOrder sets p
  | .setMode n m => serveSetMode n m p
  | .commandSet n a => serveCommandSet n a p
  | .shedConsumer n => serveShed n p
  | .releaseConsumer n => serveRelease n p
  | .restoreStep s => serveRestoreStep s p
  | .clearFlags mask => answered .done (clearRaw mask p)
  | .enableFlags mask => answered .done (setEnable mask p)
  | .grantReports n => serveGrantReports n p
  | .save => answered .done (beginSave serial p)
  | .restart => answered .done { p with restarting := some serial }

/-- A request is served: the tests of R167 in their order, then its own. The last value says that it is a SAVE whose
store operation has begun. -/
def serve (kind : Byte) (payload : List Byte) (serial : Nat) (p : Part) : Served × Bool :=
  match parseRequest kind payload with
  | none => (answered .badRequest p, false)
  | some r =>
    if storeGuarded r && p.store.saving.isSome then (answered .storeBusy p, false)
    else (serveOwn r serial p, r == .save)

end Sys2Proof.Machine
end

