-- ==== Sys2Proof/Machine/Supervisor.lean ====
section
/-! DEFINITION. The Supervisor Line Interface: the receiver (R164), the request queue, the busy list and the reply order
(R165, R166), the frames sent (R168, R178), and the end of a SAVE (R191). -/

namespace Sys2Proof.Machine

/-! ### Acceptance and service (R165, R166) -/

/-- A reply joins the tail of the reply order. -/
def formReply (serial : Nat) (kind tag : Byte) (code : ResultCode) (data : List Byte) (p : Part) : Part :=
  { p with replies := p.replies ++ [{ serial := serial, kind := kind, tag := tag, code := code, data := data }] }

/-- A request joins the tail of the request queue with a condition (R165). -/
def joinRequests (serial : Nat) (kind tag : Byte) (payload : List Byte) (c : Option RequestCondition) (p : Part) : Part :=
  { p with requests := p.requests ++
      [{ serial := serial, kind := kind, tag := tag, payload := payload, condition := c }] }

/-- A request that has joined the queue is served at once (R166). -/
def serveAccepted (serial : Nat) (kind tag : Byte) (payload : List Byte) (p : Part) : Part :=
  let o := serve kind payload serial p
  if o.2 then joinRequests serial kind tag payload (some .inService) o.1.part
  else formReply serial kind tag o.1.code o.1.data (joinRequests serial kind tag payload (some .answered) o.1.part)

/-- A request turned away with BUSY (R165). -/
def turnAway (serial : Nat) (kind tag : Byte) (p : Part) : Part :=
  let listed := { p with busyList := p.busyList ++ [{ serial := serial, kind := kind, tag := tag, sending := false }] }
  if p.restarting.isSome then listed else formReply serial kind tag .busy [] listed

/-- An accepted supervisor frame (R165). A request accepted after a RESTART has been served is kept and not served
(R166, R178). -/
def acceptRequest (kind tag : Byte) (payload : List Byte) (p : Part) : Part :=
  let serial := p.nextRequest
  let next := { p with nextRequest := p.nextRequest + 1 }
  if p.requests.length < Config.requestMax then
    if p.restarting.isSome then joinRequests serial kind tag payload none next
    else serveAccepted serial kind tag payload next
  else if p.busyList.length < Config.requestMax then turnAway serial kind tag next
  else p

/-- A complete supervisor frame: dropped where its sum fails, else offered to the request queue (R164). -/
def supervisorFrameArrived (frame : List Byte) (p : Part) : Part :=
  if sumHolds frame then acceptRequest (supervisorKind frame) (supervisorTag frame) (supervisorPayload frame) p else p

/-! ### The supervisor receiver (R164) -/

/-- The supervisor receiver collects these bytes. -/
def supervisorBuffer (buf : List Byte) (p : Part) : Part := { p with supRx := { buf := buf, lastAt := p.clock } }

/-- Bytes reach the supervisor receiver one after another; those of a rejected frame that follow its start mark are
hunted through again (R164). `fuel` bounds the bytes taken. -/
def supervisorBytes : Nat → List Byte → Part → Part
  | 0, _, p => p
  | _ + 1, [], p => p
  | fuel + 1, b :: rest, p =>
    match supervisorTake p.supRx.buf b with
    | .collecting buf => supervisorBytes fuel rest (supervisorBuffer buf p)
    | .rejected again => supervisorBytes fuel (again ++ rest) (supervisorBuffer [] p)
    | .complete frame => supervisorBytes fuel rest (kick (supervisorFrameArrived frame (supervisorBuffer [] p)))

/-- One byte arrives at the supervisor receiver (R164). -/
def supervisorByte (b : Byte) (p : Part) : Part := supervisorBytes 16 [b] p

/-- The whole of a frame whose header check fails at its last byte, from its start mark on, arrives at a hunting receiver
(R164). -/
def supervisorHeaderRejected (bytes : List Byte) (p : Part) : Part :=
  supervisorBytes (4 * bytes.length + 16) bytes (supervisorBuffer [] p)

/-- A whole frame arrives: it is checked by R164 from its start mark on, and the receiver hunts after it. -/
def supervisorFrameTaken (frame : List Byte) (p : Part) : Part :=
  let hunting := supervisorBuffer [] p
  if supervisorHeaderGood frame then supervisorFrameArrived frame hunting else hunting

/-- More than 20 ms pass after the last byte of a partial frame (R164). -/
def supervisorGapPassed (p : Part) : Part :=
  if p.supRx.buf.isEmpty then p
  else supervisorBuffer [] (reach (p.supRx.lastAt + Config.supervisorGap) p)

/-! ### Frames sent (R168, R178) -/

/-- A reply has been completely sent: its request or its busy-list entry ends (R165). -/
def replySent (serial : Nat) (p : Part) : Part :=
  { p with
    requests := p.requests.filter fun q => q.serial != serial
    busyList := p.busyList.filter fun b => b.serial != serial }

/-- The last byte of a frame has left the supervisor line (R168). The reply of a RESTART brings the restart (R178). -/
def supervisorSent (p : Part) : Part :=
  match p.supTx with
  | none => p
  | some tx =>
    let idle := { p with supTx := none }
    match tx.what with
    | .report => idle
    | .reply serial => if p.restarting == some serial then restartTaken idle else replySent serial idle

/-! ### The end of a SAVE (R191) -/

/-- The SAVE's reply is formed, and its request becomes ANSWERED (R165, R166). -/
def saveReply (serial : Nat) (code : ResultCode) (p : Part) : Part :=
  match p.requests.find? fun q => q.serial == serial with
  | some q =>
    formReply serial q.kind q.tag code []
      { p with requests := p.requests.map fun r =>
          if r.serial == serial then { r with condition := some .answered } else r }
  | none => p

/-- The store operation succeeds (R191). -/
def saveSucceeds (s : SaveInProgress) (p : Part) : Part :=
  saveReply s.serial .done { p with store := { valid := true, contents := p.cfg, saving := none } }

/-- The store operation fails (R191). -/
def saveFails (s : SaveInProgress) (p : Part) : Part :=
  saveReply s.serial .storeFailed { p with store := { p.store with valid := false, saving := none } }

/-- The read-back has been compared: a match within 800 ms of the service is a success (R191). -/
def saveCompared (readBackMatches : Bool) (p : Part) : Part :=
  match p.store.saving with
  | none => p
  | some s => if readBackMatches && p.clock ≤ s.started + Config.saveTime then saveSucceeds s p else saveFails s p

/-- 800 ms have passed without a completed comparison (R191). -/
def saveTimedOut (p : Part) : Part :=
  match p.store.saving with
  | none => p
  | some s => saveFails s (reach (s.started + Config.saveTime) p)

end Sys2Proof.Machine
end

