-- ==== Sys2Proof/Machine/Timing.lean ====
section
/-! DEFINITION. The timers of sets and islands as they run out, the share period and the sub-pulses as they fall due: each
acts only while its timer runs, and brings the plant clock to the timer's time (log entry 4). -/

namespace Sys2Proof.Machine

/-! ### Set timers -/

/-- A set timer runs out: what follows it, and the changes of state handed on (R44). -/
def setTimerExpired (t : SetTimer) (f : SetNo → Part → Sequenced) (k : SetNo) (p : Part) : Part :=
  match setTimerRuns p k t with
  | some d => (f k (reach d p)).handOn
  | none => p

/-- The open timer's expiry (R54). -/
def openExpired (k : SetNo) (p : Part) : Sequenced := (sequenced p).openFailed k

/-! ### Share periods and sub-pulses -/

/-- Every ramp completion of a period is reported to the Set Sequencer, each as an event of its own (R51, R53, R78). DESIGN
CHOICE (log entry 43): by set number. -/
def reportCompletions (done : List SetNo) (p : Part) : Part := done.foldl (fun q k => (rampComplete k q).handOn) p

/-- A share period begins, and its results are handed to the Governor Output, Reserve and Shed Units (R67, R78). -/
def beginSharePeriod (i : IslandNo) (p : Part) : Part :=
  let c := computePeriod i p
  let planned := makePlans i p.clock c.2.roles (reportCompletions c.2.done c.1)
  shedPeriod i c.2.figures c.2.counted (reservePeriod i c.2.figures planned)

/-- The time at which an island's next share period begins. -/
def periodDue (p : Part) (i : IslandNo) : Option Nat := (p.islands[i]).bind Island.nextPeriod

/-- An island's share period falls due (R66). -/
def sharePeriodDue (i : IslandNo) (p : Part) : Part :=
  match periodDue p i with
  | some d => beginSharePeriod i (reach d p)
  | none => p

/-! ### Reserve timers (R108, R110, R112, R116, R117) -/

/-- An island's reserve timer, running in the given state. -/
def reserveTimer (p : Part) (i : IslandNo) (st : ReserveState) : Option Nat :=
  (p.islands[i]).bind fun r => if r.reserve.state = st then r.reserve.timer else none

/-- The reserve timer runs out in a state: the figures are taken afresh and the unit tests again (R108, R110). -/
def reserveTimerExpired (st : ReserveState) (f : IslandNo → Int → Part → Sequenced) (i : IslandNo) (p : Part) : Part :=
  match reserveTimer p i st with
  | some d =>
    let now := reach d p
    (f i (figuresOf now i).spare (takeFigures i now)).handOn
  | none => p

/-- Deadline of the head of an island's heavy queue. -/
def queueHeadDeadline (p : Part) (i : IslandNo) : Option Nat :=
  match (island p i).reserve.queue with
  | q :: _ => q.deadline
  | [] => none

/-- A head's deadline passes (R116). -/
def headDeadlinePassed (i : IslandNo) (p : Part) : Part :=
  match queueHeadDeadline p i with
  | some d => headExpired i (reach d p)
  | none => p

/-- A grant's hold deadline passes (R117). -/
def holdDeadlinePassed (c : ConsumerNo) (p : Part) : Part :=
  match (grantOf p c).bind HeavyGrant.hold with
  | some d => releaseGrant c (reach d p)
  | none => p

/-! ### Shed and restore timers (R147, R150, R151, R160) -/

/-- An island's check timer, running in POST_CHECK. -/
def checkTimer (p : Part) (i : IslandNo) : Option Nat :=
  if (island p i).shed.state = .postCheck then (island p i).shed.checkTimer else none

/-- An island's pacer timer, running in the given state. -/
def pacerTimer (p : Part) (i : IslandNo) (st : ShedState) : Option Nat :=
  if (island p i).shed.state = st then (island p i).shed.pacerTimer else none

/-- The check timer runs out (R147). -/
def checkPassed (i : IslandNo) (p : Part) : Part :=
  match checkTimer p i with
  | some d => checkExpired i (reach d p)
  | none => p

/-- The pacer timer runs out in a state (R150, R151). -/
def pacerPassed (st : ShedState) (i : IslandNo) (p : Part) : Part :=
  match pacerTimer p i st with
  | some d => pacerExpired i (reach d p)
  | none => p

/-- An island's restore timer, running in DELAY or INTERVAL. -/
def restoreTimer (p : Part) (i : IslandNo) : Option Nat :=
  match (island p i).restore.state with
  | .delay | .interval => (island p i).restore.timer
  | .idle | .stepWait | .held => none

/-- The restore timer runs out: a step is tried with figures taken afresh (R160). -/
def restorePassed (i : IslandNo) (p : Part) : Part :=
  match restoreTimer p i with
  | some d =>
    let now := reach d p
    tryRestore i (figuresOf now i) (takeFigures i (onRestore i (fun r => { r with timer := none }) now))
  | none => p

end Sys2Proof.Machine
end

