-- ==== Sys2Proof/Machine/Event.lean ====
section
/-! DEFINITION. How a command becomes an outcome: every command of the part answers a next state, in which the waiting
commands are as they were. -/

namespace Sys2Proof.Machine

/-- The command's effect on the part. -/
def onPart (f : Part → Part) (s : State) : Host.Outcome State Fault Refusal := .next { s with part := f s.part }

/-- A command that acts while the part is powered and not held in reset (R188). -/
def running (f : Part → Part) (s : State) : Host.Outcome State Fault Refusal := onPart (whileRunning f) s

/-- A request of the supervisor, arriving as the accepted frame of its kind, tag and payload (R165, R180, log entry 6). -/
def request (kind : Nat) (tag : Byte) (payload : List Byte) (s : State) : Host.Outcome State Fault Refusal :=
  running (acceptRequest (byteOf kind) tag payload) s

end Sys2Proof.Machine
end

