-- ==== Sys2Proof/Machine/FieldCommands.lean ====
section
/-! DEFINITION. The commands of the field line (R6, R23, R24, R33, R37). -/

namespace Sys2Proof.Machine

/-- FIELD_FRAME_HEADER_REJECT (R24). -/
def execFieldFrameHeaderReject (bytes : List Byte) (s : State) : Host.Outcome State Fault Refusal :=
  running (fieldHeaderRejected bytes) s

/-- FIELD_FRAME_GAP_TIMEOUT (R23). -/
def execFieldFrameGapTimeout (s : State) : Host.Outcome State Fault Refusal := running fieldGapPassed s

/-- FIELD_FRAME_RECEIVED (R24, R25). -/
def execFieldFrameReceived (frame : List Byte) (s : State) : Host.Outcome State Fault Refusal :=
  running (fieldFrameTaken frame) s

/-- FIELD_BYTE_RECEIVED (R23). -/
def execFieldByteReceived (b : Byte) (s : State) : Host.Outcome State Fault Refusal := running (fieldByte b) s

/-- STALE_TIMER_EXPIRY (R5, R6). -/
def execStaleTimerExpiry (o : ObjectRef) (s : State) : Host.Outcome State Fault Refusal := running (staleExpired o) s

/-- ORDER_FRAME_SENT (R33). -/
def execOrderFrameSent (s : State) : Host.Outcome State Fault Refusal := running orderSent s

/-- FEEDBACK_TIMEOUT (R37). -/
def execFeedbackTimeout (c : ConsumerNo) (s : State) : Host.Outcome State Fault Refusal := running (feedbackExpired c) s

end Sys2Proof.Machine
end

