-- ==== Sys2Proof/Machine/IslandCommands.lean ====
section
/-! DEFINITION. The commands of the timers of an island's reserve record, shed context and restore context, and of a
grant (R108, R110, R116, R117, R147, R150, R151, R160). -/

namespace Sys2Proof.Machine

/-- START_CONFIRM_EXPIRY (R108, R112). -/
def execStartConfirmExpiry (i : IslandNo) (s : State) : Host.Outcome State Fault Refusal :=
  running (reserveTimerExpired .startConfirm startConfirmExpired i) s

/-- STOP_DELAY_EXPIRY (R110). -/
def execStopDelayExpiry (i : IslandNo) (s : State) : Host.Outcome State Fault Refusal :=
  running (reserveTimerExpired .stopConfirm stopDelayExpired i) s

/-- HEAD_DEADLINE_EXPIRY (R116). -/
def execHeadDeadlineExpiry (i : IslandNo) (s : State) : Host.Outcome State Fault Refusal :=
  running (headDeadlinePassed i) s

/-- HOLD_DEADLINE_EXPIRY (R117). -/
def execHoldDeadlineExpiry (c : ConsumerNo) (s : State) : Host.Outcome State Fault Refusal :=
  running (holdDeadlinePassed c) s

/-- CHECK_TIMER_EXPIRY (R147). -/
def execCheckTimerExpiry (i : IslandNo) (s : State) : Host.Outcome State Fault Refusal := running (checkPassed i) s

/-- CONFIRM_TIMER_EXPIRY (R150). -/
def execConfirmTimerExpiry (i : IslandNo) (s : State) : Host.Outcome State Fault Refusal :=
  running (pacerPassed .confirming i) s

/-- SETTLE_TIMER_EXPIRY (R151). -/
def execSettleTimerExpiry (i : IslandNo) (s : State) : Host.Outcome State Fault Refusal :=
  running (pacerPassed .settling i) s

/-- RESTORE_TIMER_EXPIRY (R160). -/
def execRestoreTimerExpiry (i : IslandNo) (s : State) : Host.Outcome State Fault Refusal := running (restorePassed i) s

end Sys2Proof.Machine
end

