-- ==== Sys2Proof/Machine/PowerCommands.lean ====
section
/-! DEFINITION. The commands of the supply, the reset input and the acquire timer (R188, R189, R191). -/

namespace Sys2Proof.Machine

/-- POWER_ON (R188). -/
def execPowerOn (strap1 strap2 : Bool) (s : State) : Host.Outcome State Fault Refusal :=
  onPart (coldStart strap1 strap2) s

/-- RESET_ASSERT (R188). -/
def execResetAssert (s : State) : Host.Outcome State Fault Refusal := onPart assertReset s

/-- RESET_RELEASE (R188). -/
def execResetRelease (strap1 strap2 : Bool) (s : State) : Host.Outcome State Fault Refusal :=
  onPart (releaseReset strap1 strap2) s

/-- ACQUIRE_TIMER_EXPIRY (R189). -/
def execAcquireTimerExpiry (s : State) : Host.Outcome State Fault Refusal := running acquireExpired s

/-- POWER_LOSS (R191). -/
def execPowerLoss (s : State) : Host.Outcome State Fault Refusal := onPart losePower s

end Sys2Proof.Machine
end

