-- ==== Sys2Proof/Machine/RequestCommands.lean ====
section
/-! DEFINITION. The supervisor's requests, each as the accepted frame of its kind and payload (R171 to R178, R180). -/

namespace Sys2Proof.Machine

/-- IDENTIFY (R174). -/
def execIdentify (tag : Byte) (s : State) : Host.Outcome State Fault Refusal := request 1 tag [] s

/-- READ_SET (R175). -/
def execReadSet (tag set : Byte) (s : State) : Host.Outcome State Fault Refusal := request 2 tag [set] s

/-- READ_CONSUMER (R175). -/
def execReadConsumer (tag consumer : Byte) (s : State) : Host.Outcome State Fault Refusal := request 3 tag [consumer] s

/-- READ_ISLAND (R176). -/
def execReadIsland (tag sect first : Byte) (s : State) : Host.Outcome State Fault Refusal := request 4 tag [sect, first] s

/-- READ_CONTINGENCY (R176). -/
def execReadContingency (tag sect set first : Byte) (s : State) : Host.Outcome State Fault Refusal :=
  request 5 tag [sect, set, first] s

/-- READ_HISTORY (R176). -/
def execReadHistory (tag sect first : Byte) (s : State) : Host.Outcome State Fault Refusal := request 6 tag [sect, first] s

/-- READ_FLAGS (R174). -/
def execReadFlags (tag : Byte) (s : State) : Host.Outcome State Fault Refusal := request 7 tag [] s

/-- READ_PLANT (R174). -/
def execReadPlant (tag : Byte) (s : State) : Host.Outcome State Fault Refusal := request 8 tag [] s

/-- WRITE_SET (R171). -/
def execWriteSet (tag set : Byte) (mask : BitVec 16) (fields : List Word) (s : State) :
    Host.Outcome State Fault Refusal := request 9 tag (set :: (maskBytes16 mask ++ fromWords fields)) s

/-- WRITE_CONSUMER (R134, R172). -/
def execWriteConsumer (tag consumer : Byte) (mask : BitVec 16) (fields : List Word) (s : State) :
    Host.Outcome State Fault Refusal := request 10 tag (consumer :: (maskBytes16 mask ++ fromWords fields)) s

/-- WRITE_PLANT (R173). -/
def execWritePlant (tag : Byte) (mask : BitVec 64) (fields : List Word) (s : State) : Host.Outcome State Fault Refusal :=
  request 11 tag (maskBytes64 mask ++ fromWords fields) s

/-- PLACE_CONSUMER with the move indicator clear (R131). -/
def execPlaceConsumer (tag consumer position : Byte) (fields : List Word) (s : State) :
    Host.Outcome State Fault Refusal := request 12 tag (consumer :: position :: 0#8 :: fromWords fields) s

/-- PLACE_CONSUMER_MOVE: PLACE CONSUMER with the move indicator set (R132). -/
def execPlaceConsumerMove (tag consumer position : Byte) (fields : List Word) (s : State) :
    Host.Outcome State Fault Refusal := request 12 tag (consumer :: position :: 1#8 :: fromWords fields) s

/-- REMOVE_CONSUMER (R133). -/
def execRemoveConsumer (tag consumer : Byte) (s : State) : Host.Outcome State Fault Refusal :=
  request 13 tag [consumer] s

/-- WRITE_STANDBY_ORDER (R101). -/
def execWriteStandbyOrder (tag : Byte) (sets : List Byte) (s : State) : Host.Outcome State Fault Refusal :=
  request 14 tag (byteOf sets.length :: sets) s

/-- SET_MODE (R62). -/
def execSetMode (tag set mode : Byte) (s : State) : Host.Outcome State Fault Refusal := request 15 tag [set, mode] s

/-- COMMAND_SET_START (R63). -/
def execCommandSetStart (tag set : Byte) (s : State) : Host.Outcome State Fault Refusal := request 16 tag [set, 0#8] s

/-- COMMAND_SET_STOP (R63). -/
def execCommandSetStop (tag set : Byte) (s : State) : Host.Outcome State Fault Refusal := request 16 tag [set, 1#8] s

/-- COMMAND_SET_BLOCK (R64). -/
def execCommandSetBlock (tag set : Byte) (s : State) : Host.Outcome State Fault Refusal := request 16 tag [set, 2#8] s

/-- COMMAND_SET_RESET (R65). -/
def execCommandSetReset (tag set : Byte) (s : State) : Host.Outcome State Fault Refusal := request 16 tag [set, 3#8] s

/-- SHED_CONSUMER (R154). -/
def execShedConsumer (tag consumer : Byte) (s : State) : Host.Outcome State Fault Refusal := request 17 tag [consumer] s

/-- RELEASE_CONSUMER (R155). -/
def execReleaseConsumer (tag consumer : Byte) (s : State) : Host.Outcome State Fault Refusal :=
  request 18 tag [consumer] s

/-- RESTORE_STEP (R161). -/
def execRestoreStep (tag sect : Byte) (s : State) : Host.Outcome State Fault Refusal := request 19 tag [sect] s

/-- CLEAR_FLAGS (R185). -/
def execClearFlags (tag : Byte) (mask : Word) (s : State) : Host.Outcome State Fault Refusal :=
  request 20 tag (wordBytes mask) s

/-- ENABLE_FLAGS (R186). -/
def execEnableFlags (tag : Byte) (mask : Word) (s : State) : Host.Outcome State Fault Refusal :=
  request 21 tag (wordBytes mask) s

/-- GRANT_REPORTS (R184). -/
def execGrantReports (tag n : Byte) (s : State) : Host.Outcome State Fault Refusal := request 22 tag [n] s

/-- SAVE (R191). -/
def execSave (tag : Byte) (s : State) : Host.Outcome State Fault Refusal := request 23 tag [] s

/-- RESTART (R178). -/
def execRestart (tag : Byte) (s : State) : Host.Outcome State Fault Refusal := request 24 tag [] s

end Sys2Proof.Machine
end

