-- ==== Sys2Proof/Machine/SetCommands.lean ====
section
/-! DEFINITION. The commands of the set timers, the share period and the sub-pulses (R46, R49, R54, R55, R67, R93). -/

namespace Sys2Proof.Machine

/-- START_TIMER_EXPIRY (R46). -/
def execStartTimerExpiry (k : SetNo) (s : State) : Host.Outcome State Fault Refusal :=
  running (setTimerExpired .start startExpired k) s

/-- SYNC_TIMER_EXPIRY (R49). -/
def execSyncTimerExpiry (k : SetNo) (s : State) : Host.Outcome State Fault Refusal :=
  running (setTimerExpired .sync syncExpired k) s

/-- OPEN_TIMER_EXPIRY (R54). -/
def execOpenTimerExpiry (k : SetNo) (s : State) : Host.Outcome State Fault Refusal :=
  running (setTimerExpired .openBreaker openExpired k) s

/-- STOP_TIMER_EXPIRY (R55). -/
def execStopTimerExpiry (k : SetNo) (s : State) : Host.Outcome State Fault Refusal :=
  running (setTimerExpired .stop stopExpired k) s

/-- SHARE_PERIOD (R67). -/
def execSharePeriod (i : IslandNo) (s : State) : Host.Outcome State Fault Refusal := running (sharePeriodDue i) s

/-- SUB_PULSE_START (R93). -/
def execSubPulseStart (k : SetNo) (s : State) : Host.Outcome State Fault Refusal := running (beginSubPulse k) s

/-- SUB_PULSE_END (R93, R94). -/
def execSubPulseEnd (k : SetNo) (s : State) : Host.Outcome State Fault Refusal := running (endSubPulse k) s

end Sys2Proof.Machine
end

