-- ==== Sys2Proof/Machine/SupervisorCommands.lean ====
section
/-! DEFINITION. The commands of the supervisor line, and the end of a SAVE (R164, R165, R168, R191). -/

namespace Sys2Proof.Machine

/-- SUPERVISOR_HEADER_REJECT (R164). -/
def execSupervisorHeaderReject (bytes : List Byte) (s : State) : Host.Outcome State Fault Refusal :=
  running (supervisorHeaderRejected bytes) s

/-- SUPERVISOR_GAP_TIMEOUT (R164). -/
def execSupervisorGapTimeout (s : State) : Host.Outcome State Fault Refusal := running supervisorGapPassed s

/-- SUPERVISOR_FRAME_RECEIVED (R164, R165). -/
def execSupervisorFrameReceived (frame : List Byte) (s : State) : Host.Outcome State Fault Refusal :=
  running (supervisorFrameTaken frame) s

/-- SUPERVISOR_BYTE_RECEIVED (R164). -/
def execSupervisorByteReceived (b : Byte) (s : State) : Host.Outcome State Fault Refusal := running (supervisorByte b) s

/-- SUPERVISOR_FRAME_SENT (R168, R178). -/
def execSupervisorFrameSent (s : State) : Host.Outcome State Fault Refusal := running supervisorSent s

/-- SAVE_COMPLETE (R191). -/
def execSaveComplete (readBackMatches : Bool) (s : State) : Host.Outcome State Fault Refusal :=
  running (saveCompared readBackMatches) s

/-- SAVE_TIMEOUT (R191). -/
def execSaveTimeout (s : State) : Host.Outcome State Fault Refusal := running saveTimedOut s

end Sys2Proof.Machine
end

