-- ==== Sys2Proof/Machine/Dispatch.lean ====
section
/-! DEFINITION. The command's meaning, one direct call for each row of the table. -/

namespace Sys2Proof.Machine

def exec (i : Instr) (s : State) : Host.Outcome State Fault Refusal :=
  match i with
  | .powerOn strap1 strap2 => Sys2Proof.Machine.execPowerOn strap1 strap2 s
  | .resetAssert => Sys2Proof.Machine.execResetAssert s
  | .resetRelease strap1 strap2 => Sys2Proof.Machine.execResetRelease strap1 strap2 s
  | .acquireTimerExpiry => Sys2Proof.Machine.execAcquireTimerExpiry s
  | .fieldFrameHeaderReject bytes => Sys2Proof.Machine.execFieldFrameHeaderReject bytes s
  | .fieldFrameGapTimeout => Sys2Proof.Machine.execFieldFrameGapTimeout s
  | .fieldFrameReceived frame => Sys2Proof.Machine.execFieldFrameReceived frame s
  | .staleTimerExpiry o => Sys2Proof.Machine.execStaleTimerExpiry o s
  | .orderFrameSent => Sys2Proof.Machine.execOrderFrameSent s
  | .feedbackTimeout c => Sys2Proof.Machine.execFeedbackTimeout c s
  | .startTimerExpiry k => Sys2Proof.Machine.execStartTimerExpiry k s
  | .syncTimerExpiry k => Sys2Proof.Machine.execSyncTimerExpiry k s
  | .openTimerExpiry k => Sys2Proof.Machine.execOpenTimerExpiry k s
  | .stopTimerExpiry k => Sys2Proof.Machine.execStopTimerExpiry k s
  | .sharePeriod j => Sys2Proof.Machine.execSharePeriod j s
  | .subPulseStart k => Sys2Proof.Machine.execSubPulseStart k s
  | .subPulseEnd k => Sys2Proof.Machine.execSubPulseEnd k s
  | .startConfirmExpiry j => Sys2Proof.Machine.execStartConfirmExpiry j s
  | .stopDelayExpiry j => Sys2Proof.Machine.execStopDelayExpiry j s
  | .headDeadlineExpiry j => Sys2Proof.Machine.execHeadDeadlineExpiry j s
  | .holdDeadlineExpiry c => Sys2Proof.Machine.execHoldDeadlineExpiry c s
  | .checkTimerExpiry j => Sys2Proof.Machine.execCheckTimerExpiry j s
  | .confirmTimerExpiry j => Sys2Proof.Machine.execConfirmTimerExpiry j s
  | .settleTimerExpiry j => Sys2Proof.Machine.execSettleTimerExpiry j s
  | .restoreTimerExpiry j => Sys2Proof.Machine.execRestoreTimerExpiry j s
  | .supervisorHeaderReject bytes => Sys2Proof.Machine.execSupervisorHeaderReject bytes s
  | .supervisorGapTimeout => Sys2Proof.Machine.execSupervisorGapTimeout s
  | .supervisorFrameReceived frame => Sys2Proof.Machine.execSupervisorFrameReceived frame s
  | .identify tag => Sys2Proof.Machine.execIdentify tag s
  | .readPlant tag => Sys2Proof.Machine.execReadPlant tag s
  | .readFlags tag => Sys2Proof.Machine.execReadFlags tag s
  | .readSet tag set => Sys2Proof.Machine.execReadSet tag set s
  | .readConsumer tag consumer => Sys2Proof.Machine.execReadConsumer tag consumer s
  | .readIsland tag sect first => Sys2Proof.Machine.execReadIsland tag sect first s
  | .readContingency tag sect set first => Sys2Proof.Machine.execReadContingency tag sect set first s
  | .readHistory tag sect first => Sys2Proof.Machine.execReadHistory tag sect first s
  | .writeSet tag set mask fields => Sys2Proof.Machine.execWriteSet tag set mask fields s
  | .writeConsumer tag consumer mask fields => Sys2Proof.Machine.execWriteConsumer tag consumer mask fields s
  | .writePlant tag mask fields => Sys2Proof.Machine.execWritePlant tag mask fields s
  | .placeConsumer tag consumer position fields => Sys2Proof.Machine.execPlaceConsumer tag consumer position fields s
  | .placeConsumerMove tag consumer position fields => Sys2Proof.Machine.execPlaceConsumerMove tag consumer position fields s
  | .removeConsumer tag consumer => Sys2Proof.Machine.execRemoveConsumer tag consumer s
  | .writeStandbyOrder tag sets => Sys2Proof.Machine.execWriteStandbyOrder tag sets s
  | .setMode tag set mode => Sys2Proof.Machine.execSetMode tag set mode s
  | .commandSetStart tag set => Sys2Proof.Machine.execCommandSetStart tag set s
  | .commandSetStop tag set => Sys2Proof.Machine.execCommandSetStop tag set s
  | .commandSetBlock tag set => Sys2Proof.Machine.execCommandSetBlock tag set s
  | .commandSetReset tag set => Sys2Proof.Machine.execCommandSetReset tag set s
  | .shedConsumer tag consumer => Sys2Proof.Machine.execShedConsumer tag consumer s
  | .releaseConsumer tag consumer => Sys2Proof.Machine.execReleaseConsumer tag consumer s
  | .restoreStep tag sect => Sys2Proof.Machine.execRestoreStep tag sect s
  | .clearFlags tag mask => Sys2Proof.Machine.execClearFlags tag mask s
  | .enableFlags tag mask => Sys2Proof.Machine.execEnableFlags tag mask s
  | .grantReports tag n => Sys2Proof.Machine.execGrantReports tag n s
  | .save tag => Sys2Proof.Machine.execSave tag s
  | .saveComplete readBackMatches => Sys2Proof.Machine.execSaveComplete readBackMatches s
  | .saveTimeout => Sys2Proof.Machine.execSaveTimeout s
  | .restart tag => Sys2Proof.Machine.execRestart tag s
  | .supervisorFrameSent => Sys2Proof.Machine.execSupervisorFrameSent s
  | .fieldByteReceived b => Sys2Proof.Machine.execFieldByteReceived b s
  | .supervisorByteReceived b => Sys2Proof.Machine.execSupervisorByteReceived b s
  | .powerLoss => Sys2Proof.Machine.execPowerLoss s

end Sys2Proof.Machine
end

