-- ==== Sys2Proof/Safety.lean ====
section
/-! DEFINITION. What counts as a safe condition of the part, in the terms the statements use: the governor lines (R86),
the order queues (R28), the heavy queues (R100), the entries and the shed histories (R125, R156), the supervisor line's
queues (R165, R182 to R184), the configuration (R41, R101, R123, R173), the island map (R12, R13) and the sets' states
(R42). -/

namespace Sys2Proof.Machine

/-! ### Governor lines -/

/-- A set's two governor lines are not active together (R86). -/
def GovRecord.oneLine (g : GovRecord) : Prop := (g.raise && g.lower) = false

/-- The sixteen governor lines are safe (R86). -/
def Part.linesSafe (p : Part) : Prop := ∀ k : SetNo, (p.gov[k]).oneLine

/-! ### Order queues -/

/-- The two order queues: at most one order for each object in the two together, urgent orders only TRIP and LIMIT orders
for consumers, and neither queue longer than it may be (R27, R28). -/
def Part.ordersFit (p : Part) : Prop :=
  (p.urgent ++ p.normal).Pairwise (fun a b => a.body.object ≠ b.body.object)
    ∧ (∀ o ∈ p.urgent, o.urgent = true ∧ isShedOrder o.body = true)
    ∧ (∀ o ∈ p.normal, o.urgent = false)
    ∧ p.urgent.length ≤ Config.shedListMax ∧ p.normal.length ≤ Config.normalMax

/-! ### Heavy queues -/

/-- A heavy queue: at most eight requests, of which the head alone has a deadline (R100, R116). -/
def queueFits (q : List HeavyRequest) : Prop :=
  q.length ≤ Config.heavyMax ∧ (∀ r ∈ q.head?, r.deadline.isSome = true) ∧ ∀ r ∈ q.tail, r.deadline = none

/-- Every island's heavy queue fits (R100). -/
def Part.queuesFit (p : Part) : Prop := ∀ (i : IslandNo) (r : Island), p.islands[i] = some r → queueFits r.reserve.queue

/-- The consumers that an island's heavy queue and held grants name. -/
def ReserveRecord.consumers (r : ReserveRecord) : List ConsumerNo :=
  r.queue.map HeavyRequest.consumer ++ r.grants.map HeavyGrant.consumer

/-- No consumer stands twice in the heavy queues and the held grants, of one island or of two: each stands at most once in
the record of the island that holds its section, and in no other (R100, R114, R119). -/
def Part.heavyApart (p : Part) : Prop :=
  ∀ (i : IslandNo) (r : Island), p.islands[i] = some r →
    r.reserve.consumers.Nodup ∧ ∀ c ∈ r.reserve.consumers, entryIsland p c = some i

/-! ### Shed list entries -/

/-- An entry has a state exactly when it is configured and the phase is RUN (R125, R126). -/
def Part.entriesExist (p : Part) : Prop :=
  ∀ c : ConsumerNo, p.entry[c].state.isSome = (p.phase == .run && consumerConfigured p c)

/-- The shed histories: at most one record for each consumer, in the island that holds its section and while its entry is SHED
or RESTORE_PENDING; the records ordered by shed time, the newest on top, and none from the future (R156 to R158). -/
def Part.historiesFit (p : Part) : Prop :=
  ∀ (i : IslandNo) (r : Island), p.islands[i] = some r →
    (r.history.map HistoryRecord.consumer).Nodup ∧ r.history.Pairwise (fun a b => b.time ≤ a.time)
    ∧ ∀ h ∈ r.history, h.time ≤ p.clock ∧ entryIsland p h.consumer = some i
        ∧ (p.entry[h.consumer].state = some .shed ∨ p.entry[h.consumer].state = some .restorePending)

/-! ### Supervisor line -/

/-- The request queue and the busy list hold four each (R165), the report queue 32 reports, no two of one kind and object
and each with a count of 1 to 255 (R182, R183), and the allowance is at most 255 (R184). -/
def Part.supervisorFits (p : Part) : Prop :=
  p.requests.length ≤ Config.requestMax ∧ p.busyList.length ≤ Config.requestMax
    ∧ p.reports.length ≤ Config.reportMax ∧ p.allowance ≤ Config.countMax
    ∧ p.reports.Pairwise (fun a b => a.kind ≠ b.kind ∨ a.object ≠ b.object)
    ∧ ∀ r ∈ p.reports, 1 ≤ r.count ∧ r.count ≤ Config.countMax

/-! ### Configuration -/

/-- A set's configuration lies in the ranges of R41, with Pmin at most F and F at most R. -/
def SetConfig.fits (c : SetConfig) : Prop :=
  (100 ≤ c.rated ∧ c.rated ≤ 20000) ∧ (c.pmin ≤ c.fixedOut ∧ c.fixedOut ≤ c.rated)
    ∧ (1 ≤ c.weight ∧ c.weight ≤ 255) ∧ (10 ≤ c.rampRate ∧ c.rampRate ≤ 5000) ∧ c.deadband ≤ 100
    ∧ (1 ≤ c.gain ∧ c.gain ≤ 255) ∧ (5 ≤ c.startTime ∧ c.startTime ≤ 120) ∧ c.station ≤ Config.stationMax

/-- A shed list entry's configuration lies in the ranges of R124. -/
def EntryConfig.fits (e : EntryConfig) : Prop :=
  e.floor ≤ 20000 ∧ e.estimate ≤ 20000 ∧ e.station ≤ Config.stationMax

/-- The plant settings lie in their ranges (R90, R113, R137, R152, R173). -/
def PlantConfig.fits (c : PlantConfig) : Prop :=
  c.reserve ≤ 40000 ∧ (80 ≤ c.overload ∧ c.overload ≤ 120) ∧ (100 ≤ c.fastOverload ∧ c.fastOverload ≤ 150)
    ∧ (80 ≤ c.ceiling ∧ c.ceiling ≤ 120) ∧ (500 ≤ c.overloadConfirm ∧ c.overloadConfirm ≤ 10000)
    ∧ (1 ≤ c.settle ∧ c.settle ≤ 30) ∧ (1 ≤ c.startConfirm ∧ c.startConfirm ≤ 60)
    ∧ (10 ≤ c.stopDelay ∧ c.stopDelay ≤ 600) ∧ c.stopHysteresis ≤ 20000
    ∧ (5 ≤ c.restoreDelay ∧ c.restoreDelay ≤ 600) ∧ (1 ≤ c.restoreStep ∧ c.restoreStep ≤ 120)
    ∧ c.restoreMargin ≤ 20000 ∧ (c.nominal = 50000 ∨ c.nominal = 60000) ∧ c.freqDeadband ≤ 500 ∧ c.trimGain ≤ 255
    ∧ c.trimMax ≤ 96 ∧ (5 ≤ c.heavyHold ∧ c.heavyHold ≤ 60) ∧ (10 ≤ c.heavyExpiry ∧ c.heavyExpiry ≤ 300)
    ∧ (∀ t : TieNo, c.tieStation[t] ≤ Config.stationMax) ∧ ∀ s : SectionNo, c.meterStation[s] ≤ Config.stationMax

/-- A configuration: its fields in range, at most one shed list entry for each consumer (R123), and a standby order of
sets without repeats (R101). -/
def Configuration.fits (c : Configuration) : Prop :=
  (∀ k : SetNo, (c.sets[k]).fits) ∧ (∀ e ∈ c.shedList, e.fits) ∧ c.plant.fits
    ∧ c.shedList.length ≤ Config.shedListMax ∧ c.shedList.Pairwise (fun a b => a.consumer ≠ b.consumer)
    ∧ c.standby.length ≤ 8 ∧ c.standby.Nodup

/-- The working configuration and the store's contents fit (R190). -/
def Part.configFits (p : Part) : Prop := p.cfg.fits ∧ p.store.contents.fits

/-! ### Islands and states -/

/-- In ACQUIRE there is no island map and no island record (R21). In RUN the recorded tie states are those held, the map
is R12's for them, and there is a record for exactly the sections that name an island (R13). -/
def Part.mapFollows (p : Part) : Prop :=
  (p.phase = .acquire → p.islandMap = none ∧ ∀ i : IslandNo, p.islands[i] = none)
    ∧ (p.phase = .run → p.tieJoins = Vector.ofFn (tieJoinsNow p) ∧ p.islandMap = some (islandMapOf p.tieJoins)
        ∧ ∀ i : IslandNo, p.islands[i].isSome = decide ((islandMapOf p.tieJoins)[i] = i))

/-- A set has a state exactly when it is configured and the phase is RUN, and a set timer runs only for a set with a
state (R42). -/
def Part.statesExist (p : Part) : Prop :=
  ∀ k : SetNo, p.seq[k].state.isSome = (p.phase == .run && setConfigured p k)
    ∧ (p.seq[k].timer.isSome = true → p.seq[k].state.isSome = true)

end Sys2Proof.Machine
end

