-- ==== Sys2Proof/Certificates/Slice0/Obligations.lean ====
section
/-! DEFINITION. The statements about the part. `Sys2Proof.Claims` holds the words they share; each statement is a
`def Obligations.<Name> : Prop`. A command's statement names the part `q` that the command makes, and says that the next
state is `kick q` with the waiting commands as they were: `Obligations.TransmittersChoose` says what `kick` is. -/

namespace Sys2Proof.Claims

open Sys2Proof.Machine

/-! ### Conditions of the part -/

/-- Powered, and not held in reset (R188). -/
abbrev Awake (p : Part) : Prop := p.powered = true ∧ p.resetAsserted = false

/-- Awake in the RUN phase. -/
abbrev Running (p : Part) : Prop := Awake p ∧ p.phase = .run

/-- Room for one more normal order (R28). -/
abbrev Room (p : Part) : Prop := p.normal.length < 32

/-- The raw flag of an event kind is set (R182). -/
abbrev Flagged (p : Part) (k : EventKind) : Prop := p.rawFlags.getLsbD k.index = true

/-- An order with this body has been handed over since `p`: it is queued in either class, or taken for the line (R28, R32). -/
abbrev Raised (p q : Part) (b : OrderBody) : Prop :=
  ∃ o : Order, o.body = b ∧ p.nextOrder ≤ o.serial
    ∧ (o ∈ q.urgent ++ q.normal ∨ q.fieldTx.map OrderInTransmission.order = some o)

/-- The part at the later of its own time and a timer's (log entry 4). -/
def at' (d : Nat) (p : Part) : Part := { p with clock := max p.clock d }

/-! ### What stays -/

/-- Supply, store, line rate and the supervisor line are the same, but that a report may have been begun: on an idle
transmitter that no reply waits for, taking one unit of the allowance (R168, R183). -/
def SameDesk (p q : Part) : Prop :=
  (q.powered, q.resetAsserted, q.store, q.rate, q.supRx, q.requests, q.busyList, q.replies, q.restarting, q.nextRequest)
    = (p.powered, p.resetAsserted, p.store, p.rate, p.supRx, p.requests, p.busyList, p.replies, p.restarting,
      p.nextRequest)
  ∧ ((q.supTx = p.supTx ∧ q.allowance = p.allowance)
    ∨ (p.supTx = none ∧ p.replies = [] ∧ p.allowance = q.allowance + 1
      ∧ ∃ r, q.supTx = some { what := .report, frame := reportFrame r }))

/-- Plant phase, acquire timer, recorded tie states and island map are the same. -/
def SameMap (p q : Part) : Prop :=
  (q.phase, q.acquireAt, q.tieJoins, q.islandMap) = (p.phase, p.acquireAt, p.tieJoins, p.islandMap)

/-- Every object record is the same (R2). -/
def SameImages (p q : Part) : Prop :=
  (q.setImage, q.consumerImage, q.meterImage, q.tieImage) = (p.setImage, p.consumerImage, p.meterImage, p.tieImage)

/-- Field receiver, feedback timers and field transmitter are the same, but that an idle transmitter may in RUN have taken an
order handed over since `p` (R32). -/
def SameLine (p q : Part) : Prop :=
  q.fieldRx = p.fieldRx ∧ q.feedback = p.feedback
  ∧ (q.fieldTx = p.fieldTx
    ∨ (p.fieldTx = none ∧ p.phase = .run ∧ ∃ o : Order, p.nextOrder ≤ o.serial
      ∧ q.fieldTx = some { order := o, station := objectStation p o.body.object,
                           frame := orderFrame (objectStation p o.body.object) o.body, withdrawn := false }))

/-- Nothing is changed but what the Set Sequencer, the Share, Governor Output, Reserve, Shed and Event Units hold, and the
order queues. -/
def SameAside (p q : Part) : Prop :=
  SameDesk p q ∧ q.cfg = p.cfg ∧ q.clock = p.clock ∧ SameMap p q ∧ SameImages p q ∧ SameLine p q

/-- A sequencer record that no request of the Reserve Unit acts on: neither in STANDBY nor in RAMP_OUT of origin
automatic (R45, R52). -/
abbrev Settled (r : SeqRecord) : Prop :=
  r.state ≠ some .standby ∧ ¬(r.state = some .rampOut ∧ r.origin = some .automatic)

/-- The other sets' records that no request of the Reserve Unit acts on are the same (R44). -/
def SameOthers (p q : Part) (k : SetNo) : Prop := ∀ j : SetNo, j ≠ k → Settled p.seq[j] → q.seq[j] = p.seq[j]

/-- The shed histories are the same (R156). -/
def SameHistory (p q : Part) : Prop := ∀ i : IslandNo, (island q i).history = (island p i).history

/-- The state that a set's mode and held values give it (R61). -/
def derived (p : Part) (k : SetNo) : SetState :=
  if p.cfg.sets[k].mode = .localRun then .localRun
  else if p.setImage[k].closed = true then .onBus
  else if p.setImage[k].trip = true then .tripped
  else if p.setImage[k].running = true then .blocked
  else .standby

/-- Every history is without this consumer's record, and otherwise as it was (R157). -/
def RecordGone (p q : Part) (c : ConsumerNo) : Prop :=
  ∀ i : IslandNo, (island q i).history = (island p i).history.filter fun h => h.consumer != c

/-- No trace of a consumer is left but its configuration: its records are reset, and its history record, its orders queued or
awaiting feedback, its request and its grant are gone (R10, R31, R119, R126, R133). Of a part in which no consumer stands
twice in the heavy queues and grants, no island names it there, and those of the island that did are else as they were. -/
def Forgotten (p q : Part) (c : ConsumerNo) : Prop :=
  q.consumerImage[c] = ConsumerImage.reset ∧ q.entry[c] = EntryRecord.reset ∧ RecordGone p q c
  ∧ queuedFor q (.consumer c) = none ∧ q.feedback[c] = none
  ∧ (∀ tx, q.fieldTx = some tx → tx.order.body.object = .consumer c → tx.withdrawn = true)
  ∧ (p.heavyApart →
    (∀ i : IslandNo, c ∉ (island q i).reserve.consumers)
    ∧ (∀ i, queueIsland p c = some i →
      (island q i).reserve.queue.map HeavyRequest.consumer
        = ((island p i).reserve.queue.map HeavyRequest.consumer).filter fun d => d != c)
    ∧ (∀ i, grantIsland p c = some i →
      (island q i).reserve.grants = (island p i).reserve.grants.filter fun g => g.consumer != c))

/-- A consumer's order of this kind is handed back as timed out or superseded (R144, R161). A shed order's entry goes back to
CONNECTED with trip-failed set where its breaker is held closed, else to OPEN_EXTERNAL, with TRIP_FAIL; a restore order's
entry goes back to SHED with restore-failed set, with RESTORE_FAIL. No other entry and no history record is changed. -/
def HandedBack (p q : Part) (c : ConsumerNo) (a : ConsumerOrder) : Prop :=
  (a = .trip ∨ (∃ kw, a = .limit kw) → p.entry[c].state = some .shedPending →
    Flagged q .tripFail
    ∧ q.entry = p.entry.set c
        (if p.consumerImage[c].closed = true then
          { state := some .connected, tripFailed := true, restoreFailed := false, relief := 0, cause := none }
        else
          { state := some .openExternal, tripFailed := false, restoreFailed := p.entry[c].restoreFailed, relief := 0,
            cause := none }))
  ∧ (a = .close ∨ a = .release → p.entry[c].state = some .restorePending →
    Flagged q .restoreFail
    ∧ q.entry = p.entry.set c
        { state := some .shed, tripFailed := false, restoreFailed := true, relief := 0, cause := none })
  ∧ (p.entry[c].state ≠ some .shedPending → p.entry[c].state ≠ some .restorePending → q.entry = p.entry)
  ∧ SameHistory p q

/-! ### Share periods (R69) -/

/-- What a set of the bus contributes to the fixed sum of a share period, none for a sharing set. `done` says that its ramp
was reported complete in the period, and `ramp` is its ramp value (R69). -/
def fixedContribution (p : Part) (k : SetNo) (done : Bool) (ramp : Nat) : Option Nat :=
  let byMode : Option Nat :=
    match p.cfg.sets[k].mode with
    | .auto => none
    | .fixed => some p.cfg.sets[k].fixedOut
    | .localRun => some p.setImage[k].kw
  if p.setImage[k].fresh.state ≠ .qualified then some p.setImage[k].kw
  else
    match p.seq[k].state with
    | some .onBus => byMode
    | some .rampIn => if done then byMode else some ramp
    | some .rampOut => if done then some p.setImage[k].kw else some ramp
    | _ => some p.setImage[k].kw

/-- The entry is shed by a step of the paced sequence (R143, R150): in SHED_PENDING with cause PACED, its order queued, the
context waiting for it with one more step counted, and PACED_SHED raised. -/
def Paced (p q : Part) (i : IslandNo) (steps : Nat) (f : Figures) (e : EntryConfig) : Prop :=
  q.entry[e.consumer].state = some .shedPending ∧ q.entry[e.consumer].cause = some .paced
  ∧ Raised p q (.consumer e.consumer (stepOrder p f e)) ∧ Flagged q .pacedShed
  ∧ (island q i).shed.state = .stepWait ∧ (island q i).shed.stepConsumer = some e.consumer
  ∧ (island q i).shed.steps = min 255 (steps + 1)
  ∧ (∀ c : ConsumerNo, c ≠ e.consumer → q.entry[c] = p.entry[c]) ∧ SameHistory p q

/-! ### Requests -/

/-- A request finds a free place in the request queue, and no RESTART has been served (R165, R166). -/
abbrev Free (p : Part) : Prop := Awake p ∧ p.requests.length < 4 ∧ p.restarting = none

/-- The part `q` with the request in the request queue as ANSWERED and its reply at the tail of the reply order (R165,
R166). -/
def replied (kind : Nat) (tag : Byte) (payload : List Byte) (code : ResultCode) (data : List Byte) (p q : Part) : Part :=
  { q with
    nextRequest := p.nextRequest + 1
    requests := p.requests ++ [{ serial := p.nextRequest, kind := byteOf kind, tag := tag, payload := payload,
                                 condition := some .answered }]
    replies := p.replies ++ [{ serial := p.nextRequest, kind := byteOf kind, tag := tag, code := code, data := data }] }

/-- The command completes, and its request is answered with this code and data, having made `q` of the part. -/
def Answers (c : Instr) (p : Part) (w : List Instr) (kind : Nat) (tag : Byte) (payload : List Byte)
    (code : ResultCode) (data : List Byte) (q : Part) : Prop :=
  exec c { part := p, pending := w } = .next { part := kick (replied kind tag payload code data p q), pending := w }

/-- The value that a numeric field takes in a masked write: the value sent, brought into its range, where the field is
present (R170). -/
def written (m : Masked) (n lo hi old : Nat) : Nat :=
  if m.mask.testBit n then (max (lo : Int) (min (hi : Int) (m.fields.getD n 0#32).toInt)).toNat else old

/-- The code that an enumerated field takes in a masked write (R170). -/
def chosen {α : Type} (m : Masked) (n : Nat) (codes : Nat → α) (old : α) : α :=
  if m.mask.testBit n then codes ((m.fields.getD n 0#32).toNat % 256) else old

/-- A numeric field is present with a value outside its range (R170). -/
abbrev beyond (m : Masked) (n lo hi : Nat) : Prop :=
  m.mask.testBit n = true ∧ ((m.fields.getD n 0#32).toInt < lo ∨ (hi : Int) < (m.fields.getD n 0#32).toInt)

/-- The code is CLAMPED exactly when a value was brought into its range, and else DONE (R169, R170). -/
abbrev Coded (clamped : Prop) (code : ResultCode) : Prop := (clamped → code = .clamped) ∧ (¬clamped → code = .done)

/-- A shed sequence runs in the island of a section (R135). -/
abbrev ShedRuns (p : Part) (s : SectionNo) : Prop :=
  ∃ i, islandOf p s = some i ∧ (island p i).shed.state ≠ .idle

/-- An order of the entry runs: it is in SHED_PENDING or RESTORE_PENDING (R135). -/
abbrev OrderRuns (p : Part) (c : ConsumerNo) : Prop :=
  p.entry[c].state = some .shedPending ∨ p.entry[c].state = some .restorePending

/-- Commands run one after another, as long as each answers a next state. -/
def runs : List Instr → State → State
  | [], s => s
  | c :: cs, s =>
    match exec c s with
    | .next t => runs cs t
    | .fault _ => s
    | .refused _ => s

/-- The part that a cold start makes before ACQUIRE can end: every block at its reset values, with the store's
configuration where the store is valid, else the default one, and the rate that the straps select (R188, R193). -/
def coldPart (strap1 strap2 : Bool) (p : Part) : Part :=
  { Part.acquiring { p.store with saving := none } (if p.store.valid then p.store.contents else Configuration.default)
      (if strap1 && strap2 then .r460800 else .r115200) with
    resetAsserted := p.resetAsserted }

end Sys2Proof.Claims

open Sys2Proof Sys2Proof.Machine Sys2Proof.Claims

/-! ### The step, time and power -/

/-- Log entry 1: the command at the front of the queue is run, with the queue's rest waiting. -/
def Obligations.StepRunsFrontCommand : Prop :=
  ∀ (c : Instr) (p : Part) (w : List Instr), step { part := p, pending := c :: w } = exec c { part := p, pending := w }

/-- Log entries 3 and 19, with R188: with no command waiting, the plant clock of an awake part counts one millisecond and
nothing else changes; a part that is without power or held in reset takes no command but those of the supply and the reset
input, and its clock stands. -/
def Obligations.IdleAndHeldParts : Prop :=
  ∀ p : Part,
    (Awake p → step { part := p, pending := [] } = .next { part := { p with clock := p.clock + 1 }, pending := [] })
    ∧ (¬Awake p →
      step { part := p, pending := [] } = .next { part := p, pending := [] }
      ∧ ∀ (c : Instr) (w : List Instr),
        (∀ a b, c ≠ .powerOn a b) → (∀ a b, c ≠ .resetRelease a b) → c ≠ .resetAssert → c ≠ .powerLoss →
        exec c { part := p, pending := w } = .next { part := p, pending := w })

/-- R188: POWER_ON is a cold start. Where the loaded configuration has a configured object, the part is then in ACQUIRE
with every block at its reset values. Where it has none, ACQUIRE ends at once (R189), every section is an island (R12),
and the phase is RUN at plant time 0. RESET_RELEASE of a held part is the same cold start with the reset input released. -/
def Obligations.ColdStart : Prop :=
  ∀ (a b : Bool) (p : Part) (w : List Instr),
    ((∃ o, objectConfigured (coldPart a b p) o = true) →
      exec (.powerOn a b) { part := p, pending := w } = .next { part := coldPart a b p, pending := w })
    ∧ ((∀ o, objectConfigured (coldPart a b p) o = false) →
      ∃ q, exec (.powerOn a b) { part := p, pending := w } = .next { part := q, pending := w }
        ∧ q.phase = .run ∧ q.acquireAt = none ∧ q.clock = 0 ∧ q.cfg = (coldPart a b p).cfg
        ∧ q.store = { p.store with saving := none } ∧ q.islandMap = some #v[0, 1, 2, 3]
        ∧ (∀ i : IslandNo, q.islands[i].isSome = true) ∧ SameImages (coldPart a b p) q)
    ∧ (p.powered = true → p.resetAsserted = true →
      exec (.resetRelease a b) { part := p, pending := w }
        = exec (.powerOn a b) { part := { p with resetAsserted := false }, pending := w })

/-- R188, with log entry 19 for the pin of an unpowered part: the asserted reset input makes the governor lines inactive,
the transmitters idle and the receivers hunting, and changes nothing else; releasing an input that is not asserted, or
that of a part without power, releases the pin alone. -/
def Obligations.ResetInput : Prop :=
  ∀ (a b : Bool) (p : Part) (w : List Instr),
    (p.powered = true → exec .resetAssert { part := p, pending := w } = .next
      { part :=
          { p with
            resetAsserted := true
            gov := p.gov.map fun g => { g with raise := false, lower := false, pulseEnd := none }
            fieldTx := none
            supTx := none
            fieldRx := { buf := [], lastAt := 0 }
            supRx := { buf := [], lastAt := 0 } }
        pending := w })
    ∧ (p.powered = false → exec .resetAssert { part := p, pending := w }
        = .next { part := { p with resetAsserted := true }, pending := w })
    ∧ (p.powered = false ∨ p.resetAsserted = false → exec (.resetRelease a b) { part := p, pending := w }
        = .next { part := { p with resetAsserted := false }, pending := w })

/-- R188, R191: the store outlives a loss of power, and the next POWER_ON loads it where it is valid and the default
configuration where it is not. A SAVE in progress is cut off; its store is not valid while it runs (R191), so that it is
the default configuration that then comes. -/
def Obligations.PowerCycleLoadsStore : Prop :=
  ∀ (a b : Bool) (p : Part) (w : List Instr), ∃ q r : Part,
    exec .powerLoss { part := p, pending := w } = .next { part := q, pending := w }
    ∧ exec (.powerOn a b) { part := q, pending := w } = .next { part := r, pending := w }
    ∧ q.powered = false ∧ q.resetAsserted = p.resetAsserted ∧ q.store = { p.store with saving := none }
    ∧ r.powered = true ∧ r.clock = 0 ∧ r.store = { p.store with saving := none }
    ∧ r.cfg = (if p.store.valid then p.store.contents else Configuration.default)
    ∧ r.rate = (if a && b then .r460800 else .r115200)

/-- R189, R9, R21, R61, R126, with log entry 4 for the clock and for the command outside ACQUIRE: the acquire timer ends
ACQUIRE. Configured objects that are still UNQUALIFIED go STALE and the others keep their freshness; the island map is that of
the ties held closed. A configured set is put in the state that its mode and held values give it, LOCAL, ON_BUS, TRIPPED,
BLOCKED or STANDBY, and a STANDBY set may be started at once for a dead island (R112). A configured entry is CONNECTED where
its breaker is held closed, unless dead-island clearing sheds it (R153), else OPEN_EXTERNAL. Outside ACQUIRE the command has
no effect. -/
def Obligations.AcquireTimerEndsAcquire : Prop :=
  ∀ (p : Part) (w : List Instr) (d : Nat), Awake p →
    (p.phase = .acquire → p.acquireAt = some d → ∃ q,
      exec .acquireTimerExpiry { part := p, pending := w } = .next { part := kick q, pending := w }
      ∧ q.phase = .run ∧ q.acquireAt = none ∧ q.clock = max p.clock d ∧ q.cfg = p.cfg ∧ SameDesk p q ∧ SameLine p q
      ∧ (∀ o, freshOf q o =
          if objectConfigured p o = true ∧ (freshOf p o).state = .unqualified
          then { state := .stale, counted := false, staleAt := none } else freshOf p o)
      ∧ q.tieJoins = Vector.ofFn (tieJoinsNow p) ∧ q.islandMap = some (islandMapOf (Vector.ofFn (tieJoinsNow p)))
      ∧ (∀ k, setConfigured p k = true → derived p k ≠ .standby → q.seq[k].state = some (derived p k))
      ∧ (∀ k, setConfigured p k = true → derived p k = .standby →
          q.seq[k].state = some .standby ∨ q.seq[k].state = some .starting)
      ∧ (∀ c, consumerConfigured p c = true → p.consumerImage[c].closed = false →
          q.entry[c].state = some .openExternal)
      ∧ (∀ c, consumerConfigured p c = true → p.consumerImage[c].closed = true →
          q.entry[c].state = some .connected
          ∨ (q.entry[c].state = some .shedPending ∧ q.entry[c].cause = some .deadBus)))
    ∧ (p.phase = .run →
      exec .acquireTimerExpiry { part := p, pending := w } = .next { part := kick p, pending := w })

/-! ### The two transmitters -/

/-- R28, R32, R34, R168, R183, R189, with log entry 8: what the two transmitters take, and when ACQUIRE ends. An idle order
transmitter in RUN takes the head of the urgent queue, else of the normal one, addressed to the station configured now: after
every event, and at once as an order joins empty queues. An idle supervisor transmitter takes the head of the reply order,
else the oldest report if the allowance covers it: after every event, and a report at once as it becomes available where no
reply waits. In ACQUIRE, the phase ends once every configured object is QUALIFIED. -/
def Obligations.TransmittersChoose : Prop :=
  let tx (p : Part) (o : Order) : OrderInTransmission :=
    { order := o, station := objectStation p o.body.object, frame := orderFrame (objectStation p o.body.object) o.body,
      withdrawn := false }
  (∀ (p : Part) (o : Order) (rest : List Order), p.phase = .run → p.fieldTx = none →
    (p.urgent = o :: rest → arbitrate p = { p with urgent := rest, fieldTx := some (tx p o) })
    ∧ (p.urgent = [] → p.normal = o :: rest → arbitrate p = { p with normal := rest, fieldTx := some (tx p o) }))
  ∧ (∀ p : Part, p.phase = .acquire ∨ p.fieldTx.isSome = true ∨ (p.urgent = [] ∧ p.normal = []) → arbitrate p = p)
  ∧ (∀ (p : Part) (b : OrderBody) (urgent : Bool), objectConfigured p b.object = true →
    let o : Order := { serial := p.nextOrder, body := b, urgent := urgent }
    (p.phase = .run → p.fieldTx = none → p.urgent = [] → p.normal = [] →
      handOver b urgent p =
        { part := { p with nextOrder := p.nextOrder + 1, fieldTx := some (tx p o) }, queued := some o.serial,
          replaced := none })
    ∧ (p.phase = .acquire ∨ p.fieldTx.isSome = true ∨ p.urgent ≠ [] ∨ p.normal ≠ [] → queuedFor p b.object = none →
      (urgent = true → handOver b urgent p =
        { part := { p with nextOrder := p.nextOrder + 1, urgent := p.urgent ++ [o] }, queued := some o.serial,
          replaced := none })
      ∧ (urgent = false → Room p → handOver b urgent p =
        { part := { p with nextOrder := p.nextOrder + 1, normal := p.normal ++ [o] }, queued := some o.serial,
          replaced := none })))
  ∧ (∀ (p : Part) (r : Reply) (rest : List Reply), p.supTx = none → p.replies = r :: rest →
    sendNext p =
      { p with
        replies := rest
        supTx := some { what := .reply r.serial, frame := replyFrame r }
        requests := p.requests.map fun q => if q.serial = r.serial then { q with condition := some .sending } else q
        busyList := p.busyList.map fun b => if b.serial = r.serial then { b with sending := true } else b })
  ∧ (∀ (p : Part) (r : Report) (rest : List Report), p.supTx = none → p.replies = [] → p.reports = r :: rest →
    0 < p.allowance →
    sendReport p =
      { p with reports := rest, allowance := p.allowance - 1, supTx := some { what := .report, frame := reportFrame r } }
    ∧ sendNext p = sendReport p)
  ∧ (∀ p : Part, p.supTx.isSome = true ∨ p.replies ≠ [] ∨ p.reports = [] ∨ p.allowance = 0 → sendReport p = p)
  ∧ (∀ p : Part, p.supTx.isSome = true ∨ (p.replies = [] ∧ (p.reports = [] ∨ p.allowance = 0)) → sendNext p = p)
  ∧ (∀ p : Part, p.phase = .run → kick p = sendNext (arbitrate p))
  ∧ (∀ p : Part, p.phase = .acquire → (∀ o, objectConfigured p o = true → (freshOf p o).state = .qualified) →
    kick p = sendNext (arbitrate (endAcquire p)))
  ∧ (∀ p : Part, p.phase = .acquire → (∃ o, objectConfigured p o = true ∧ (freshOf p o).state ≠ .qualified) →
    kick p = sendNext p)

/-- R27, R40, R169, R180, R181: every frame that the part sends passes the checks that a receiver makes of it, and carries what
it should. An order carries its kind, 1 to 9 for TRIP, CLOSE, LIMIT, GRANT, DENY, START, STOP, SYNC and OPEN, its object's
number and its argument: the new limit, 65,535 for LIMIT none, 1 for a SYNC with dead-bus permission, else 0. A reply carries
the request's kind with its top bit set, the tag, the code, numbered from 0 in the order of R169, and the data. A report is
kind 64, tag 0, the event kind, numbered from 1 in the order of R181, the class and number of its object, its time and its
count. -/
def Obligations.OutboundFramesAreGood : Prop :=
  let orderFields : OrderBody → Byte × Nat × Nat
    | .consumer c .trip => (1, c.val + 1, 0)
    | .consumer c .close => (2, c.val + 1, 0)
    | .consumer c (.limit kw) => (3, c.val + 1, kw)
    | .consumer c .release => (3, c.val + 1, 65535)
    | .consumer c .grant => (4, c.val + 1, 0)
    | .consumer c .deny => (5, c.val + 1, 0)
    | .set k .start => (6, k.val + 1, 0)
    | .set k .stop => (7, k.val + 1, 0)
    | .set k (.sync permitted) => (8, k.val + 1, if permitted = true then 1 else 0)
    | .set k .openBreaker => (9, k.val + 1, 0)
  let codes : List ResultCode :=
    [.done, .clamped, .noSuch, .badRequest, .refused, .inSequence, .listFull, .duplicate, .storeBusy, .storeFailed, .busy]
  let kinds : List EventKind :=
    [.setLoss, .startSlow, .startFail, .syncFail, .openFail, .stopFail, .fastShed, .pacedShed, .shedExhausted, .tripFail,
      .restored, .restoreFail, .deadIsland, .islandChange, .reserveLow, .contingencyShort, .heavyGrant, .heavyDeny,
      .objectStale, .stationMismatch, .unknownObject, .fieldFrameError, .correctionSaturated, .editCollision,
      .orderQueueFull, .reportOverflow]
  let named : EventObject → Nat × Nat
    | .none => (0, 0)
    | .set k => (1, k.val + 1)
    | .consumer c => (2, c.val + 1)
    | .meter s => (3, s.val + 1)
    | .tie t => (4, t.val + 1)
    | .island i => (5, i.val + 1)
    | .fieldLine => (6, 0)
  (∀ (station : Nat) (b : OrderBody), 1 ≤ station → station ≤ 62 →
    fieldHeaderGood (orderFrame station b) = true ∧ sumHolds (orderFrame station b) = true
    ∧ fieldStation (orderFrame station b) = station
    ∧ fieldArea (orderFrame station b)
        = [(orderFields b).1, byteOf (orderFields b).2.1, byteOf ((orderFields b).2.2 / 256), byteOf (orderFields b).2.2])
  ∧ (∀ (r : Reply) (n : Nat), r.data.length ≤ 247 → codes[n]? = some r.code →
    supervisorHeaderGood (replyFrame r) = true ∧ sumHolds (replyFrame r) = true
    ∧ supervisorKind (replyFrame r) = r.kind ||| 128#8 ∧ supervisorTag (replyFrame r) = r.tag
    ∧ supervisorPayload (replyFrame r) = byteOf n :: r.data)
  ∧ (∀ (r : Report) (n : Nat), kinds[n]? = some r.kind →
    supervisorHeaderGood (reportFrame r) = true ∧ sumHolds (reportFrame r) = true
    ∧ supervisorKind (reportFrame r) = 64#8 ∧ supervisorTag (reportFrame r) = 0#8
    ∧ supervisorPayload (reportFrame r)
        = [byteOf (n + 1), byteOf (named r.object).1, byteOf (named r.object).2, byteOf (r.time / 16777216),
            byteOf (r.time / 65536), byteOf (r.time / 256), byteOf r.time, byteOf r.count])

/-! ### The field receiver and its records -/

/-- R24, R25, with log entry 7 for a whole frame that finds a partial one in the receiver, or fails its header: a field frame
that fails a check is dropped whole with one FIELD_FRAME_ERROR, and a partial frame before it goes without an event. A good frame has its records
taken one by one in their order, each with what follows it at once; the receiver hunts after either. -/
def Obligations.FieldFrameReceived : Prop :=
  ∀ (p : Part) (w : List Instr), Awake p →
    (∀ frame : List Byte,
      fieldHeaderGood frame = false ∨ sumHolds frame = false ∨ areaRecords (fieldArea frame) = none →
      exec (.fieldFrameReceived frame) { part := p, pending := w } = .next
        { part := kick (occur .fieldFrameError .fieldLine { p with fieldRx := { buf := [], lastAt := p.clock } })
          pending := w })
    ∧ (∀ (station : Nat) (records : List (List Byte)), 1 ≤ station → station ≤ 62 → records ≠ [] →
      (∀ r ∈ records, ∃ k rest, r = k :: rest ∧ recordSize k.toNat = some r.length) → records.flatten.length ≤ 240 →
      exec (.fieldFrameReceived (fieldFrame station records.flatten)) { part := p, pending := w } = .next
        { part := kick (records.foldl (fun q r => kick (takeRecord station r q))
            { p with fieldRx := { buf := [], lastAt := p.clock } })
          pending := w })

/-- R26, R40, and the range test of R3, with log entry 18 for a consumer that is not listed: what the bytes of each record
kind stand for. A record out of range is none, an
undefined flag bit is ignored, and so are the limit of a consumer that is not LIMITABLE or carries none, and the frequency
of a meter without voltage. -/
def Obligations.StationRecordsDecode : Prop :=
  ∀ (p : Part) (n f a b c d : Byte),
    (∀ k : SetNo, n.toNat = k.val + 1 → a.toNat * 256 + b.toNat ≤ 25000 →
      decodeRecord p [1#8, n, f, a, b]
        = some (.set k (f.getLsbD 0) (f.getLsbD 1) (a.toNat * 256 + b.toNat) (f.getLsbD 2)))
    ∧ (n.toNat = 0 ∨ 8 < n.toNat ∨ 25000 < a.toNat * 256 + b.toNat → decodeRecord p [1#8, n, f, a, b] = none)
    ∧ (∀ k : ConsumerNo, n.toNat = k.val + 1 → a.toNat * 256 + b.toNat ≤ 25000 →
      decodeRecord p [2#8, n, f, a, b, c, d] =
        if isLimitable p k = true ∧ f.getLsbD 1 = true then
          if c.toNat * 256 + d.toNat ≤ 20000 then
            some (.consumer k (f.getLsbD 0) (a.toNat * 256 + b.toNat) (some (c.toNat * 256 + d.toNat)))
          else none
        else some (.consumer k (f.getLsbD 0) (a.toNat * 256 + b.toNat) none))
    ∧ (n.toNat = 0 ∨ 48 < n.toNat ∨ 25000 < a.toNat * 256 + b.toNat → decodeRecord p [2#8, n, f, a, b, c, d] = none)
    ∧ (∀ k : SectionNo, n.toNat = k.val + 1 →
      decodeRecord p [3#8, n, f, a, b, c] =
        if f.getLsbD 0 = true then
          if 40000 ≤ a.toNat * 65536 + b.toNat * 256 + c.toNat ∧ a.toNat * 65536 + b.toNat * 256 + c.toNat ≤ 70000 then
            some (.meter k true (some (a.toNat * 65536 + b.toNat * 256 + c.toNat)))
          else none
        else some (.meter k false none))
    ∧ (∀ k : TieNo, n.toNat = k.val + 1 → decodeRecord p [4#8, n, f] = some (.tie k (f.getLsbD 0)))
    ∧ (n.toNat = 0 ∨ 4 < n.toNat → decodeRecord p [3#8, n, f, a, b, c] = none ∧ decodeRecord p [4#8, n, f] = none)
    ∧ (∀ k : ConsumerNo, n.toNat = k.val + 1 → 1 ≤ a.toNat * 256 + b.toNat → a.toNat * 256 + b.toNat ≤ 25000 →
      decodeRecord p [5#8, n, a, b] = some (.heavy k (a.toNat * 256 + b.toNat)))
    ∧ (n.toNat = 0 ∨ 48 < n.toNat ∨ a.toNat * 256 + b.toNat = 0 ∨ 25000 < a.toNat * 256 + b.toNat →
      decodeRecord p [5#8, n, a, b] = none)

/-- R3: a record is tested for its range, for its object being configured and for its station, in that order; the first
test that fails drops it with that test's event and changes nothing else. -/
def Obligations.RecordTests : Prop :=
  ∀ (p : Part) (station : Nat) (bytes : List Byte),
    (decodeRecord p bytes = none → takeRecord station bytes p = occur .fieldFrameError .fieldLine p)
    ∧ ∀ r : StationRecord, decodeRecord p bytes = some r →
      (objectConfigured p r.object = false → takeRecord station bytes p = occur .unknownObject (objectNamed r.object) p)
      ∧ (objectConfigured p r.object = true → objectStation p r.object ≠ station →
        takeRecord station bytes p = occur .stationMismatch (objectNamed r.object) p)
      ∧ (objectConfigured p r.object = true → objectStation p r.object = station →
        takeRecord station bytes p = deliverRecord r p)

/-- R5, R6, R7: freshness after an accepted record, two records qualifying an UNQUALIFIED object and one a STALE object. -/
def Obligations.RecordsQualifyObjects : Prop :=
  (∀ (stale now : Nat) (f : Fresh),
    f.accept stale now =
      match f.state, f.counted with
      | .unqualified, false => { state := .unqualified, counted := true, staleAt := some (now + stale) }
      | .unqualified, true => { state := .qualified, counted := false, staleAt := some (now + stale) }
      | .qualified, _ => { state := .qualified, counted := false, staleAt := some (now + stale) }
      | .stale, _ => { state := .qualified, counted := false, staleAt := some (now + stale) })
  ∧ (∀ (p : Part) (s : SectionNo) (v : Bool) (freq : Option Nat),
    deliverRecord (.meter s v freq) p =
      { p with meterImage := p.meterImage.set s
                 { voltage := v, freq := freq, fresh := p.meterImage[s].fresh.accept 400 p.clock } })

/-- R5, R6, with log entry 4 for the clock: a stale timer that runs out forgets the first record of an UNQUALIFIED object;
a QUALIFIED object, be it a set, a consumer, a section meter or a tie, goes STALE with its values held and OBJECT_STALE
raised, and a set's plan ends (R95). No other record, order, state, selection or timer is changed. A timer that does not run
has no effect. -/
def Obligations.StaleTimerExpires : Prop :=
  ∀ (p : Part) (w : List Instr) (o : ObjectRef), Awake p →
    ((freshOf p o).staleAt = none →
      exec (.staleTimerExpiry o) { part := p, pending := w } = .next { part := kick p, pending := w })
    ∧ ∀ d, (freshOf p o).staleAt = some d →
      ((freshOf p o).state ≠ .qualified →
        exec (.staleTimerExpiry o) { part := p, pending := w } = .next
          { part := kick (onFresh o (fun f => { f with counted := false, staleAt := none }) (at' d p)), pending := w })
      ∧ ((freshOf p o).state = .qualified →
        let stale : Fresh := { state := .stale, counted := false, staleAt := none }
        ∃ q, exec (.staleTimerExpiry o) { part := p, pending := w } = .next { part := kick q, pending := w }
        ∧ Flagged q .objectStale ∧ freshOf q o = stale ∧ (∀ o', o' ≠ o → freshOf q o' = freshOf p o')
        ∧ SameImages (onFresh o (fun _ => stale) p) q
        ∧ q.clock = max p.clock d ∧ SameDesk p q ∧ q.cfg = p.cfg ∧ SameMap p q ∧ SameLine p q ∧ q.fieldTx = p.fieldTx
        ∧ q.urgent = p.urgent ∧ q.normal = p.normal ∧ q.nextOrder = p.nextOrder ∧ q.seq = p.seq ∧ q.share = p.share
        ∧ q.entry = p.entry ∧ q.islands = p.islands ∧ q.inFlight = p.inFlight ∧ q.selection = p.selection
        ∧ (∀ k : SetNo, o = .set k → q.gov[k] =
            if p.gov[k].plan.inProgress = true ∧ p.gov[k].plan.cls ≠ .noPulse then
              { p.gov[k] with
                raise := false
                lower := false
                pulseEnd := none
                plan := { p.gov[k].plan with cutShort := true, inProgress := false } }
            else p.gov[k])
        ∧ (∀ k : SetNo, o ≠ .set k → q.gov[k] = p.gov[k]))

/-- R44, R47, R50, R54 to R60, with log entry 34 for a STARTING set: what an accepted SET STATUS record that changes one of its
flags makes of the set's state in RUN, judged from the values it carries. A breaker that opens outside RAMP_OUT and OPENING is
a SET_LOSS. A set in STOPPING whose STOP has been sent, its stop timer running, is in STANDBY once running is held no, and the
Reserve Unit may start it again; before that it waits. Where the SYNC of a set that has started is not queued, it is BLOCKED
with SYNC_FAIL, and where the STOP of a set whose breaker has opened is not queued, it is BLOCKED with STOP_FAIL, each with
ORDER_QUEUE_FULL. The record is written whole, and nothing is changed but that record and what the units and the order
queues hold. -/
def Obligations.SetRecordMovesSet : Prop :=
  ∀ (p : Part) (k : SetNo) (running closed : Bool) (kw : Nat) (trip : Bool) (st : SetState), Running p →
    setConfigured p k = true → p.seq[k].state = some st →
    (p.setImage[k].running ≠ running ∨ p.setImage[k].closed ≠ closed ∨ p.setImage[k].trip ≠ trip) →
    let full := 32 ≤ p.normal.length ∧ queuedFor p (.set k) = none
    ∃ q, q = deliverRecord (.set k running closed kw trip) p
      ∧ q.setImage = p.setImage.set k
          { running := running, closed := closed, kw := kw, trip := trip,
            fresh := p.setImage[k].fresh.accept 400 p.clock }
      ∧ SameDesk p q ∧ q.cfg = p.cfg ∧ q.clock = p.clock ∧ SameMap p q ∧ SameLine p q
      ∧ q.consumerImage = p.consumerImage ∧ q.meterImage = p.meterImage ∧ q.tieImage = p.tieImage
      ∧ (∀ j : SetNo, j ≠ k → Settled p.seq[j] → p.seq[j].state ≠ some .synchronising → q.seq[j] = p.seq[j])
      ∧ (p.setImage[k].closed = true → closed = false → st ≠ .rampOut → st ≠ .opening → Flagged q .setLoss)
      ∧ (match st with
        | .synchronising =>
          (closed = true → q.seq[k].state = some .rampIn ∧ q.seq[k].timer = none ∧ q.seq[k].deadBusSent = none)
          ∧ (closed = false → trip = true → q.seq[k].state = some .tripped)
        | .starting =>
          (running = true → closed = false → trip = false → p.setImage[k].closed = false → Room p →
            q.seq[k].state = some .synchronising)
          ∧ (running = true → closed = false → trip = false → p.setImage[k].closed = false → full →
            q.seq[k].state = some .blocked ∧ q.seq[k].timer = none ∧ Flagged q .syncFail ∧ Flagged q .orderQueueFull)
          ∧ (closed = true → q.seq[k].state = some .rampIn)
          ∧ (closed = false → trip = true → q.seq[k].state = some .tripped)
        | .rampIn | .onBus | .rampOut =>
          closed = false → q.seq[k].state = some .tripped ∧ q.seq[k].timer = none ∧ q.seq[k].origin = none
        | .opening =>
          (closed = false → trip = false → Room p → q.seq[k].state = some .stopping)
          ∧ (closed = false → trip = false → full →
            q.seq[k].state = some .blocked ∧ q.seq[k].timer = none ∧ Flagged q .stopFail ∧ Flagged q .orderQueueFull)
          ∧ (closed = false → trip = true → q.seq[k].state = some .tripped)
          ∧ (closed = true → q.seq[k] = p.seq[k])
        | .standby =>
          (closed = true → q.seq[k].state = some .rampIn)
          ∧ (closed = false → trip = true → q.seq[k].state = some .tripped)
          ∧ (closed = false → trip = false → running = true → q.seq[k].state = some .blocked)
        | .stopping =>
          (closed = true → q.seq[k].state = some .rampIn)
          ∧ (closed = false → trip = true → q.seq[k].state = some .tripped)
          ∧ (closed = false → trip = false → running = false → (∃ d, p.seq[k].timer = some (.stop, d)) →
            (q.seq[k].state = some .standby ∨ q.seq[k].state = some .starting) ∧ q.seq[k].timer = none
            ∧ q.seq[k].origin = none)
          ∧ (closed = false → trip = false → running = true ∨ (∀ d, p.seq[k].timer ≠ some (.stop, d)) →
            q.seq[k] = p.seq[k])
        | .blocked =>
          (closed = true → q.seq[k].state = some .rampIn)
          ∧ (closed = false → trip = true → q.seq[k].state = some .tripped)
        | .tripped => closed = true → q.seq[k].state = some .rampIn
        | .localRun => q.seq[k] = p.seq[k])

/-- R14, R15, R57, R66, R92, R97, R112, R119, R129, R143, R146, R153, with log entries 10 (the first share period), 42 (a
limit above 20,000 kW) and 60 (whose period made a plan): the breaker of a set opens or closes and its island's marking is
judged. Where the island stays LIVE and the part has not led the breaker there, the set's last selection is executed: every
consumer of it that is still CONNECTED in the island is put in SHED_PENDING with cause CONTINGENCY and the relief its order
gives, its order is handed over, and SET_LOSS and FAST_SHED are raised. Where the last breaker opens, the island is DEAD,
with DEAD_ISLAND: its share periods, targets and saturation flags end; every plan that its running period has made is cut
short, with both lines inactive, whatever island its set's section now lies in, and a NONE plan that another island's period
has made runs on; restoration and shed sequence are IDLE; every CONNECTED entry that is not protected is shed whole with
cause DEAD_BUS; selections are discarded; the heavy queue is denied, and the grants released; and the start choice is
started at once, without confirmation, or, with none, a start is confirmed and RESERVE_LOW raised. Where the first breaker
closes, the island is LIVE: a share period is due at once, the reserve-low flag is cleared, the table is rebuilt, and the
restore pacer retriggered. -/
def Obligations.SetLossShedsSelection : Prop :=
  (∀ (p : Part) (k j : SetNo) (i : IslandNo) (running : Bool) (kw : Nat) (trip : Bool) (st : SetState) (sel : Selection),
    Running p → p.seq[k].state = some st → st ≠ .rampOut → st ≠ .opening → onIslandBus p i k = true →
    j ≠ k → onIslandBus p i j = true → p.islands[i].isSome = true →
    p.selection[k].last = some sel → (sel.actions.map ShedAction.consumer).Nodup →
    ∃ q, q = deliverRecord (.set k running false kw trip) p ∧ Flagged q .setLoss
      ∧ ∀ a ∈ sel.actions, ∀ e, entryCfg p a.consumer = some e → entryInIsland p i e = true →
        p.entry[a.consumer].state = some .connected →
        q.entry[a.consumer].state = some .shedPending ∧ q.entry[a.consumer].cause = some .contingency
        ∧ q.entry[a.consumer].relief =
          (match a.means with
            | .trip => offeredKw p e
            | .limit kw => p.consumerImage[a.consumer].kw - min 20000 kw)
        ∧ Raised p q (.consumer a.consumer a.means.order) ∧ Flagged q .fastShed)
  ∧ (∀ (p : Part) (k : SetNo) (i : IslandNo) (running : Bool) (kw : Nat) (trip : Bool) (st : SetState),
    Running p → p.cfg.fits → p.seq[k].state = some st → onIslandBus p i k = true →
    (∀ j, j ≠ k → onIslandBus p i j = false) → p.islands[i].isSome = true →
    ∃ q, q = deliverRecord (.set k running false kw trip) p ∧ Flagged q .deadIsland
      ∧ (island q i).nextPeriod = none
      ∧ (∀ j, setConfigured p j = true → islandOf p p.cfg.sets[j].sect = some i →
        q.share[j] = { ramp := none, target := none, pminTime := none } ∧ q.gov[j].saturation = false
        ∧ q.selection[j].last = none)
      ∧ (∀ j : SetNo, p.gov[j].plan.inProgress = true →
        (p.gov[j].madeBy = some i → p.gov[j].plan.origin = (island p i).periodAt →
          q.gov[j].plan.inProgress = false ∧ q.gov[j].plan.cutShort = true
          ∧ q.gov[j].raise = false ∧ q.gov[j].lower = false)
        ∧ (p.gov[j].madeBy ≠ some i → p.gov[j].plan.cls = .noPulse → q.gov[j].plan = p.gov[j].plan))
      ∧ (island q i).shed = ShedContext.fresh ∧ (island q i).restore = RestoreContext.fresh ∧ SameHistory p q
      ∧ (∀ e ∈ p.cfg.shedList, entryInIsland p i e = true → p.entry[e.consumer].state = some .connected →
        e.guarded = false →
        q.entry[e.consumer].state = some .shedPending ∧ q.entry[e.consumer].cause = some .deadBus
        ∧ q.entry[e.consumer].relief = offeredKw p e
        ∧ Raised p q (.consumer e.consumer (match e.kind with | .breaker => .trip | .limitable => .limit e.floor)))
      ∧ (island q i).reserve.queue = [] ∧ (island q i).reserve.grants = []
      ∧ ((island p i).reserve.queue ≠ [] → Flagged q .heavyDeny)
      ∧ (st = .rampIn ∨ st = .onBus ∨ st = .rampOut → (∀ j, j ≠ k → p.inFlight[j] = false) →
        (∀ j, startChoice p i = some j → setConfigured p j = true →
          p.normal.length + (island p i).reserve.queue.length ≤ 16 →
          q.seq[j].state = some .starting ∧ Raised p q (.set j .start)
          ∧ (island q i).reserve.state = .startInFlight ∧ (island q i).reserve.timer = none)
        ∧ (startChoice p i = none →
          (island q i).reserve.state = .startConfirm ∧ (island q i).reserve.low = true
          ∧ (island q i).reserve.timer = some (p.clock + p.cfg.plant.startConfirm * 1000)
          ∧ ((island p i).reserve.low = false → Flagged q .reserveLow))))
  ∧ (∀ (p : Part) (k : SetNo) (i : IslandNo) (running : Bool) (kw : Nat) (trip : Bool),
    Running p → setConfigured p k = true → islandOf p p.cfg.sets[k].sect = some i →
    (∀ j, onIslandBus p i j = false) → p.islands[i].isSome = true →
    ∃ q, q = deliverRecord (.set k running true kw trip) p
      ∧ (island q i).nextPeriod = some p.clock ∧ (island q i).reserve.low = false
      ∧ (island q i).rebuiltAt = some p.clock ∧ SameHistory p q ∧ q.entry = p.entry
      ∧ ((island p i).restore.state ≠ .stepWait → (island p i).history ≠ [] →
        (island q i).restore.state = .delay
        ∧ (island q i).restore.timer = some (p.clock + p.cfg.plant.restoreDelay * 1000)))

/-- R36, R38, R117, R127, R144, R145, R156, R157, R161, with log entry 39 for the order of the two units: an accepted CONSUMER
STATUS record. One that shows the ordered state of an order awaiting feedback stops its timer: a shed order's entry is SHED,
with a record on top of the island's history, and a LIMIT is confirmed by an opened breaker too; a restore order's entry is
CONNECTED with RESTORED and its record gone. One that answers no order moves the entry between CONNECTED and OPEN_EXTERNAL as
the breaker moves, and a SHED or RESTORE_PENDING entry that is reported restored is CONNECTED with its record gone and its
queued restore order withdrawn. A changed measured kW of at least half the granted kW releases the consumer's grant, and no
other record does. -/
def Obligations.ConsumerRecordAnswers : Prop :=
  ∀ (p : Part) (c : ConsumerNo) (e : EntryConfig) (i : IslandNo) (closed : Bool) (kw : Nat) (limit : Option Nat),
    Running p → entryCfg p c = some e → entryIsland p c = some i → p.islands[i].isSome = true →
    let became (st : EntryState) (q : Part) : Prop :=
      q.entry = p.entry.set c
        { state := some st, tripFailed := if st = .connected then p.entry[c].tripFailed else false,
          restoreFailed := if st = .connected then false else p.entry[c].restoreFailed, relief := 0, cause := none }
    let restored : Prop := closed = true ∧ (e.kind = .limitable → limit = none)
    let moved : Prop := p.consumerImage[c].closed ≠ closed ∨ p.consumerImage[c].limit ≠ limit
    ∃ q, q = deliverRecord (.consumer c closed kw limit) p
      ∧ q.consumerImage = p.consumerImage.set c
          { closed := closed, kw := kw, limit := limit, fresh := p.consumerImage[c].fresh.accept 2000 p.clock }
      ∧ SameDesk p q ∧ q.cfg = p.cfg ∧ q.clock = p.clock ∧ SameMap p q
      ∧ q.setImage = p.setImage ∧ q.meterImage = p.meterImage ∧ q.tieImage = p.tieImage
      ∧ (∀ (f : Feedback) (a : ConsumerOrder) (cause : ShedCause), p.feedback[c] = some f →
          f.order.body = .consumer c a →
          (a = .trip ∧ closed = false ∨ ∃ l, a = .limit l ∧ (closed = false ∨ ∃ l', limit = some l' ∧ l' ≤ l)) →
          p.entry[c].state = some .shedPending → p.entry[c].cause = some cause →
          q.feedback = p.feedback.set c none ∧ became .shed q
          ∧ (island q i).history
              = { consumer := c, time := p.clock, cause := cause, offered := p.entry[c].relief } :: (island p i).history)
      ∧ (∀ (f : Feedback) (a : ConsumerOrder), p.feedback[c] = some f → f.order.body = .consumer c a →
          (a = .close ∨ a = .release ∧ limit = none) → closed = true → p.entry[c].state = some .restorePending →
          q.feedback = p.feedback.set c none ∧ became .connected q ∧ RecordGone p q c ∧ Flagged q .restored)
      ∧ (p.feedback[c] = none → p.entry[c].state = some .connected → p.consumerImage[c].closed = true →
          closed = false → became .openExternal q ∧ SameHistory p q)
      ∧ (p.feedback[c] = none → p.entry[c].state = some .openExternal → p.consumerImage[c].closed = false →
          closed = true → became .connected q ∧ SameHistory p q)
      ∧ (p.feedback[c] = none → p.entry[c].state = some .shed ∨ p.entry[c].state = some .restorePending → moved →
          restored → became .connected q ∧ RecordGone p q c
          ∧ ∀ o, p.entry[c].state = some .restorePending → queuedFor p (.consumer c) = some o →
            o.body = .consumer c .close ∨ o.body = .consumer c .release → queuedFor q (.consumer c) = none)
      ∧ (p.feedback[c] = none →
          p.entry[c].state = some .shedPending
            ∨ ((p.entry[c].state = some .shed ∨ p.entry[c].state = some .restorePending) ∧ ¬(moved ∧ restored)) →
          q.entry = p.entry ∧ SameHistory p q)
      ∧ (∀ (j : IslandNo) (g : HeavyGrant), grantIsland p c = some j → grantOf p c = some g →
          (p.consumerImage[c].kw ≠ kw → g.kw ≤ 2 * kw →
            (island q j).reserve.grants = (island p j).reserve.grants.filter fun x => x.consumer != c)
          ∧ (p.consumerImage[c].kw = kw ∨ 2 * kw < g.kw →
            ∀ j' : IslandNo, (island q j').reserve.grants = (island p j').reserve.grants))

/-- R114: a HEAVY REQUEST. It is denied where the phase is ACQUIRE or the entry is not ask-before-start, and where it is
not queued already and the island is DEAD or its queue full. Otherwise it takes its place: behind the queue with its time
of arrival, or in the place of the consumer's request that is there; the head of the queue has a deadline and no other
request has one (R116). A DENY is queued, or taken for the line at once where it is the one order and the transmitter is idle
(R32). -/
def Obligations.HeavyRequestIsQueuedOrDenied : Prop :=
  ∀ (p : Part) (c : ConsumerNo) (kw : Nat), Awake p →
    (p.phase = .acquire ∨ entryIsland p c = none ∨ (∀ e, entryCfg p c = some e → e.askFirst = false) →
      deliverRecord (.heavy c kw) p = deny c p)
    ∧ (objectConfigured p (.consumer c) = true → queuedFor p (.consumer c) = none → Room p →
      let o : Order := { serial := p.nextOrder, body := .consumer c .deny, urgent := false }
      (p.phase = .acquire ∨ p.fieldTx.isSome = true ∨ p.urgent ≠ [] ∨ p.normal ≠ [] →
        deny c p = occur .heavyDeny (.consumer c) { p with normal := p.normal ++ [o], nextOrder := p.nextOrder + 1 })
      ∧ (p.phase = .run → p.fieldTx = none → p.urgent = [] → p.normal = [] →
        deny c p = occur .heavyDeny (.consumer c)
          { p with
            nextOrder := p.nextOrder + 1
            fieldTx := some { order := o, station := objectStation p (.consumer c),
                              frame := orderFrame (objectStation p (.consumer c)) o.body, withdrawn := false } }))
    ∧ ∀ (e : EntryConfig) (i : IslandNo), p.phase = .run → entryCfg p c = some e → e.askFirst = true →
      entryIsland p c = some i → p.islands[i].isSome = true →
      ((∀ q ∈ (island p i).reserve.queue, q.consumer ≠ c) →
        islandLive p i = false ∨ 8 ≤ (island p i).reserve.queue.length → grantOf p c = none →
        deliverRecord (.heavy c kw) p = deny c p)
      ∧ ((∀ q ∈ (island p i).reserve.queue, q.consumer ≠ c) → islandLive p i = true →
        (island p i).reserve.queue.length < 8 →
        SameAside p (deliverRecord (.heavy c kw) p)
        ∧ (island (deliverRecord (.heavy c kw) p) i).reserve.queue = headed (p.clock + p.cfg.plant.heavyExpiry * 1000)
            ((island p i).reserve.queue ++ [{ consumer := c, kw := kw, arrival := p.clock, deadline := none }]))
      ∧ ((∃ q ∈ (island p i).reserve.queue, q.consumer = c) →
        SameAside p (deliverRecord (.heavy c kw) p)
        ∧ (island (deliverRecord (.heavy c kw) p) i).reserve.queue = headed (p.clock + p.cfg.plant.heavyExpiry * 1000)
            ((island p i).reserve.queue.map fun q => if q.consumer = c then { q with kw := kw } else q))

/-- R23, R24, R164, with log entry 7: a hunting receiver takes no notice of a byte that is not its start mark; a receiver
collects the bytes of a good frame before its last one. The bytes of a whole frame, arriving one after another at a hunting
receiver of a part that has nothing left to choose, do what the whole frame does. -/
def Obligations.BytesMakeFrames : Prop :=
  ∀ (p : Part) (w : List Instr), Awake p →
    (∀ b : Byte, p.fieldRx.buf = [] →
      exec (.fieldByteReceived b) { part := p, pending := w } = .next
        { part := kick { p with fieldRx := { buf := if b = 165#8 then [165#8] else [], lastAt := p.clock } }, pending := w })
    ∧ (∀ b : Byte, p.supRx.buf = [] →
      exec (.supervisorByteReceived b) { part := p, pending := w } = .next
        { part := kick { p with supRx := { buf := if b = 90#8 then [90#8] else [], lastAt := p.clock } }, pending := w })
    ∧ (∀ (taken rest : List Byte) (b : Byte), rest ≠ [] →
      (fieldHeaderGood (taken ++ b :: rest) = true → p.fieldRx.buf = taken →
        exec (.fieldByteReceived b) { part := p, pending := w } = .next
          { part := kick { p with fieldRx := { buf := taken ++ [b], lastAt := p.clock } }, pending := w })
      ∧ (supervisorHeaderGood (taken ++ b :: rest) = true → p.supRx.buf = taken →
        exec (.supervisorByteReceived b) { part := p, pending := w } = .next
          { part := kick { p with supRx := { buf := taken ++ [b], lastAt := p.clock } }, pending := w }))
    ∧ (kick p = p → ∀ frame : List Byte,
      (p.fieldRx.buf = [] → fieldHeaderGood frame = true →
        runs (frame.map .fieldByteReceived) { part := p, pending := w }
          = runs [.fieldFrameReceived frame] { part := p, pending := w })
      ∧ (p.supRx.buf = [] → supervisorHeaderGood frame = true →
        runs (frame.map .supervisorByteReceived) { part := p, pending := w }
          = runs [.supervisorFrameReceived frame] { part := p, pending := w }))

/-- R24, R164: a frame whose station address, length or length check fails is dropped as that byte arrives, and the bytes
behind its start mark are hunted through again: a second start mark among them begins a frame, which may fail in its turn.
With log entry 7, the bytes come to a hunting receiver, a partial frame before them going without an event. R23, R164, with
log entry 22 for the time: a gap within a partial frame drops it, and a hunting receiver takes no notice of
one. Each dropped field frame raises FIELD_FRAME_ERROR; a supervisor frame goes with no event and no reply. -/
def Obligations.ReceiversDropBadFrames : Prop :=
  (∀ (p : Part) (w : List Instr) (a l c : Byte), Awake p →
      (a.toNat = 0 ∨ 62 < a.toNat →
        exec (.fieldFrameHeaderReject [165#8, a]) { part := p, pending := w } = .next
          { part := kick
              { occur .fieldFrameError .fieldLine p with
                fieldRx := { buf := if a = 165#8 then [165#8] else [], lastAt := p.clock } }
            pending := w })
      ∧ (1 ≤ a.toNat → a.toNat ≤ 62 →
        (l.toNat = 0 ∨ 240 < l.toNat →
          exec (.fieldFrameHeaderReject [165#8, a, l]) { part := p, pending := w } = .next
            { part := kick { occur .fieldFrameError .fieldLine p with fieldRx := { buf := [], lastAt := p.clock } }
              pending := w })
        ∧ (1 ≤ l.toNat → l.toNat ≤ 240 → c.toNat ≠ 255 - l.toNat →
          exec (.fieldFrameHeaderReject [165#8, a, l, c]) { part := p, pending := w } = .next
            { part :=
                if l = 165#8 then
                  if 1 ≤ c.toNat ∧ c.toNat ≤ 62 then
                    kick { occur .fieldFrameError .fieldLine p with fieldRx := { buf := [165#8, c], lastAt := p.clock } }
                  else
                    kick { occur .fieldFrameError .fieldLine (occur .fieldFrameError .fieldLine p) with
                           fieldRx := { buf := if c = 165#8 then [165#8] else [], lastAt := p.clock } }
                else
                  kick { occur .fieldFrameError .fieldLine p with
                         fieldRx := { buf := if c = 165#8 then [165#8] else [], lastAt := p.clock } }
              pending := w })))
  ∧ (∀ (p : Part) (w : List Instr) (l c : Byte), Awake p →
      (l.toNat < 2 ∨ 250 < l.toNat →
        exec (.supervisorHeaderReject [90#8, l]) { part := p, pending := w } = .next
          { part := kick { p with supRx := { buf := [], lastAt := p.clock } }, pending := w })
      ∧ (2 ≤ l.toNat → l.toNat ≤ 250 → c.toNat ≠ 255 - l.toNat →
        exec (.supervisorHeaderReject [90#8, l, c]) { part := p, pending := w } = .next
          { part := kick
              { p with
                supRx :=
                  { buf :=
                      if l = 90#8 then if 2 ≤ c.toNat ∧ c.toNat ≤ 250 then [90#8, c] else []
                      else if c = 90#8 then [90#8] else []
                    lastAt := p.clock } }
            pending := w }))
  ∧ (∀ (p : Part) (w : List Instr), Awake p →
      (p.fieldRx.buf = [] → exec .fieldFrameGapTimeout { part := p, pending := w } = .next { part := kick p, pending := w })
      ∧ (p.fieldRx.buf ≠ [] → exec .fieldFrameGapTimeout { part := p, pending := w } = .next
        { part := kick (occur .fieldFrameError .fieldLine
            { at' (p.fieldRx.lastAt + 2) p with fieldRx := { buf := [], lastAt := max p.clock (p.fieldRx.lastAt + 2) } })
          pending := w })
      ∧ (p.supRx.buf = [] → exec .supervisorGapTimeout { part := p, pending := w } = .next { part := kick p, pending := w })
      ∧ (p.supRx.buf ≠ [] → exec .supervisorGapTimeout { part := p, pending := w } = .next
        { part := kick
            { at' (p.supRx.lastAt + 20) p with supRx := { buf := [], lastAt := max p.clock (p.supRx.lastAt + 20) } }
          pending := w }))

/-! ### Orders on the line -/

/-- R31, R33, R35, R117, with log entry 4 where no frame is being sent: a consumer's order has been sent. TRIP, LIMIT and CLOSE
begin to await feedback, for 500, 500 and 1,000 ms, and an earlier order still awaiting it is handed back as superseded; a
GRANT starts the hold deadline of its grant; a DENY is over. An order whose object became unconfigured in the meantime is
handed back as withdrawn: its frame ends and no timer starts. Where no frame is being sent the command has no effect. -/
def Obligations.ConsumerOrderSent : Prop :=
  ∀ (p : Part) (w : List Instr), Awake p →
    (p.fieldTx = none → exec .orderFrameSent { part := p, pending := w } = .next { part := kick p, pending := w })
    ∧ (∀ (tx : OrderInTransmission) (c : ConsumerNo) (a : ConsumerOrder), p.fieldTx = some tx → tx.withdrawn = false →
      tx.order.body = .consumer c a →
      let awaiting (ms : Nat) : Vector (Option Feedback) 48 :=
        p.feedback.set c (some { order := tx.order, deadline := p.clock + ms })
      let awaited (ms : Nat) : Prop :=
        (p.feedback[c] = none →
          exec .orderFrameSent { part := p, pending := w } = .next
            { part := kick { p with fieldTx := none, feedback := awaiting ms }, pending := w })
        ∧ (∀ (f : Feedback) (b : ConsumerOrder), p.feedback[c] = some f → f.order.body = .consumer c b →
          ∃ q, exec .orderFrameSent { part := p, pending := w } = .next { part := kick q, pending := w }
            ∧ q.feedback = awaiting ms ∧ q.fieldTx = none ∧ HandedBack p q c b
            ∧ SameDesk p q ∧ q.cfg = p.cfg ∧ q.clock = p.clock ∧ SameMap p q ∧ SameImages p q ∧ q.seq = p.seq
            ∧ q.urgent = p.urgent ∧ q.normal = p.normal)
      (a = .trip ∨ a = .release ∨ (∃ kw, a = .limit kw) → awaited 500)
      ∧ (a = .close → awaited 1000)
      ∧ (a = .deny →
        exec .orderFrameSent { part := p, pending := w } = .next { part := kick { p with fieldTx := none }, pending := w })
      ∧ (a = .grant →
        exec .orderFrameSent { part := p, pending := w } = .next
          { part := kick
              { p with
                fieldTx := none
                islands := p.islands.map (Option.map fun r =>
                  { r with
                    reserve :=
                      { r.reserve with
                        grants := r.reserve.grants.map fun g =>
                          if g.consumer = c ∧ g.serial = tx.order.serial then
                            { g with hold := some (p.clock + p.cfg.plant.heavyHold * 1000) }
                          else g } }) }
            pending := w }))
    ∧ (∀ tx : OrderInTransmission, p.fieldTx = some tx → tx.withdrawn = true →
      ∃ q, exec .orderFrameSent { part := p, pending := w } = .next { part := kick q, pending := w }
        ∧ q.fieldTx = none ∧ q.feedback = p.feedback ∧ q.urgent = p.urgent ∧ q.normal = p.normal ∧ q.seq = p.seq
        ∧ SameDesk p q ∧ q.cfg = p.cfg ∧ q.clock = p.clock ∧ SameMap p q ∧ SameImages p q ∧ SameHistory p q
        ∧ ((∀ c, tx.order.body.object = .consumer c → p.entry[c].state ≠ some .restorePending) → q.entry = p.entry))

/-- R46, R49, R54, R55: a set's order has been sent, and the set timer of the state it belongs to starts: the start time
for START, 60 s for SYNC, 2 s for OPEN, 180 s for STOP. A set's record shows the order as sent (R56). A STOPPING set whose
running is already held no as its STOP is sent is STANDBY at once, from which the Reserve Unit may start it again, or TRIPPED
where its trip is held with the breaker open (R55, R59). -/
def Obligations.SetOrderSent : Prop :=
  ∀ (p : Part) (w : List Instr) (tx : OrderInTransmission) (k : SetNo) (a : SetOrder), Awake p →
    p.fieldTx = some tx → tx.withdrawn = false → tx.order.body = .set k a →
    let sent (timer : Option (SetTimer × Nat)) : Host.Outcome State Fault Refusal :=
      .next
        { part := kick
            { p with
              fieldTx := none
              seq := p.seq.set k { p.seq[k] with timer := timer, lastOutcome := some (a, .sent) } }
          pending := w }
    (a = .start → p.seq[k].state = some .starting →
      exec .orderFrameSent { part := p, pending := w }
        = sent (some (.start, p.clock + p.cfg.sets[k].startTime * 1000)))
    ∧ ((∃ b, a = .sync b) → p.seq[k].state = some .synchronising → p.seq[k].stayFrom ≤ tx.order.serial →
      (∀ d, p.seq[k].timer ≠ some (.sync, d)) →
      exec .orderFrameSent { part := p, pending := w } = sent (some (.sync, p.clock + 60000)))
    ∧ (a = .openBreaker → p.seq[k].state = some .opening →
      exec .orderFrameSent { part := p, pending := w } = sent (some (.openBreaker, p.clock + 2000)))
    ∧ (a = .stop → p.seq[k].state = some .stopping → p.seq[k].stayFrom ≤ tx.order.serial →
      p.setImage[k].running = true → (p.setImage[k].trip = false ∨ p.setImage[k].closed = true) →
      exec .orderFrameSent { part := p, pending := w } = sent (some (.stop, p.clock + 180000)))
    ∧ (a = .stop → p.seq[k].state = some .stopping → p.seq[k].stayFrom ≤ tx.order.serial →
      p.setImage[k].running = false →
      ∃ q, exec .orderFrameSent { part := p, pending := w } = .next { part := kick q, pending := w }
        ∧ SameAside { p with fieldTx := none } q ∧ SameOthers p q k ∧ q.seq[k].timer = none ∧ q.seq[k].origin = none
        ∧ (p.setImage[k].trip = true ∧ p.setImage[k].closed = false → q.seq[k].state = some .tripped)
        ∧ (p.setImage[k].trip = false ∨ p.setImage[k].closed = true →
          q.seq[k].state = some .standby ∨ q.seq[k].state = some .starting))
    ∧ (p.seq[k].state = some .blocked ∨ p.seq[k].state = some .tripped ∨ p.seq[k].state = some .standby →
      exec .orderFrameSent { part := p, pending := w } = sent p.seq[k].timer)

/-- R37, R144, R161, with log entry 4 for the clock: a feedback timer runs out. A shed order's entry goes back to CONNECTED
with trip-failed set where its breaker is held closed, else to OPEN_EXTERNAL, with TRIP_FAIL; a restore order's entry
goes back to SHED with restore-failed set, with RESTORE_FAIL. No other entry, no history record and no object record is
changed. -/
def Obligations.FeedbackTimesOut : Prop :=
  ∀ (p : Part) (w : List Instr) (c : ConsumerNo), Awake p →
    (p.feedback[c] = none →
      exec (.feedbackTimeout c) { part := p, pending := w } = .next { part := kick p, pending := w })
    ∧ ∀ (f : Feedback) (a : ConsumerOrder), p.feedback[c] = some f → f.order.body = .consumer c a →
      ∃ q, exec (.feedbackTimeout c) { part := p, pending := w } = .next { part := kick q, pending := w }
        ∧ q.clock = max p.clock f.deadline ∧ q.feedback = p.feedback.set c none ∧ HandedBack p q c a
        ∧ SameDesk p q ∧ q.cfg = p.cfg ∧ SameMap p q ∧ SameImages p q ∧ q.seq = p.seq
        ∧ q.share = p.share ∧ q.gov = p.gov ∧ q.fieldTx = p.fieldTx ∧ q.urgent = p.urgent ∧ q.normal = p.normal

/-- R46, R49, R54, R55, with log entry 4 for the clock: a set timer runs out. The first start time over makes the set slow
with START_SLOW and a second start time; the second is START_FAIL, BLOCKED and a STOP; the sync timer is SYNC_FAIL, BLOCKED
and a STOP; the open timer is OPEN_FAIL and ON_BUS; the stop timer is STOP_FAIL and BLOCKED. -/
def Obligations.SetTimersRunOut : Prop :=
  ∀ (p : Part) (w : List Instr) (k : SetNo) (d : Nat), Awake p →
    let ends (c : Instr) (st : SetState) (e : EventKind) (stop : Bool) : Prop :=
      ∃ q, exec c { part := p, pending := w } = .next { part := kick q, pending := w }
        ∧ q.seq[k].state = some st ∧ q.seq[k].timer = none ∧ Flagged q e ∧ SameAside (at' d p) q ∧ SameOthers p q k
        ∧ (stop = true → setConfigured p k = true → Room p → Raised p q (.set k .stop))
    (p.seq[k].state = some .starting → p.seq[k].timer = some (.start, d) → p.seq[k].slow = false →
      exec (.startTimerExpiry k) { part := p, pending := w } = .next
        { part := kick (occur .startSlow (.set k)
            { at' d p with
              seq := p.seq.set k
                { p.seq[k] with
                  slow := true
                  timer := some (.start, max p.clock d + p.cfg.sets[k].startTime * 1000) } })
          pending := w })
    ∧ (p.seq[k].state = some .starting → p.seq[k].timer = some (.start, d) → p.seq[k].slow = true →
      ends (.startTimerExpiry k) .blocked .startFail true)
    ∧ (p.seq[k].state = some .synchronising → p.seq[k].timer = some (.sync, d) →
      ends (.syncTimerExpiry k) .blocked .syncFail true)
    ∧ (p.seq[k].state = some .opening → p.seq[k].timer = some (.openBreaker, d) →
      ends (.openTimerExpiry k) .onBus .openFail false)
    ∧ (p.seq[k].state = some .stopping → p.seq[k].timer = some (.stop, d) →
      ends (.stopTimerExpiry k) .blocked .stopFail false)
    ∧ (p.seq[k].timer = none → ∀ c ∈ [Instr.startTimerExpiry k, .syncTimerExpiry k, .openTimerExpiry k, .stopTimerExpiry k],
      exec c { part := p, pending := w } = .next { part := kick p, pending := w })

/-! ### Sharing and the governor lines -/

/-- R68: the island figures are these sums over the held values, H being the sum of the held grants (R117). -/
def Obligations.FiguresAreSums : Prop :=
  ∀ (p : Part) (i : IslandNo),
    let bus (k : SetNo) : Bool :=
      setConfigured p k && decide (islandOf p p.cfg.sets[k].sect = some i) && p.setImage[k].closed
    let leaving (k : SetNo) : Bool :=
      decide (p.seq[k].state = some .rampOut) || decide (p.seq[k].state = some .opening)
    let f := figuresOf p i
    f.load = ∑ k : SetNo, (if bus k = true then (p.setImage[k].kw : Int) else 0)
    ∧ f.capacity = ∑ k : SetNo, (if bus k = true ∧ leaving k = false then (p.cfg.sets[k].rated : Int) else 0)
    ∧ f.heavy = (((island p i).reserve.grants.map HeavyGrant.kw).sum : Nat)
    ∧ f.projected = f.load - (((p.cfg.shedList.filter fun e =>
        decide (1 ≤ e.station ∧ e.station ≤ 62 ∧ islandOf p e.sect = some i
          ∧ p.entry[e.consumer].state = some .shedPending)).map fun e => p.entry[e.consumer].relief).sum : Nat)
    ∧ f.spare = f.capacity - f.projected - f.heavy

/-- R72 to R76: the division of a remainder among sharing sets with positive weights and low ends not above their high
ends. Every set has one target, within its bounds; targets and residual make up the remainder; and there is a residual
only where the remainder lies outside the sum of the bounds, every set then standing at the same end of its bounds. -/
def Obligations.DivisionTakesTheRemainder : Prop :=
  ∀ (items : List ShareItem) (s : Int), (items.map ShareItem.set).Nodup →
    (∀ a ∈ items, 0 < a.weight ∧ 0 ≤ a.lo ∧ a.lo ≤ a.hi) → 0 ≤ s →
    let r := divideRemainder items s
    (r.targets.map Prod.fst).Perm (items.map ShareItem.set)
    ∧ (r.targets.map Prod.snd).sum + r.residual = s
    ∧ (∀ a ∈ items, ∀ t, (a.set, t) ∈ r.targets → a.lo ≤ t ∧ t ≤ a.hi)
    ∧ ((items.map ShareItem.lo).sum ≤ s → s ≤ (items.map ShareItem.hi).sum → r.residual = 0)
    ∧ (0 < r.residual → ∀ a ∈ items, (a.set, a.hi) ∈ r.targets)
    ∧ (r.residual < 0 → ∀ a ∈ items, (a.set, a.lo) ∈ r.targets)

/-- R67, R69, R70, R76, R77, with log entry 26 for a breaker-closed set in a state that R69 does not list: what a share
period records, for a configuration in its ranges (R41). Every set of the bus is a sharing set, or makes a fixed
contribution: its measured kW, its ramp value, or F. The remainder is the load less the fixed contributions, never below 0;
the share targets of the sharing sets and the share residual make up the remainder; each target lies between the set's Pmin
and R; a residual that is not 0 finds every sharing set at one of its bounds. The target of any other set of the island is F
in FIXED mode on the bus, the ramp value while it ramps, and else none. The figures are those standing as the period begins,
and the next period is due 200 ms later (R66). -/
def Obligations.PeriodSharesTheRemainder : Prop :=
  ∀ (p : Part) (i : IslandNo), p.cfg.fits → p.islands[i].isSome = true →
    let c := computePeriod i p
    let sharing := (c.2.roles.filter fun r => r.2 == .sharing).map Prod.fst
    let ramp (k : SetNo) : Nat := c.1.share[k].ramp.getD p.setImage[k].kw
    let fixed (k : SetNo) : Option Nat := fixedContribution p k (decide (k ∈ c.2.done)) (ramp k)
    c.2.figures = figuresOf p i ∧ (island c.1 i).figures = some (figuresOf p i)
    ∧ (island c.1 i).periodAt = some p.clock ∧ (island c.1 i).nextPeriod = some (p.clock + 200)
    ∧ SameAside p c.1 ∧ c.1.seq = p.seq ∧ c.1.gov = p.gov ∧ c.1.entry = p.entry
    ∧ (∀ k, k ∈ sharing ↔ onIslandBus p i k = true ∧ fixed k = none)
    ∧ (∃ fixedSum s residual : Int,
      (island c.1 i).pFixed = some fixedSum ∧ (island c.1 i).remainder = some s
      ∧ (island c.1 i).residual = some residual
      ∧ fixedSum = ∑ k : SetNo, (if onIslandBus p i k = true then ((fixed k).getD 0 : Int) else 0)
      ∧ s = max 0 ((figuresOf p i).load - fixedSum)
      ∧ (sharing.map fun k => ((c.1.share[k].target.getD 0 : Nat) : Int)).sum + residual = s
      ∧ (∀ k ∈ sharing, ∃ t, c.1.share[k].target = some t ∧ p.cfg.sets[k].pmin ≤ t ∧ t ≤ p.cfg.sets[k].rated)
      ∧ (residual ≠ 0 → ∀ k ∈ sharing, c.1.share[k].target = some p.cfg.sets[k].pmin
          ∨ c.1.share[k].target = some p.cfg.sets[k].rated))
    ∧ (∀ k, setConfigured p k = true → islandOf p p.cfg.sets[k].sect = some i → k ∉ sharing →
      c.1.share[k].target =
        match p.seq[k].state, p.cfg.sets[k].mode with
        | some .onBus, .fixed => some p.cfg.sets[k].fixedOut
        | some .rampIn, .fixed => if k ∈ c.2.done then some p.cfg.sets[k].fixedOut else some (ramp k)
        | some .rampIn, _ => if k ∈ c.2.done then none else some (ramp k)
        | some .rampOut, _ => if k ∈ c.2.done then none else some (ramp k)
        | _, _ => none)

/-- R79 to R83, with log entries 26 for a breaker-closed set in a state that R69 does not list and 41 for a ramp-out above a
lowered R: a share period raises the ramp value of a RAMP_IN set on the island's bus by a fifth of its ramp rate, not above
R, and lowers that of a RAMP_OUT set by as much, not below Pmin, with the time at which it came to stand there; every other
set's ramp value stays. A RAMP_IN set is done once its ramp value has reached its shadow target: F in FIXED mode, else its
part, by effective weight, of what the fixed contributions and the ramp values leave of the load, taken among the sharing
sets and itself, and not above R. A RAMP_OUT set is done at Pmin, once it is QUALIFIED with a measured kW within its
deadband of Pmin, or has stood there for 30 s. -/
def Obligations.PeriodAdvancesRamps : Prop :=
  ∀ (p : Part) (i : IslandNo) (k : SetNo),
    let c := p.cfg.sets[k]
    let v := p.share[k].ramp.getD p.setImage[k].kw
    let q := (computePeriod i p).1
    let bus (j : SetNo) : Bool := onIslandBus p i j
    let ramp (j : SetNo) : Nat := q.share[j].ramp.getD p.setImage[j].kw
    let ramps (j : SetNo) : Bool := decide (p.seq[j].state = some .rampIn ∨ p.seq[j].state = some .rampOut)
    let effective (j : SetNo) : Int := (p.cfg.sets[j].weight : Int) * p.cfg.sets[j].rated
    let fixed (j : SetNo) : Option Nat := if ramps j = true then some (ramp j) else fixedContribution p j false 0
    let left : Int :=
      max 0 ((figuresOf p i).load - ∑ j : SetNo, (if bus j = true then ((fixed j).getD 0 : Int) else 0))
    let sharing : Int := ∑ j : SetNo, (if bus j = true ∧ fixed j = none then effective j else 0)
    let shadow : Int :=
      match c.mode with
      | .fixed => c.fixedOut
      | _ => min (c.rated : Int) (left * effective k / (sharing + effective k))
    (bus k = true → p.seq[k].state = some .rampIn → q.share[k].ramp = some (min c.rated (v + c.rampRate / 5)))
    ∧ (bus k = true → p.seq[k].state = some .rampOut →
      let fallen := max c.pmin (min c.rated (v - c.rampRate / 5))
      q.share[k].ramp = some fallen
      ∧ q.share[k].pminTime =
        (if fallen ≠ c.pmin then none
          else if v = c.pmin then some (p.share[k].pminTime.getD p.clock)
          else some p.clock))
    ∧ (bus k = false ∨ (p.seq[k].state ≠ some .rampIn ∧ p.seq[k].state ≠ some .rampOut) →
      q.share[k].ramp = p.share[k].ramp)
    ∧ (k ∈ (computePeriod i p).2.done ↔ bus k = true
      ∧ (p.seq[k].state = some .rampIn ∧ shadow ≤ ramp k
        ∨ p.seq[k].state = some .rampOut ∧ ramp k = c.pmin
          ∧ (p.setImage[k].fresh.state = .qualified ∧ p.setImage[k].kw ≤ c.pmin + c.rated * c.deadband / 1000
            ∨ ∃ t, q.share[k].pminTime = some t ∧ t + 30000 ≤ p.clock)))

/-- R51, R53, R56, R67, R78, R115, R140, R149, R150, with log entries 4, 10, 42 and 43: SHARE_PERIOD runs the computation at
the time the period is due, reports the completed ramps to the Set Sequencer, makes the plans, and hands the figures to the
Reserve Unit and then to the Shed Unit. Where no period is due it has no effect. A completed RAMP_IN is ON_BUS, a completed
RAMP_OUT is OPENING with an OPEN order, and ON_BUS with OPEN_FAIL where the OPEN is not queued. The Reserve Unit grants the
head of the heavy queue where the spare less its kW still covers the reserve, and else leaves it. The Shed Unit, but in
BURST and POST_CHECK, executes the selection for a fast overload, Lp above the fast overload percentage of C, with cause
FAST_OVERLOAD. Without one, an overload takes an IDLE context to CONFIRMING, and one that is over a CONFIRMING context to
IDLE. -/
def Obligations.SharePeriodStages : Prop :=
  (∀ (p : Part) (w : List Instr) (i : IslandNo), Awake p →
    (periodDue p i = none →
      exec (.sharePeriod i) { part := p, pending := w } = .next { part := kick p, pending := w })
    ∧ ∀ d, periodDue p i = some d →
      let c := computePeriod i (at' d p)
      let completed := c.2.done.foldl (fun q k => (rampComplete k q).handOn) c.1
      let planned := makePlans i (max p.clock d) c.2.roles completed
      let reserved := reservePeriod i c.2.figures planned
      let shed := shedPeriod i c.2.figures (allSets.filter (countsInCapacity p i)) reserved
      exec (.sharePeriod i) { part := p, pending := w } = .next { part := kick shed, pending := w }
      ∧ SameAside (at' d p) shed)
  ∧ (∀ (p : Part) (k : SetNo),
    let q := (rampComplete k p).part
    (∀ j, j ≠ k → q.seq[j] = p.seq[j])
    ∧ (p.seq[k].state = some .rampIn → q.seq[k].state = some .onBus ∧ q.seq[k].slow = false)
    ∧ (p.seq[k].state = some .rampOut → setConfigured p k = true → Room p →
      q.seq[k].state = some .opening ∧ Raised p q (.set k .openBreaker))
    ∧ (p.seq[k].state = some .rampOut → 32 ≤ p.normal.length → queuedFor p (.set k) = none →
      setConfigured p k = true →
      q.seq[k].state = some .onBus ∧ q.seq[k].origin = none ∧ q.seq[k].slow = false
      ∧ q.seq[k].lastOutcome = some (.openBreaker, .notQueued) ∧ Flagged q .openFail ∧ Flagged q .orderQueueFull)
    ∧ (p.seq[k].state ≠ some .rampIn → p.seq[k].state ≠ some .rampOut → rampComplete k p = { part := p, changes := [] }))
  ∧ (∀ (p : Part) (i : IslandNo) (f : Figures) (q0 : HeavyRequest) (rest : List HeavyRequest),
    p.islands[i].isSome = true → (island p i).reserve.queue = q0 :: rest →
    let q := reservePeriod i f p
    SameAside p q ∧ SameHistory p q
    ∧ ((p.cfg.plant.reserve : Int) ≤ f.spare - q0.kw → objectConfigured p (.consumer q0.consumer) = true →
      queuedFor p (.consumer q0.consumer) = none → Room p →
      (island q i).reserve.queue = headed (p.clock + p.cfg.plant.heavyExpiry * 1000) rest
      ∧ (island q i).reserve.grants = (island p i).reserve.grants
          ++ [{ consumer := q0.consumer, kw := q0.kw, hold := none, serial := p.nextOrder }]
      ∧ Raised p q (.consumer q0.consumer .grant) ∧ Flagged q .heavyGrant ∧ q.entry = p.entry)
    ∧ (f.spare - q0.kw < (p.cfg.plant.reserve : Int) →
      (island q i).reserve.queue = q0 :: rest ∧ (island q i).reserve.grants = (island p i).reserve.grants
      ∧ q.entry = p.entry))
  ∧ ∀ (p : Part) (i : IslandNo) (f : Figures) (counted : List SetNo) (r : Island), p.islands[i] = some r →
    p.cfg.shedList.Pairwise (fun a b => a.consumer ≠ b.consumer) →
    let q := shedPeriod i f counted p
    let floorOf (percent : Nat) : Int := f.capacity * (percent : Int) / 100
    let fast := r.shed.state ≠ .burst ∧ r.shed.state ≠ .postCheck ∧ floorOf p.cfg.plant.fastOverload < f.projected
    let overload := floorOf p.cfg.plant.overload < f.projected
    SameAside p q ∧ SameHistory p q ∧ (island q i).rebuiltAt = some p.clock
    ∧ (fast →
      let actions := (selectionFor p i 0 (f.projected - floorOf p.cfg.plant.ceiling)).actions
      (∀ a ∈ actions, q.entry[a.consumer].state = some .shedPending
        ∧ q.entry[a.consumer].cause = some .fastOverload ∧ Raised p q (.consumer a.consumer a.means.order)
        ∧ Flagged q .fastShed)
      ∧ (island q i).shed.burst = r.shed.burst
          ++ (actions.map ShedAction.consumer).filter (fun c => !r.shed.burst.contains c)
      ∧ ((island q i).shed.burst ≠ [] → (island q i).shed.state = .burst)
      ∧ ((island q i).shed.burst = [] →
        (island q i).shed.state = .postCheck ∧ (island q i).shed.checkTimer = some (p.clock + 1000)))
    ∧ (¬fast → r.shed.state = .idle → overload →
      (island q i).shed =
        { r.shed with state := .confirming, pacerTimer := some (p.clock + p.cfg.plant.overloadConfirm), steps := 0,
                      exhausted := false })
    ∧ (¬fast → r.shed.state = .confirming → ¬overload → (island q i).shed = ShedContext.fresh)
    ∧ (¬fast → (r.shed.state = .idle → ¬overload) → (r.shed.state = .confirming → overload) → (island q i).shed = r.shed)

/-- R87 to R91, R93: a plan is made of both terms for a sharing set with a target, of the share term alone for a QUALIFIED set
with a target that is ON_BUS in FIXED mode or ramps, and of neither term for any other set. The share term is 0 within the set's deadband and the trim term within the frequency deadband; each has
the sign of its deviation, and the trim term is never beyond its highest value. A plan's net pulse is the sum of its terms
brought within 192 ms either way, and saturated where it was brought; the line is RAISE for a positive pulse, LOWER for a
negative one; the four sub-pulses add up to the pulse, the longer ones first, none longer than 48 ms and no two more than
1 ms apart. -/
def Obligations.PlansLayOutPulses : Prop :=
  (∀ (c : SetConfig) (target measured : Nat),
    (((target : Int) - measured).natAbs ≤ c.rated * c.deadband / 1000 → shareTermOf c target measured = 0)
    ∧ (c.rated * c.deadband / 1000 < ((target : Int) - measured).natAbs →
      shareTermOf c target measured =
        ((target : Int) - measured).sign * ((((target : Int) - measured).natAbs * 1000 / c.rated * c.gain / 16 : Nat) : Int)))
  ∧ (∀ (c : PlantConfig) (f : Nat),
    trimTermOf c none = 0
    ∧ (((c.nominal : Int) - f).natAbs ≤ c.freqDeadband → trimTermOf c (some f) = 0)
    ∧ (c.freqDeadband < ((c.nominal : Int) - f).natAbs →
      trimTermOf c (some f) =
        ((c.nominal : Int) - f).sign * (min c.trimMax (((c.nominal : Int) - f).natAbs * c.trimGain / 64) : Nat))
    ∧ (trimTermOf c (some f)).natAbs ≤ c.trimMax)
  ∧ (∀ (origin : Nat) (cls : PlanClass) (qs qf : Int),
      let g := planOf origin cls qs qf
      g.net = max (-192) (min 192 (qs + qf))
      ∧ g.saturated = decide (qs + qf < -192 ∨ 192 < qs + qf)
      ∧ g.line = (if 0 < g.net then .raise else if g.net < 0 then .lower else .neither)
      ∧ g.lengths.toList.sum = g.net.natAbs
      ∧ g.lengths.toList.Pairwise (fun a b => b ≤ a ∧ a ≤ b + 1)
      ∧ (∀ l ∈ g.lengths.toList, l ≤ 48)
      ∧ g.origin = some origin ∧ g.delivered = 0 ∧ g.cutShort = false)
  ∧ (∀ (p : Part) (origin : Nat) (freq : Option Nat) (k : SetNo) (role : ShareRole),
      let asked := p.seq[k].state = some .onBus ∧ p.cfg.sets[k].mode = .fixed ∨ p.seq[k].state = some .rampIn
        ∨ p.seq[k].state = some .rampOut
      let q (t : Nat) : Int := shareTermOf p.cfg.sets[k] t p.setImage[k].kw
      (∀ t, p.share[k].target = some t → role = .sharing →
        planFor p origin freq k role = planOf origin .shareAndTrim (q t) (trimTermOf p.cfg.plant freq))
      ∧ (∀ t, p.share[k].target = some t → role = .fixed → asked → p.setImage[k].fresh.state = .qualified →
        planFor p origin freq k role = planOf origin .shareOnly (q t) 0)
      ∧ (p.share[k].target = none ∨ (role = .fixed ∧ ¬(asked ∧ p.setImage[k].fresh.state = .qualified)) →
        planFor p origin freq k role = planOf origin .noPulse 0 0))

/-- R93, R94, with log entries 4 and 11: a sub-period of a plan that is not ended makes its line active for the length of
its sub-pulse, and counts it as delivered; the end of the length makes both lines inactive; the fourth ends the plan. Where
no sub-pulse is due, the commands have no effect. -/
def Obligations.SubPulses : Prop :=
  ∀ (p : Part) (w : List Instr) (k : SetNo), Awake p →
    let g := p.gov[k]
    (∀ origin, g.plan.origin = some origin → g.plan.inProgress = true → g.plan.delivered < 4 →
      let start := origin + 50 * g.plan.delivered
      let len := g.plan.lengths.toList.getD g.plan.delivered 0
      exec (.subPulseStart k) { part := p, pending := w } = .next
        { part := kick
            { at' start p with
              gov := p.gov.set k
                { g with
                  raise := decide (0 < len ∧ g.plan.line = .raise)
                  lower := decide (0 < len ∧ g.plan.line = .lower)
                  pulseEnd := if 0 < len then some (start + len) else none
                  plan :=
                    { g.plan with
                      delivered := g.plan.delivered + 1
                      inProgress := decide (g.plan.delivered + 1 < 4 ∨ 0 < len) } } }
          pending := w })
    ∧ (g.plan.origin = none ∨ g.plan.inProgress = false ∨ 4 ≤ g.plan.delivered →
      exec (.subPulseStart k) { part := p, pending := w } = .next { part := kick p, pending := w })
    ∧ (∀ t, g.pulseEnd = some t →
      exec (.subPulseEnd k) { part := p, pending := w } = .next
        { part := kick
            { at' t p with
              gov := p.gov.set k
                { g with
                  raise := false
                  lower := false
                  pulseEnd := none
                  plan := { g.plan with inProgress := g.plan.inProgress && decide (g.plan.delivered < 4) } } }
          pending := w })
    ∧ (g.pulseEnd = none →
      exec (.subPulseEnd k) { part := p, pending := w } = .next { part := kick p, pending := w })

/-! ### The Reserve Unit's timers -/

/-- R102 to R104, R108, R112, with log entry 4 for the clock: the start choice is the first set of the standby order that is in
STANDBY, not in LOCAL mode, and in the island; there is a need where the island is DEAD, the spare is below the reserve, or
the spare less the kW of the heavy queue's head is. The confirmation of a start need ends. A set in flight makes the state
START_IN_FLIGHT; no need any more makes it QUIET; otherwise the start choice is started, where automatic starting is on or
the island is DEAD, and without that RESERVE_LOW is raised and the confirmation begins again. -/
def Obligations.StartConfirmEnds : Prop :=
  (∀ (p : Part) (i : IslandNo) (k : SetNo),
    let may (j : SetNo) : Prop :=
      p.seq[j].state = some .standby ∧ p.cfg.sets[j].mode ≠ .localRun ∧ islandOf p p.cfg.sets[j].sect = some i
    startChoice p i = some k ↔
      may k ∧ ∃ before rest, p.cfg.standby = before ++ k :: rest ∧ ∀ j ∈ before, ¬may j)
  ∧ (∀ (p : Part) (i : IslandNo) (spare : Int),
    startNeed p i spare = true ↔
      (∀ k, ¬(setConfigured p k = true ∧ islandOf p p.cfg.sets[k].sect = some i ∧ p.setImage[k].closed = true))
      ∨ spare < (p.cfg.plant.reserve : Int)
      ∨ ∃ head ∈ (island p i).reserve.queue.head?, spare - (head.kw : Int) < (p.cfg.plant.reserve : Int))
  ∧ (∀ (p : Part) (i : IslandNo),
    flightIn p i = true ↔ ∃ k : SetNo, p.inFlight[k] = true ∧ islandOf p p.cfg.sets[k].sect = some i)
  ∧ ∀ (p : Part) (w : List Instr) (i : IslandNo) (r : Island) (d : Nat), Awake p → p.islands[i] = some r →
    r.reserve.state = .startConfirm →
    (r.reserve.timer = none →
      exec (.startConfirmExpiry i) { part := p, pending := w } = .next { part := kick p, pending := w })
    ∧ (r.reserve.timer = some d →
      let now := takeFigures i (at' d p)
      let f := figuresOf (at' d p) i
      let need := startNeed (at' d p) i f.spare
      (flightIn p i = true →
        exec (.startConfirmExpiry i) { part := p, pending := w } = .next
          { part := kick (onReserve i (fun x => { x with state := .startInFlight, timer := none, stoppingSet := none }) now)
            pending := w })
      ∧ (flightIn p i = false → need = false →
        exec (.startConfirmExpiry i) { part := p, pending := w } = .next
          { part := kick
              (onReserve i (fun x => { x with state := .quiet, timer := none, stoppingSet := none, low := false }) now)
            pending := w })
      ∧ (flightIn p i = false → need = true →
        ∃ q, exec (.startConfirmExpiry i) { part := p, pending := w } = .next { part := kick q, pending := w }
          ∧ SameAside (at' d p) q ∧ SameHistory p q ∧ q.entry = p.entry
          ∧ (∀ k, startChoice p i = some k → p.cfg.plant.autoStart = true ∨ islandLive p i = false →
              setConfigured p k = true → Room p →
              q.seq[k].state = some .starting ∧ Raised p q (.set k .start) ∧ SameOthers p q k
              ∧ (island q i).reserve.state = .startInFlight ∧ (island q i).reserve.timer = none)
          ∧ (startChoice p i = none ∨ (p.cfg.plant.autoStart = false ∧ islandLive p i = true) →
              q.seq = p.seq ∧ (r.reserve.low = false → Flagged q .reserveLow)
              ∧ (island q i).reserve.state = .startConfirm ∧ (island q i).reserve.low = true
              ∧ (island q i).reserve.timer = some (max p.clock d + p.cfg.plant.startConfirm * 1000))))

/-- R102, R105, R110, with log entry 4 for the clock: the stop choice is the last set of the standby order that is ON_BUS in AUTO
mode in the island; the stop condition asks for a LIVE island, automatic stopping, no set in flight, an empty shed history
and heavy queue, and a spare that without the set still covers the reserve and the hysteresis. The stop delay ends. Where the stop condition still holds for the stop
choice, the set is put in RAMP_OUT of origin automatic and the state is STOPPING with that set; otherwise the state is
QUIET. The rule for the other sets is that of R44. -/
def Obligations.StopDelayEnds : Prop :=
  (∀ (p : Part) (i : IslandNo) (k : SetNo),
    let may (j : SetNo) : Prop :=
      p.seq[j].state = some .onBus ∧ p.cfg.sets[j].mode = .auto ∧ islandOf p p.cfg.sets[j].sect = some i
    stopChoice p i = some k ↔
      may k ∧ ∃ before rest, p.cfg.standby = before ++ k :: rest ∧ ∀ j ∈ rest, ¬may j)
  ∧ (∀ (p : Part) (i : IslandNo) (spare : Int) (rating : Nat),
    stopCondition p i spare rating = true ↔
      (∃ k, setConfigured p k = true ∧ islandOf p p.cfg.sets[k].sect = some i ∧ p.setImage[k].closed = true)
      ∧ p.cfg.plant.autoStop = true
      ∧ (∀ k : SetNo, ¬(p.inFlight[k] = true ∧ islandOf p p.cfg.sets[k].sect = some i))
      ∧ (island p i).history = [] ∧ (island p i).reserve.queue = []
      ∧ (p.cfg.plant.reserve : Int) + p.cfg.plant.stopHysteresis ≤ spare - rating)
  ∧ ∀ (p : Part) (w : List Instr) (i : IslandNo) (r : Island) (d : Nat), Awake p → p.islands[i] = some r →
    r.reserve.state = .stopConfirm →
    (r.reserve.timer = none →
      exec (.stopDelayExpiry i) { part := p, pending := w } = .next { part := kick p, pending := w })
    ∧ (r.reserve.timer = some d →
      let f := figuresOf (at' d p) i
      (∀ k, stopChoice p i = some k → stopCondition (at' d p) i f.spare p.cfg.sets[k].rated = true →
        ∃ q, exec (.stopDelayExpiry i) { part := p, pending := w } = .next { part := kick q, pending := w }
          ∧ q.seq[k].state = some .rampOut ∧ q.seq[k].origin = some .automatic
          ∧ (island q i).reserve.state = .stopping ∧ (island q i).reserve.stoppingSet = some k
          ∧ (∀ j : SetNo, j ≠ k → q.seq[j] = p.seq[j]) ∧ SameAside (at' d p) q ∧ SameHistory p q ∧ q.entry = p.entry)
      ∧ ((∀ k, stopChoice p i = some k → stopCondition (at' d p) i f.spare p.cfg.sets[k].rated = false) →
        exec (.stopDelayExpiry i) { part := p, pending := w } = .next
          { part := kick (onReserve i (fun x => { x with state := .quiet, timer := none, stoppingSet := none })
              (takeFigures i (at' d p)))
            pending := w }))

/-- R116, R117, with log entry 4 for the clock: a head whose deadline passes is denied with HEAVY_DENY and leaves the queue,
whose new head has its own deadline; a grant whose hold deadline passes is released. Neither changes the other, for a
consumer that does not stand in both. -/
def Obligations.HeavyDeadlinesPass : Prop :=
  ∀ (p : Part) (w : List Instr), Awake p →
    (∀ (i : IslandNo) (q0 : HeavyRequest) (rest : List HeavyRequest) (d : Nat), p.islands[i].isSome = true →
      (island p i).reserve.queue = q0 :: rest → q0.deadline = some d →
      ∃ q, exec (.headDeadlineExpiry i) { part := p, pending := w } = .next { part := kick q, pending := w }
        ∧ (island q i).reserve.queue = headed (max p.clock d + p.cfg.plant.heavyExpiry * 1000) rest
        ∧ (∀ j : IslandNo, j ≠ i → (island q j).reserve.queue = (island p j).reserve.queue)
        ∧ (grantOf p q0.consumer = none →
          ∀ j : IslandNo, (island q j).reserve.grants = (island p j).reserve.grants)
        ∧ Flagged q .heavyDeny ∧ SameAside (at' d p) q
        ∧ (objectConfigured p (.consumer q0.consumer) = true → queuedFor p (.consumer q0.consumer) = none → Room p →
          Raised p q (.consumer q0.consumer .deny)))
    ∧ (∀ i : IslandNo, (island p i).reserve.queue = [] →
      exec (.headDeadlineExpiry i) { part := p, pending := w } = .next { part := kick p, pending := w })
    ∧ (∀ (c : ConsumerNo) (i : IslandNo) (g : HeavyGrant) (d : Nat), grantIsland p c = some i → grantOf p c = some g →
      g.hold = some d →
      ∃ q, exec (.holdDeadlineExpiry c) { part := p, pending := w } = .next { part := kick q, pending := w }
        ∧ (island q i).reserve.grants = (island p i).reserve.grants.filter (fun x => x.consumer != c)
        ∧ (∀ j : IslandNo, j ≠ i → (island q j).reserve.grants = (island p j).reserve.grants)
        ∧ (∀ j : IslandNo, (island q j).reserve.queue = (island p j).reserve.queue)
        ∧ SameAside (at' d p) q ∧ q.entry = p.entry ∧ SameHistory p q)
    ∧ (∀ c : ConsumerNo, (grantOf p c).bind HeavyGrant.hold = none →
      exec (.holdDeadlineExpiry c) { part := p, pending := w } = .next { part := kick p, pending := w })

/-! ### The Shed Unit's timers -/

/-- R147, R148, R150, R151, with log entries 4 for the clock and 42 for a limit above 20,000 kW: the check timer ends in
POST_CHECK, or the pacer timer in CONFIRMING or SETTLING. Without an overload the context is IDLE. With one, a phase that a
fast shed saved becomes the current one at the check; otherwise the first eligible entry of the list is shed, or, where
there is none, the context settles, with SHED_EXHAUSTED raised once in the episode: nothing is raised where it has been. -/
def Obligations.ShedTimersEnd : Prop :=
  (∀ (p : Part) (w : List Instr) (i : IslandNo) (r : Island) (d : Nat), Awake p → p.cfg.fits → p.islands[i] = some r →
      r.shed.state = .postCheck → r.shed.checkTimer = some d →
      let f := figuresOf (at' d p) i
      let limit : Int := f.capacity * (p.cfg.plant.overload : Int) / 100
      (f.projected ≤ limit →
        exec (.checkTimerExpiry i) { part := p, pending := w } = .next
          { part := kick (onShed i (fun _ => ShedContext.fresh) (takeFigures i (at' d p))), pending := w })
      ∧ (limit < f.projected → ∀ s, r.shed.saved = some s →
        let base : ShedContext := { ShedContext.fresh with steps := s.steps, exhausted := s.exhausted }
        exec (.checkTimerExpiry i) { part := p, pending := w } = .next
          { part := kick (onShed i (fun _ =>
              if s.state = .stepWait then
                if s.arrived = true then
                  { base with state := .settling, pacerTimer := some (max p.clock d + p.cfg.plant.settle * 1000) }
                else { base with state := .stepWait, stepConsumer := s.stepConsumer }
              else { base with state := s.state, pacerTimer := some (max p.clock d + s.remaining) })
              (takeFigures i (at' d p)))
            pending := w })
      ∧ (limit < f.projected → r.shed.saved = none →
        ∃ q, exec (.checkTimerExpiry i) { part := p, pending := w } = .next { part := kick q, pending := w }
          ∧ SameAside (at' d p) q
          ∧ (∀ e, p.cfg.shedList.find? (eligible p i) = some e → Paced p q i 0 f e)
          ∧ (p.cfg.shedList.find? (eligible p i) = none →
            Flagged q .shedExhausted ∧ q.entry = p.entry ∧ (island q i).shed.state = .settling
            ∧ (island q i).shed.pacerTimer = some (max p.clock d + p.cfg.plant.settle * 1000))))
  ∧ (∀ (p : Part) (w : List Instr) (i : IslandNo) (r : Island) (d : Nat) (c : Instr), Awake p → p.cfg.fits →
      p.islands[i] = some r → r.shed.pacerTimer = some d →
      (r.shed.state = .confirming ∧ c = .confirmTimerExpiry i ∨ r.shed.state = .settling ∧ c = .settleTimerExpiry i) →
      let f := figuresOf (at' d p) i
      let limit : Int := f.capacity * (p.cfg.plant.overload : Int) / 100
      (f.projected ≤ limit →
        exec c { part := p, pending := w } = .next
          { part := kick (onShed i (fun _ => ShedContext.fresh) (takeFigures i (at' d p))), pending := w })
      ∧ (limit < f.projected →
        ∃ q, exec c { part := p, pending := w } = .next { part := kick q, pending := w }
          ∧ SameAside (at' d p) q
          ∧ (∀ e, p.cfg.shedList.find? (eligible p i) = some e → Paced p q i r.shed.steps f e)
          ∧ (p.cfg.shedList.find? (eligible p i) = none →
            (r.shed.exhausted = false → Flagged q .shedExhausted)
            ∧ (r.shed.exhausted = true → q.rawFlags = p.rawFlags ∧ q.reports = p.reports) ∧ q.entry = p.entry
            ∧ (island q i).shed.state = .settling ∧ (island q i).shed.exhausted = true
            ∧ (island q i).shed.steps = r.shed.steps
            ∧ (island q i).shed.pacerTimer = some (max p.clock d + p.cfg.plant.settle * 1000))))

/-- R160, with log entry 4 for the clock: a restore candidate is the topmost record whose cause is not MANUAL and whose entry is
auto-restore, SHED and not restore-failed. It is restored in a LIVE island with an IDLE shed context and automatic restoring,
where the spare less the larger of its offered kW and its estimate covers the reserve and the margin. The restore timer ends in DELAY or INTERVAL. With an empty history the context is
IDLE. Where a candidate meets the restore condition, its entry is put in RESTORE_PENDING with a CLOSE, or a LIMIT none for
a LIMITABLE entry, and the context waits for it. Otherwise the step stays due. -/
def Obligations.RestoreTimerEnds : Prop :=
  (∀ (p : Part) (i : IslandNo) (h : HistoryRecord),
    let may (g : HistoryRecord) : Prop :=
      g.cause ≠ .manual ∧ (∃ e, entryCfg p g.consumer = some e ∧ e.autoRestore = true)
      ∧ p.entry[g.consumer].restoreFailed = false ∧ p.entry[g.consumer].state = some .shed
    restoreCandidate p i = some h ↔
      may h ∧ ∃ above below, (island p i).history = above ++ h :: below ∧ ∀ g ∈ above, ¬may g)
  ∧ (∀ (p : Part) (i : IslandNo) (f : Figures) (h : HistoryRecord) (e : EntryConfig), entryCfg p h.consumer = some e →
    (restoreHolds p i f h = true ↔
      (∃ k, setConfigured p k = true ∧ islandOf p p.cfg.sets[k].sect = some i ∧ p.setImage[k].closed = true)
      ∧ (island p i).shed.state = .idle ∧ p.cfg.plant.autoRestore = true
      ∧ (p.cfg.plant.reserve : Int) + p.cfg.plant.restoreMargin ≤ f.spare - max (h.offered : Int) e.estimate))
  ∧ ∀ (p : Part) (w : List Instr) (i : IslandNo) (r : Island) (d : Nat), Awake p → p.islands[i] = some r →
    (r.restore.state = .delay ∨ r.restore.state = .interval) → r.restore.timer = some d →
    let now := takeFigures i (at' d p)
    let f := figuresOf (at' d p) i
    (r.history = [] →
      exec (.restoreTimerExpiry i) { part := p, pending := w } = .next
        { part := kick (onRestore i (fun _ => RestoreContext.fresh) now), pending := w })
    ∧ (r.history ≠ [] → (∀ h, restoreCandidate p i = some h → restoreHolds (at' d p) i f h = false) →
      exec (.restoreTimerExpiry i) { part := p, pending := w } = .next
        { part := kick (onRestore i (fun x => { x with due := true, timer := none }) now), pending := w })
    ∧ (∀ (h : HistoryRecord) (e : EntryConfig), restoreCandidate p i = some h → restoreHolds (at' d p) i f h = true →
      entryCfg p h.consumer = some e → stationAssigned e.station = true → queuedFor p (.consumer h.consumer) = none →
      Room p →
      ∃ q, exec (.restoreTimerExpiry i) { part := p, pending := w } = .next { part := kick q, pending := w }
        ∧ q.entry[h.consumer].state = some .restorePending
        ∧ (∀ c : ConsumerNo, c ≠ h.consumer → q.entry[c] = p.entry[c])
        ∧ Raised p q (.consumer h.consumer (match e.kind with | .breaker => .close | .limitable => .release))
        ∧ (island q i).restore.state = .stepWait ∧ (island q i).restore.stepConsumer = some h.consumer
        ∧ (island q i).restore.timer = none ∧ SameHistory p q ∧ SameAside (at' d p) q ∧ q.seq = p.seq)

/-! ### Islands and contingency selections -/

/-- R12: a tie joins its two sections, section t and the next of the ring, when it is configured and held closed, whatever
its freshness. Two sections share an island exactly when a chain of joining ties leads from one to the other; an island is
named by the lowest letter it contains. -/
def Obligations.IslandsAreChainsOfTies : Prop :=
  (∀ (p : Part) (t : TieNo), tieJoinsNow p t = true ↔
    p.cfg.plant.tiePresent[t] = true ∧ 1 ≤ p.cfg.plant.tieStation[t] ∧ p.cfg.plant.tieStation[t] ≤ 62
      ∧ p.tieImage[t].closed = true)
  ∧ ∀ (joins : Vector Bool 4),
    let joined (s u : SectionNo) : Prop := ∃ t : TieNo, joins[t] = true ∧ (s = t ∧ u = t + 1 ∨ s = t + 1 ∧ u = t)
    let map := islandMapOf joins
    (∀ s u : SectionNo, map[s] = map[u] ↔ Relation.ReflTransGen joined s u)
    ∧ (∀ s : SectionNo, map[map[s]] = map[s]) ∧ (∀ s u : SectionNo, map[u] = map[s] → map[s] ≤ u)

/-- R17 to R20, R120, R121, R158, with log entry 32 for the exhausted flag of a context in BURST or POST_CHECK: an accepted
TIE STATUS record that changes a tie's closed field, in RUN. The island map is made anew by R12. Where it is unchanged,
nothing is changed but the tie's record and recorded state. Where two islands merge or one splits, ISLAND_CHANGE is raised,
and there is a record for exactly the sections that name an island. Two histories become one, the newer record above, and
two heavy queues one, the older request first, each keeping its own order; requests beyond the eighth are denied; the grants
are put together; a stopping set's ramp-out is abandoned. The shed context of a merged island is in BURST or POST_CHECK if
one was, else SETTLING if one was not IDLE. A split shares out history, requests and grants by the consumers' sections and
leaves IDLE shed contexts; an island that is then DEAD loses its requests and grants. An island whose sections stay as they
were keeps its history. No object record is changed but the tie's, and no set's record that neither the Reserve Unit's
requests (R45, R52) nor a dead-bus permission (R48) acts on. -/
def Obligations.TieRecordRemakesIslands : Prop :=
  (∀ p : Part, ∀ (t : TieNo) (closed : Bool) (old : Vector IslandNo 4), Running p → p.mapFollows →
    p.islandMap = some old → tieConfigured p t = true → p.tieImage[t].closed ≠ closed →
    let new := islandMapOf (p.tieJoins.set t closed)
    let written : Part :=
      { p with
        tieImage := p.tieImage.set t { closed := closed, fresh := p.tieImage[t].fresh.accept 2000 p.clock }
        tieJoins := p.tieJoins.set t closed }
    let q := deliverRecord (.tie t closed) p
    (new = old → q = written)
    ∧ (new ≠ old →
      q.islandMap = some new ∧ q.tieJoins = written.tieJoins ∧ q.tieImage = written.tieImage
      ∧ (∀ i : IslandNo, q.islands[i].isSome = decide (new[i] = i)) ∧ Flagged q .islandChange
      ∧ SameDesk p q ∧ SameLine p q ∧ q.cfg = p.cfg ∧ q.clock = p.clock ∧ q.phase = p.phase ∧ q.acquireAt = p.acquireAt
      ∧ q.setImage = p.setImage ∧ q.consumerImage = p.consumerImage ∧ q.meterImage = p.meterImage
      ∧ (∀ k : SetNo, Settled p.seq[k] → p.seq[k].state ≠ some .synchronising → q.seq[k] = p.seq[k])
      ∧ (∀ hi : IslandNo, old[hi] = hi → new[hi] ≠ hi →
        let a := island p new[hi]
        let b := island p hi
        let m := island q new[hi]
        let queue := mergeQueues a.reserve.queue b.reserve.queue
        let busy (c : ShedContext) : Prop := c.state = .burst ∨ c.state = .postCheck
        let steps (c : ShedContext) : Nat :=
          match c.saved with
          | some s => s.steps
          | none => if c.state = .confirming ∨ c.state = .stepWait ∨ c.state = .settling then c.steps else 0
        let exhausted (c : ShedContext) : Bool :=
          match c.saved with
          | some s => s.exhausted
          | none => (c.state == .confirming || c.state == .stepWait || c.state == .settling) && c.exhausted
        m.history = mergeHistories a.history b.history
        ∧ m.reserve.queue = headed (p.clock + p.cfg.plant.heavyExpiry * 1000) (queue.take 8)
        ∧ (8 < queue.length → Flagged q .heavyDeny)
        ∧ (∀ r ∈ [a.reserve, b.reserve], ∀ k, r.state = .stopping → r.stoppingSet = some k →
          p.seq[k].state = some .rampOut → p.seq[k].origin = some .automatic →
          q.seq[k].state = some .onBus ∧ q.seq[k].origin = none)
        ∧ (islandLive q new[hi] = false → m.shed = ShedContext.fresh)
        ∧ (islandLive q new[hi] = true →
          (queue.length ≤ 8 → m.reserve.grants = a.reserve.grants ++ b.reserve.grants)
          ∧ (a.shed.state = .idle → b.shed.state = .idle → a.shed.saved = none → b.shed.saved = none →
            m.shed = ShedContext.fresh)
          ∧ (¬(a.shed.state = .idle ∧ b.shed.state = .idle) →
            m.shed.steps = min 255 (steps a.shed + steps b.shed)
            ∧ m.shed.exhausted = (exhausted a.shed || exhausted b.shed)
            ∧ m.shed.burst =
              (if busy a.shed ∨ busy b.shed then
                a.shed.burst ++ b.shed.burst.filter (fun c => !a.shed.burst.contains c) else [])
            ∧ m.shed.state =
              (if busy a.shed ∨ busy b.shed then (if m.shed.burst = [] then .postCheck else .burst) else .settling)
            ∧ m.shed.checkTimer = (if m.shed.state = .postCheck then some (p.clock + 1000) else none)
            ∧ m.shed.pacerTimer =
              (if m.shed.state = .settling then some (p.clock + p.cfg.plant.settle * 1000) else none))))
      ∧ (∀ other i : IslandNo, old[other] ≠ other → new[other] = other → i = other ∨ i = old[other] →
        let whole := island p old[other]
        let mine (c : ConsumerNo) : Bool := decide ((entryCfg p c).map (fun e => new[e.sect]) = some i)
        (island q i).history = whole.history.filter (fun h => mine h.consumer)
        ∧ (island q i).shed = ShedContext.fresh
        ∧ (islandLive q i = true →
          (island q i).reserve.queue = headed (p.clock + p.cfg.plant.heavyExpiry * 1000)
            (whole.reserve.queue.filter fun r => mine r.consumer)
          ∧ (island q i).reserve.grants = whole.reserve.grants.filter fun g => mine g.consumer)
        ∧ (islandLive q i = false →
          (island q i).reserve.queue = [] ∧ (island q i).reserve.grants = []
          ∧ ((∃ r ∈ whole.reserve.queue, mine r.consumer = true) → Flagged q .heavyDeny)
          ∧ (islandLive p old[other] = true → Flagged q .deadIsland)))
      ∧ (∀ i : IslandNo, old[i] = i → (∀ s : SectionNo, old[s] = i ↔ new[s] = i) →
        (island q i).history = (island p i).history)))
  ∧ (∀ (a b : HistoryRecord) (as bs : List HistoryRecord),
    mergeHistories as [] = as ∧ mergeHistories [] bs = bs
    ∧ mergeHistories (a :: as) (b :: bs) =
      if a.time < b.time ∨ (a.time = b.time ∧ b.consumer < a.consumer) then b :: mergeHistories (a :: as) bs
      else a :: mergeHistories as (b :: bs))
  ∧ ∀ (a b : HeavyRequest) (as bs : List HeavyRequest),
    mergeQueues as [] = as ∧ mergeQueues [] bs = bs
    ∧ mergeQueues (a :: as) (b :: bs) =
      if b.arrival < a.arrival ∨ (a.arrival = b.arrival ∧ b.consumer < a.consumer) then b :: mergeQueues (a :: as) bs
      else a :: mergeQueues as (b :: bs)

/-- R130: a listed entry is eligible when it is configured in the island, CONNECTED, neither protected nor inhibited, not
trip-failed, and offers more than 0 kW. R138, R139: the selection walk for a deficit goes down the shed list over the
eligible entries, in list order and leaving none out, and stops once the running total covers the deficit; the total is the
sum of what the actions take off; without the last action the deficit is not covered; and a last LIMIT
never takes off more than the deficit. A BREAKER entry's action is a TRIP. A
LIMITABLE entry's is a LIMIT, to the held kW less what is still needed where that is not below its floor, else to its floor. -/
def Obligations.SelectionWalks : Prop :=
  (∀ (p : Part) (i : IslandNo) (e : EntryConfig), eligible p i e = true ↔
    1 ≤ e.station ∧ e.station ≤ 62 ∧ islandOf p e.sect = some i ∧ p.entry[e.consumer].state = some .connected
      ∧ e.guarded = false ∧ e.inhibit = false ∧ p.entry[e.consumer].tripFailed = false
      ∧ 0 < (match e.kind with
        | .breaker => p.consumerImage[e.consumer].kw
        | .limitable => p.consumerImage[e.consumer].kw - e.floor))
  ∧ ∀ (p : Part) (i : IslandNo) (d : Nat) (l : List EntryConfig),
    let r := walk p i d l 0
    let relief (a : ShedAction) : Nat :=
      match a.means with
      | .trip => p.consumerImage[a.consumer].kw
      | .limit kw => p.consumerImage[a.consumer].kw - kw
    (r.1.map ShedAction.consumer) <+: ((l.filter (eligible p i)).map EntryConfig.consumer)
    ∧ (r.2 < d → r.1.map ShedAction.consumer = (l.filter (eligible p i)).map EntryConfig.consumer)
    ∧ r.2 = (r.1.map relief).sum
    ∧ (r.1 ≠ [] → (r.1.dropLast.map relief).sum < d)
    ∧ (∀ a ∈ r.1.getLast?, a.means ≠ .trip → r.2 ≤ d)
    ∧ (∀ (n : Nat) (a : ShedAction), r.1[n]? = some a → ∃ e ∈ l, e.consumer = a.consumer ∧ eligible p i e = true
      ∧ (e.kind = .breaker → a.means = .trip)
      ∧ (e.kind = .limitable →
        let needed := d - ((r.1.take n).map relief).sum
        let held := p.consumerImage[a.consumer].kw
        a.means = .limit (if needed + e.floor ≤ held then held - needed else e.floor)))

/-! ### The supervisor line -/

/-- R167, R170 to R173, R177, R180: the payload of every request whose values are defined codes and fit its list is read back
as that request. -/
def Obligations.RequestsReadBack : Prop :=
  ∀ r : Request, r.wf = true → parseRequest (byteOf r.kind) r.payload = some r

/-- R164, R165, R180, with log entry 7 for a frame that finds a partial one in the receiver, which is discarded, and for one whose
header fails, whose bytes are not hunted through again: a complete supervisor frame is offered to the request queue as the request that its kind, tag and
payload are; one whose sum or header fails is dropped, with no event and no reply. -/
def Obligations.SupervisorFrameIsItsRequest : Prop :=
  ∀ (p : Part) (w : List Instr), Awake p →
    (∀ (kind tag : Byte) (payload : List Byte), payload.length ≤ 248 →
      exec (.supervisorFrameReceived (supervisorFrame kind tag payload)) { part := p, pending := w } = .next
        { part := kick (acceptRequest kind tag payload { p with supRx := { buf := [], lastAt := p.clock } }), pending := w })
    ∧ (∀ frame, supervisorHeaderGood frame = false ∨ sumHolds frame = false →
      exec (.supervisorFrameReceived frame) { part := p, pending := w } = .next
        { part := kick { p with supRx := { buf := [], lastAt := p.clock } }, pending := w })

/-- R165, R166, R167, R169, with log entry 21 for the condition of a request kept after a RESTART, which is none: what becomes of an accepted frame. With a free place it is answered at once, by BAD_REQUEST where
its kind, length or codes are not a request's and by STORE_BUSY where a store operation keeps it from the configuration,
both with no further effect. Without a free place it is answered BUSY, and once the busy list is full it is dropped. Once a
RESTART has been served, requests are kept and not served, and turned away without a reply. -/
def Obligations.RequestsAreAcceptedInOrder : Prop :=
  ∀ (p : Part) (kind tag : Byte) (payload : List Byte),
    let joined (c : Option RequestCondition) : List QueuedRequest :=
      p.requests ++ [{ serial := p.nextRequest, kind := kind, tag := tag, payload := payload, condition := c }]
    let reply (code : ResultCode) : List Reply :=
      p.replies ++ [{ serial := p.nextRequest, kind := kind, tag := tag, code := code, data := [] }]
    (p.requests.length < 4 → p.restarting = none → parseRequest kind payload = none →
      acceptRequest kind tag payload p =
        { p with nextRequest := p.nextRequest + 1, requests := joined (some .answered), replies := reply .badRequest })
    ∧ (p.requests.length < 4 → p.restarting = none → ∀ r, parseRequest kind payload = some r →
      storeGuarded r = true → p.store.saving.isSome = true →
      acceptRequest kind tag payload p =
        { p with nextRequest := p.nextRequest + 1, requests := joined (some .answered), replies := reply .storeBusy })
    ∧ (p.requests.length < 4 → p.restarting.isSome = true →
      acceptRequest kind tag payload p = { p with nextRequest := p.nextRequest + 1, requests := joined none })
    ∧ (4 ≤ p.requests.length → p.busyList.length < 4 → p.restarting = none →
      acceptRequest kind tag payload p =
        { p with
          nextRequest := p.nextRequest + 1
          busyList := p.busyList ++ [{ serial := p.nextRequest, kind := kind, tag := tag, sending := false }]
          replies := reply .busy })
    ∧ (4 ≤ p.requests.length → p.busyList.length < 4 → p.restarting.isSome = true →
      acceptRequest kind tag payload p =
        { p with
          nextRequest := p.nextRequest + 1
          busyList := p.busyList ++ [{ serial := p.nextRequest, kind := kind, tag := tag, sending := false }] })
    ∧ (4 ≤ p.requests.length → 4 ≤ p.busyList.length → acceptRequest kind tag payload p = p)

/-- R165, R168, R178, R192, with log entry 4 where no frame is being sent: the last byte of a frame has left the supervisor line. A report's frame leaves the line idle; a
reply's takes its request, or its entry of the busy list, with it; the reply of a RESTART brings the restart, which keeps
the configuration, the store and the line rate and gives every block its reset values. -/
def Obligations.SupervisorFrameSent : Prop :=
  ∀ (p : Part) (w : List Instr), Awake p →
    (p.supTx = none → exec .supervisorFrameSent { part := p, pending := w } = .next { part := kick p, pending := w })
    ∧ (∀ frame, p.supTx = some { what := .report, frame := frame } →
      exec .supervisorFrameSent { part := p, pending := w } = .next { part := kick { p with supTx := none }, pending := w })
    ∧ (∀ serial frame, p.supTx = some { what := .reply serial, frame := frame } → p.restarting ≠ some serial →
      exec .supervisorFrameSent { part := p, pending := w } = .next
        { part := kick
            { p with
              supTx := none
              requests := p.requests.filter fun q => q.serial != serial
              busyList := p.busyList.filter fun b => b.serial != serial }
          pending := w })
    ∧ (∀ serial frame, p.supTx = some { what := .reply serial, frame := frame } → p.restarting = some serial →
      exec .supervisorFrameSent { part := p, pending := w } = .next
        { part := kick (Part.acquiring p.store p.cfg p.rate), pending := w })

/-! ### Reads -/

/-- R174, R175, R176, with log entry 16 for what R174 to R176 leave open of the data (the line rate as its number of bit/s, counts
in four bytes, the island's name first in READ HISTORY and READ CONTINGENCY): the reads are answered DONE with their data and change nothing, but for the figures that READ ISLAND
takes (R68). A number or section code that names nothing is answered NO_SUCH. Of the data, IDENTIFY's and READ FLAGS' are
spelled out here byte by byte. -/
def Obligations.ReadsAnswer : Prop :=
  ∀ (p : Part) (w : List Instr) (tag n m first : Byte), Free p →
    Answers (.identify tag) p w 1 tag [] .done
      (be32 4260 ++ be32 1 ++ be32 (match p.rate with | .r115200 => 115200 | .r460800 => 460800)
        ++ [match p.phase with | .acquire => 0#8 | .run => 1#8] ++ be32 p.clock ++ [if p.store.valid then 1#8 else 0#8]) p
    ∧ Answers (.readFlags tag) p w 7 tag [] .done
      (be32 p.rawFlags.toNat ++ be32 p.cfg.enable.toNat ++ be32 p.reports.length ++ be32 p.allowance) p
    ∧ Answers (.readPlant tag) p w 8 tag [] .done (readPlantData p) p
    ∧ (∀ k : SetNo, n.toNat = k.val + 1 → Answers (.readSet tag n) p w 2 tag [n] .done (readSetData p k) p)
    ∧ (n.toNat = 0 ∨ 8 < n.toNat → Answers (.readSet tag n) p w 2 tag [n] .noSuch [] p)
    ∧ (∀ (c : ConsumerNo) (e : EntryConfig), n.toNat = c.val + 1 → entryCfg p c = some e →
      Answers (.readConsumer tag n) p w 3 tag [n] .done (readConsumerData p e) p)
    ∧ ((∀ c : ConsumerNo, n.toNat = c.val + 1 → entryCfg p c = none) →
      Answers (.readConsumer tag n) p w 3 tag [n] .noSuch [] p)
    ∧ (∀ (s : SectionNo) (i : IslandNo), n.toNat = s.val + 1 → islandOf p s = some i →
      Answers (.readIsland tag n first) p w 4 tag [n, first] .done (readIslandData p i (figuresOf p i) first.toNat)
        (takeFigures i p)
      ∧ Answers (.readHistory tag n first) p w 6 tag [n, first] .done
        (numberData i ++ numData (island p i).history.length
          ++ listData (historyData p) (((island p i).history.drop first.toNat).take 20)) p
      ∧ (m = 0#8 → Answers (.readContingency tag n m first) p w 5 tag [n, m, first] .done
          (numberData i ++ timeOr (island p i).rebuiltAt
            ++ listData (fun s => numberData s.set ++ selectionData s) (island p i).table) p)
      ∧ (∀ (k : SetNo) (sel : Selection), m.toNat = k.val + 1 →
        (island p i).table.find? (fun s => s.set == k) = some sel →
        Answers (.readContingency tag n m first) p w 5 tag [n, m, first] .done
          (numberData i ++ selectionData sel ++ listData actionData ((sel.actions.drop first.toNat).take 32)) p)
      ∧ (m ≠ 0#8 → (∀ k : SetNo, m.toNat = k.val + 1 → (island p i).table.find? (fun s => s.set == k) = none) →
        Answers (.readContingency tag n m first) p w 5 tag [n, m, first] .noSuch [] p))
    ∧ ((∀ s : SectionNo, n.toNat = s.val + 1 → islandOf p s = none) →
      Answers (.readIsland tag n first) p w 4 tag [n, first] .noSuch [] p
      ∧ Answers (.readHistory tag n first) p w 6 tag [n, first] .noSuch [] p
      ∧ Answers (.readContingency tag n m first) p w 5 tag [n, m, first] .noSuch [] p)

/-! ### Writes -/

/-- R8, R10, R41, R42, R170, R171, with log entry 15 for the bytes above a code: WRITE SET while no store operation runs. A
number outside 1 to 8 is NO_SUCH. In RUN, a write that would unconfigure a configured set or change its section while it is on
the bus or in a state that the part is leading it through is REFUSED. Any other takes effect field by field, a value out of
range brought into it, Pmin not above R and F between the two; the rest of the configuration stays. It is answered CLAMPED if
a value sent was out of its range, or Pmin or F is not what was sent or held, else DONE. A set that keeps its station keeps its
record; a re-mapped one is UNQUALIFIED with its values held; one that becomes configured starts afresh, in RUN in STANDBY, from
which the Reserve Unit may start it, or in LOCAL; one that becomes unconfigured loses its records, its state and its order. -/
def Obligations.WriteSetTakesEffect : Prop :=
  ∀ (p : Part) (w : List Instr) (tag n : Byte) (mask : BitVec 16) (fields : List Word), Free p → p.store.saving = none →
    fieldsDefined setForms fields = true →
    let payload := n :: (maskBytes16 mask ++ fromWords fields)
    let m : Masked := { mask := mask.toNat, fields := fields }
    (n.toNat = 0 ∨ 8 < n.toNat → Answers (.writeSet tag n mask fields) p w 9 tag payload .noSuch [] p)
    ∧ ∀ k : SetNo, n.toNat = k.val + 1 →
      let old := p.cfg.sets[k]
      let sect := chosen m 0 (fun c => Fin.ofNat 4 (c - 1)) old.sect
      let rated := written m 1 100 20000 old.rated
      let pmin := written m 2 0 rated (min rated old.pmin)
      let new : SetConfig :=
        { sect := sect
          rated := rated
          pmin := pmin
          weight := written m 3 1 255 old.weight
          fixedOut := written m 4 pmin rated (max pmin (min rated old.fixedOut))
          rampRate := written m 5 10 5000 old.rampRate
          deadband := written m 6 0 100 old.deadband
          gain := written m 7 1 255 old.gain
          startTime := written m 8 5 120 old.startTime
          mode := chosen m 9 (fun c => if c = 0 then .auto else if c = 1 then .fixed else .localRun) old.mode
          station := written m 10 0 62 old.station }
      let clamped : Prop :=
        beyond m 1 100 20000 ∨ beyond m 3 1 255 ∨ beyond m 5 10 5000 ∨ beyond m 6 0 100 ∨ beyond m 7 1 255
        ∨ beyond m 8 5 120 ∨ beyond m 10 0 62
        ∨ (if m.mask.testBit 2 = true then (m.fields.getD 2 0#32).toInt else old.pmin) ≠ (new.pmin : Int)
        ∨ (if m.mask.testBit 4 = true then (m.fields.getD 4 0#32).toInt else old.fixedOut) ≠ (new.fixedOut : Int)
      let refused := p.phase = .run ∧ setConfigured p k = true ∧ (new.station = 0 ∨ new.sect ≠ old.sect)
        ∧ (p.setImage[k].closed = true
          ∨ ¬(p.seq[k].state = some .standby ∨ p.seq[k].state = some .blocked ∨ p.seq[k].state = some .localRun))
      (refused → Answers (.writeSet tag n mask fields) p w 9 tag payload .refused [] p)
      ∧ (¬refused → ∃ q code, Answers (.writeSet tag n mask fields) p w 9 tag payload code [] q
        ∧ Coded clamped code ∧ q.cfg = { p.cfg with sets := p.cfg.sets.set k new }
        ∧ (mask = 0#16 → p.cfg.fits → code = .done)
        ∧ SameDesk p q ∧ q.clock = p.clock ∧ q.phase = p.phase ∧ q.feedback = p.feedback
        ∧ q.consumerImage = p.consumerImage ∧ q.meterImage = p.meterImage ∧ q.tieImage = p.tieImage
        ∧ q.tieJoins = p.tieJoins ∧ q.islandMap = p.islandMap
        ∧ (∀ j : SetNo, j ≠ k → q.setImage[j] = p.setImage[j])
        ∧ (old.station = new.station → q.setImage[k] = p.setImage[k]
          ∧ (old.sect = new.sect → old.mode = new.mode → q.seq[k] = p.seq[k] ∧ q.gov = p.gov))
        ∧ (stationAssigned old.station = true → stationAssigned new.station = true → old.station ≠ new.station →
          q.setImage[k]
            = { p.setImage[k] with fresh := { state := .unqualified, counted := false, staleAt := none } })
        ∧ (stationAssigned old.station = false → stationAssigned new.station = true →
          q.setImage[k] = SetImage.reset
          ∧ (p.phase = .run →
            (new.mode = .localRun → q.seq[k].state = some .localRun)
            ∧ (new.mode ≠ .localRun → q.seq[k].state = some .standby ∨ q.seq[k].state = some .starting)))
        ∧ (stationAssigned old.station = true → stationAssigned new.station = false →
          q.setImage[k] = SetImage.reset ∧ q.seq[k] = SeqRecord.reset ∧ q.gov[k] = GovRecord.reset
          ∧ q.selection[k] = SelectionRecord.reset ∧ queuedFor q (.set k) = none
          ∧ (∀ tx, p.fieldTx = some tx → tx.order.body.object = .set k →
            q.fieldTx = some { tx with withdrawn := true })))

/-- R8, R10, R126, R128, R134, R135, R158, R170, R172, with log entry 15 for the bytes above a code: WRITE CONSUMER while no store
operation runs. A consumer that is not listed is NO_SUCH. A change of section, kind or protection, or of a station to none, is
IN_SEQUENCE with EDIT_COLLISION while a shed sequence of the islands concerned or an order of the entry runs; a change of kind
is REFUSED while the entry is SHED. Any other write takes effect field by field, and the rest of the configuration stays; it
is answered CLAMPED if a value sent was out of its range, else DONE. An entry that keeps its station keeps its state, and its
record but for the limit, which a change of kind makes none; a re-mapped one is UNQUALIFIED with its values held; one that
becomes configured starts afresh, in RUN in OPEN_EXTERNAL; of one that becomes unconfigured every trace goes.
Clear-trip-failed clears that flag. The history record moves with its section. -/
def Obligations.WriteConsumerTakesEffect : Prop :=
  ∀ (p : Part) (w : List Instr) (tag n : Byte) (mask : BitVec 16) (fields : List Word), Free p → p.store.saving = none →
    fieldsDefined consumerForms fields = true →
    let payload := n :: (maskBytes16 mask ++ fromWords fields)
    let m : Masked := { mask := mask.toNat, fields := fields }
    ((∀ c : ConsumerNo, n.toNat = c.val + 1 → entryCfg p c = none) →
      Answers (.writeConsumer tag n mask fields) p w 10 tag payload .noSuch [] p)
    ∧ ∀ (c : ConsumerNo) (old : EntryConfig), n.toNat = c.val + 1 → entryCfg p c = some old →
      let yes (n : Nat) (b : Bool) : Bool := chosen m n (fun c => c == 1) b
      let new : EntryConfig :=
        { consumer := old.consumer
          sect := chosen m 0 (fun c => Fin.ofNat 4 (c - 1)) old.sect
          kind := chosen m 1 (fun c => if c = 0 then .breaker else .limitable) old.kind
          guarded := yes 2 old.guarded
          autoRestore := yes 3 old.autoRestore
          askFirst := yes 4 old.askFirst
          floor := written m 5 0 20000 old.floor
          estimate := written m 6 0 20000 old.estimate
          inhibit := yes 7 old.inhibit
          station := written m 8 0 62 old.station }
      let clamped : Prop := beyond m 5 0 20000 ∨ beyond m 6 0 20000 ∨ beyond m 8 0 62
      let flagged (r : EntryRecord) : EntryRecord :=
        if m.mask.testBit 9 = true ∧ (m.fields.getD 9 0#32).toNat % 256 = 1 then { r with tripFailed := false } else r
      let collides := (new.sect ≠ old.sect ∨ new.kind ≠ old.kind ∨ new.guarded ≠ old.guarded
          ∨ (stationAssigned old.station = true ∧ new.station = 0))
        ∧ (ShedRuns p old.sect ∨ ShedRuns p new.sect ∨ OrderRuns p c)
      let refused := new.kind ≠ old.kind ∧ p.entry[c].state = some .shed
      (collides → Answers (.writeConsumer tag n mask fields) p w 10 tag payload .inSequence []
        (occur .editCollision (.consumer c) p))
      ∧ (¬collides → refused → Answers (.writeConsumer tag n mask fields) p w 10 tag payload .refused [] p)
      ∧ (¬collides → ¬refused → ∃ q code, Answers (.writeConsumer tag n mask fields) p w 10 tag payload code [] q
        ∧ Coded clamped code
        ∧ q.cfg = { p.cfg with shedList := p.cfg.shedList.map fun e => if e.consumer = c then new else e }
        ∧ (mask = 0#16 → code = .done)
        ∧ SameDesk p q ∧ q.clock = p.clock ∧ q.phase = p.phase ∧ q.setImage = p.setImage
        ∧ q.meterImage = p.meterImage ∧ q.tieImage = p.tieImage ∧ q.tieJoins = p.tieJoins
        ∧ q.islandMap = p.islandMap ∧ (∀ d : ConsumerNo, d ≠ c → q.consumerImage[d] = p.consumerImage[d])
        ∧ (∀ d : ConsumerNo, d ≠ c → q.entry[d] = p.entry[d])
        ∧ (old.station = new.station → q.entry[c] = flagged p.entry[c]
          ∧ q.consumerImage[c]
            = (if old.kind = new.kind then p.consumerImage[c] else { p.consumerImage[c] with limit := none }))
        ∧ (stationAssigned old.station = true → stationAssigned new.station = true → old.station ≠ new.station →
          q.entry[c] = flagged p.entry[c]
          ∧ q.consumerImage[c]
            = { p.consumerImage[c] with
                limit := if old.kind = new.kind then p.consumerImage[c].limit else none
                fresh := { state := .unqualified, counted := false, staleAt := none } })
        ∧ (stationAssigned old.station = false → stationAssigned new.station = true →
          q.consumerImage[c] = ConsumerImage.reset ∧ (p.phase = .run → q.entry[c].state = some .openExternal))
        ∧ (stationAssigned old.station = true → stationAssigned new.station = false → Forgotten p q c)
        ∧ (stationAssigned old.station = true → stationAssigned new.station = true →
          (islandOf p old.sect = islandOf p new.sect → SameHistory p q)
          ∧ ∀ (src dst : IslandNo) (h : HistoryRecord), islandOf p old.sect = some src →
            islandOf p new.sect = some dst → src ≠ dst → p.islands[src].isSome = true → p.islands[dst].isSome = true →
            (island p src).history.find? (fun g => g.consumer == c) = some h →
            (island q src).history = (island p src).history.filter (fun g => g.consumer != c)
            ∧ (island q dst).history = mergeHistories (island p dst).history [h]))

/-- R8, R10, R170, R173, with log entry 15 for the bytes above a code: WRITE PLANT while no store operation runs takes effect
field by field: the numeric fields in their ranges, the nominal frequency as the nearer of 50 and 60 Hz, the flags and the
restore mode by their codes; the rest of the configuration stays, and so do the records of sets and consumers. It is answered
CLAMPED if a value sent was out of its range, or was no nominal frequency, else DONE. A tie or a meter that becomes configured
or unconfigured has its record reset, and a re-mapped one is UNQUALIFIED with its values held; any other keeps its record. -/
def Obligations.WritePlantTakesEffect : Prop :=
  ∀ (p : Part) (w : List Instr) (tag : Byte) (mask : BitVec 64) (fields : List Word), Free p → p.store.saving = none →
    fieldsDefined plantForms fields = true →
    let m : Masked := { mask := mask.toNat, fields := fields }
    let old := p.cfg.plant
    let yes (n : Nat) (b : Bool) : Bool := chosen m n (fun c => c == 1) b
    let clamped : Prop :=
      (∃ r ∈ [(0, 0, 40000), (1, 80, 120), (2, 100, 150), (3, 80, 120), (4, 500, 10000), (5, 1, 30), (6, 1, 60), (7, 10, 600),
          (8, 0, 20000), (9, 5, 600), (10, 1, 120), (11, 0, 20000), (14, 0, 500), (15, 0, 255), (16, 0, 96), (17, 5, 60),
          (18, 10, 300), (26, 0, 62), (27, 0, 62), (28, 0, 62), (29, 0, 62), (30, 0, 62), (31, 0, 62), (32, 0, 62),
          (33, 0, 62)], beyond m r.1 r.2.1 r.2.2)
      ∨ (m.mask.testBit 13 = true ∧ (m.fields.getD 13 0#32).toInt ≠ 50000 ∧ (m.fields.getD 13 0#32).toInt ≠ 60000)
    let rewritten (was now : Bool) (moved : Bool) : Option (Fresh → Fresh) :=
      if was && now then (if moved then some (fun _ => { state := .unqualified, counted := false, staleAt := none })
        else some id)
      else if was || now then none
      else some id
    ∃ q code, Answers (.writePlant tag mask fields) p w 11 tag (maskBytes64 mask ++ fromWords fields) code [] q
      ∧ Coded clamped code ∧ (mask = 0#64 → code = .done)
      ∧ SameDesk p q ∧ q.clock = p.clock ∧ q.phase = p.phase ∧ q.feedback = p.feedback ∧ q.setImage = p.setImage
      ∧ q.consumerImage = p.consumerImage
      ∧ (∀ t : TieNo, q.tieImage[t] =
          match rewritten (tieConfigured p t) (tieConfigured q t)
            (old.tieStation[t] != q.cfg.plant.tieStation[t]) with
          | some f => { p.tieImage[t] with fresh := f p.tieImage[t].fresh }
          | none => TieImage.reset)
      ∧ (∀ s : SectionNo, q.meterImage[s] =
          match rewritten (meterConfigured p s) (meterConfigured q s)
            (old.meterStation[s] != q.cfg.plant.meterStation[s]) with
          | some f => { p.meterImage[s] with fresh := f p.meterImage[s].fresh }
          | none => MeterImage.reset)
      ∧ q.cfg =
        { p.cfg with
          plant :=
            { reserve := written m 0 0 40000 old.reserve
              overload := written m 1 80 120 old.overload
              fastOverload := written m 2 100 150 old.fastOverload
              ceiling := written m 3 80 120 old.ceiling
              overloadConfirm := written m 4 500 10000 old.overloadConfirm
              settle := written m 5 1 30 old.settle
              startConfirm := written m 6 1 60 old.startConfirm
              stopDelay := written m 7 10 600 old.stopDelay
              stopHysteresis := written m 8 0 20000 old.stopHysteresis
              restoreDelay := written m 9 5 600 old.restoreDelay
              restoreStep := written m 10 1 120 old.restoreStep
              restoreMargin := written m 11 0 20000 old.restoreMargin
              restoreMode := chosen m 12 (fun c => if c = 0 then .continuous else .step) old.restoreMode
              nominal :=
                if m.mask.testBit 13 then (if (m.fields.getD 13 0#32).toInt < 55000 then 50000 else 60000) else old.nominal
              freqDeadband := written m 14 0 500 old.freqDeadband
              trimGain := written m 15 0 255 old.trimGain
              trimMax := written m 16 0 96 old.trimMax
              heavyHold := written m 17 5 60 old.heavyHold
              heavyExpiry := written m 18 10 300 old.heavyExpiry
              autoStart := yes 19 old.autoStart
              autoStop := yes 20 old.autoStop
              autoRestore := yes 21 old.autoRestore
              tiePresent := Vector.ofFn fun t => yes (22 + t.val) old.tiePresent[t]
              tieStation := Vector.ofFn fun t => written m (26 + t.val) 0 62 old.tieStation[t]
              meterStation := Vector.ofFn fun s => written m (30 + s.val) 0 62 old.meterStation[s] } }

/-- R10, R31, R119, R126, R131 to R135, R157, with log entry 15 for the codes (those of a move are tested, and the bytes above a
code are ignored): the edits of the shed list while no store operation runs. A number outside 1 to 48 is NO_SUCH. A new entry
is put at its position, brought between 1 and one behind the end; a moved one at its position in the list without it; a removed
one is taken out. A position or a value that had to be brought into its range is answered CLAMPED, else the edit is DONE. An
entry that is listed already is DUPLICATE, a forty-ninth LIST_FULL, one that is not listed NO_SUCH, and an edit of an entry or
an island whose sequence runs IN_SEQUENCE with EDIT_COLLISION, each changing nothing else. A placed entry with a station starts
afresh, in RUN in OPEN_EXTERNAL; a moved one keeps all its records; of a removed one no trace is left: its records are reset,
and its history record, its orders, its request and its grant are gone. -/
def Obligations.ShedListEdits : Prop :=
  (∀ (p : Part) (w : List Instr) (tag n position : Byte) (fields : List Word), Free p → p.store.saving = none →
    fieldsDefined placeForms fields = true → n.toNat = 0 ∨ 48 < n.toNat →
    Answers (.placeConsumer tag n position fields) p w 12 tag (n :: position :: 0#8 :: fromWords fields) .noSuch [] p
    ∧ Answers (.placeConsumerMove tag n position fields) p w 12 tag (n :: position :: 1#8 :: fromWords fields) .noSuch [] p
    ∧ Answers (.removeConsumer tag n) p w 13 tag [n] .noSuch [] p)
  ∧ ∀ (p : Part) (w : List Instr) (tag n position : Byte) (fields : List Word) (c : ConsumerNo), Free p →
    p.store.saving = none → fieldsDefined placeForms fields = true → n.toNat = c.val + 1 →
    let m : Masked := { mask := 511, fields := fields }
    let yes (n : Nat) : Bool := chosen m n (fun c => c == 1) false
    let new : EntryConfig :=
      { consumer := c
        sect := chosen m 0 (fun c => Fin.ofNat 4 (c - 1)) 0
        kind := chosen m 1 (fun c => if c = 0 then .breaker else .limitable) .breaker
        guarded := yes 2
        autoRestore := yes 3
        askFirst := yes 4
        floor := written m 5 0 20000 0
        estimate := written m 6 0 20000 0
        inhibit := yes 7
        station := written m 8 0 62 0 }
    let clamped : Prop := beyond m 5 0 20000 ∨ beyond m 6 0 20000 ∨ beyond m 8 0 62
    let list := p.cfg.shedList
    let placed (code : ResultCode) (q : Part) : Prop :=
      Answers (.placeConsumer tag n position fields) p w 12 tag (n :: position :: 0#8 :: fromWords fields) code [] q
    let moved (code : ResultCode) (q : Part) : Prop :=
      Answers (.placeConsumerMove tag n position fields) p w 12 tag (n :: position :: 1#8 :: fromWords fields) code [] q
    let removed (code : ResultCode) (q : Part) : Prop := Answers (.removeConsumer tag n) p w 13 tag [n] code [] q
    let same (q : Part) : Prop :=
      SameDesk p q ∧ q.clock = p.clock ∧ SameMap p q ∧ q.setImage = p.setImage
      ∧ q.meterImage = p.meterImage ∧ q.tieImage = p.tieImage
      ∧ ∀ d : ConsumerNo, d ≠ c → q.consumerImage[d] = p.consumerImage[d]
    (∀ e, entryCfg p c = some e → placed .duplicate p)
    ∧ (entryCfg p c = none → 48 ≤ list.length → placed .listFull p)
    ∧ (entryCfg p c = none → list.length < 48 → ShedRuns p new.sect →
      placed .inSequence (occur .editCollision (.consumer c) p))
    ∧ (entryCfg p c = none → list.length < 48 → ¬ShedRuns p new.sect →
      ∃ q code, placed code q ∧ same q ∧ SameHistory p q
        ∧ Coded (clamped ∨ position.toNat = 0 ∨ list.length + 1 < position.toNat) code
        ∧ (stationAssigned new.station = true →
          q.consumerImage[c] = ConsumerImage.reset ∧ (p.phase = .run → q.entry[c].state = some .openExternal))
        ∧ (stationAssigned new.station = false → q.consumerImage = p.consumerImage ∧ q.entry = p.entry)
        ∧ q.cfg =
          { p.cfg with
            shedList :=
              let at0 := max 1 (min (list.length + 1) position.toNat) - 1
              list.take at0 ++ new :: list.drop at0 })
    ∧ (entryCfg p c = none → moved .noSuch p ∧ removed .noSuch p)
    ∧ ∀ e, entryCfg p c = some e →
      (ShedRuns p e.sect ∨ OrderRuns p c →
        moved .inSequence (occur .editCollision (.consumer c) p)
        ∧ removed .inSequence (occur .editCollision (.consumer c) p))
      ∧ (¬(ShedRuns p e.sect ∨ OrderRuns p c) →
        (∃ q code, moved code q ∧ same q ∧ q.consumerImage = p.consumerImage ∧ q.entry = p.entry ∧ SameHistory p q
          ∧ Coded (position.toNat = 0 ∨ list.length < position.toNat) code
          ∧ q.cfg =
            { p.cfg with
              shedList :=
                let rest := list.filter fun d => d.consumer != c
                let at0 := max 1 (min list.length position.toNat) - 1
                rest.take at0 ++ e :: rest.drop at0 })
        ∧ (∃ q, removed .done q ∧ same q ∧ Forgotten p q c ∧ q.cfg = { p.cfg with shedList := list.filter fun d => d.consumer != c }))

/-- R101: WRITE STANDBY ORDER while no store operation runs. A number outside 1 to 8 is NO_SUCH, a set named twice
DUPLICATE; any other list becomes the standby order, the rest of the configuration and every object record staying. -/
def Obligations.StandbyOrderTakesEffect : Prop :=
  ∀ (p : Part) (w : List Instr) (tag : Byte) (sets : List Byte), Free p → p.store.saving = none → sets.length ≤ 247 →
    let payload := byteOf sets.length :: sets
    ((∃ n ∈ sets, n.toNat = 0 ∨ 8 < n.toNat) → Answers (.writeStandbyOrder tag sets) p w 14 tag payload .noSuch [] p)
    ∧ ((∀ n ∈ sets, 1 ≤ n.toNat ∧ n.toNat ≤ 8) → ¬sets.Nodup →
      Answers (.writeStandbyOrder tag sets) p w 14 tag payload .duplicate [] p)
    ∧ ((∀ n ∈ sets, 1 ≤ n.toNat ∧ n.toNat ≤ 8) → sets.Nodup →
      ∃ q, Answers (.writeStandbyOrder tag sets) p w 14 tag payload .done [] q
        ∧ q.cfg = { p.cfg with standby := sets.map fun n => Fin.ofNat 8 (n.toNat - 1) }
        ∧ SameDesk p q ∧ q.clock = p.clock ∧ SameMap p q ∧ SameImages p q ∧ SameLine p q ∧ q.entry = p.entry
        ∧ SameHistory p q)

/-! ### Commands on sets and consumers -/

/-- R56, R61 to R65: SET MODE (while no store operation runs) and the four COMMAND SET actions for the set that a number names.
What each does in RUN in each state of the set, and which it refuses; a START whose order is not queued leaves the set in
STANDBY and is REFUSED, with ORDER_QUEUE_FULL. A set that is not configured is NO_SUCH. In ACQUIRE a configured set has no
state: COMMAND SET is REFUSED, and SET MODE writes the mode alone. SET MODE with the mode the set has changes nothing. A
set that is reset, or leaves LOCAL, is in the state that its mode and held values give it (R61), and may be started by the
Reserve Unit as the change is handed on. -/
def Obligations.SetCommandsAct : Prop :=
  ∀ (p : Part) (w : List Instr) (tag n mode : Byte), Free p →
    ((∀ k : SetNo, n.toNat = k.val + 1 → setConfigured p k = false) →
      Answers (.commandSetStart tag n) p w 16 tag [n, 0#8] .noSuch [] p
      ∧ Answers (.commandSetStop tag n) p w 16 tag [n, 1#8] .noSuch [] p
      ∧ Answers (.commandSetBlock tag n) p w 16 tag [n, 2#8] .noSuch [] p
      ∧ Answers (.commandSetReset tag n) p w 16 tag [n, 3#8] .noSuch [] p
      ∧ (p.store.saving = none → mode.toNat ≤ 2 → Answers (.setMode tag n mode) p w 15 tag [n, mode] .noSuch [] p))
    ∧ (∀ k : SetNo, n.toNat = k.val + 1 → setConfigured p k = true → p.phase = .acquire → p.seq[k].state = none →
      Answers (.commandSetStart tag n) p w 16 tag [n, 0#8] .refused [] p
      ∧ Answers (.commandSetStop tag n) p w 16 tag [n, 1#8] .refused [] p
      ∧ Answers (.commandSetBlock tag n) p w 16 tag [n, 2#8] .refused [] p
      ∧ Answers (.commandSetReset tag n) p w 16 tag [n, 3#8] .refused [] p
      ∧ (p.store.saving = none → ∀ m ∈ [(0#8, Mode.auto), (1#8, .fixed), (2#8, .localRun)],
        Answers (.setMode tag n m.1) p w 15 tag [n, m.1] .done []
          { p with cfg := { p.cfg with sets := p.cfg.sets.set k { p.cfg.sets[k] with mode := m.2 } } }))
    ∧ ∀ (k : SetNo) (st : SetState), n.toNat = k.val + 1 → setConfigured p k = true → p.phase = .run →
      p.seq[k].state = some st →
      let start := Answers (.commandSetStart tag n) p w 16 tag [n, 0#8]
      let stop := Answers (.commandSetStop tag n) p w 16 tag [n, 1#8]
      let block := Answers (.commandSetBlock tag n) p w 16 tag [n, 2#8]
      let reset := Answers (.commandSetReset tag n) p w 16 tag [n, 3#8]
      let moves (q : Part) (next : SetState) : Prop :=
        q.seq[k].state = some next ∧ SameAside p q ∧ SameOthers p q k
      let f := lastFigures p ((setIsland p k).getD 0)
      (p.cfg.sets[k].mode ≠ .localRun → st = .standby → Room p →
        ∃ q, start .done [] q ∧ moves q .starting ∧ Raised p q (.set k .start))
      ∧ (p.cfg.sets[k].mode ≠ .localRun → st = .standby → 32 ≤ p.normal.length → queuedFor p (.set k) = none →
        ∃ q, start .refused [] q ∧ q.seq[k].state = some .standby
          ∧ q.seq[k].lastOutcome = some (.start, .notQueued) ∧ Flagged q .orderQueueFull ∧ SameAside p q
          ∧ SameOthers p q k)
      ∧ (p.cfg.sets[k].mode = .localRun ∨ st ≠ .standby → start .refused [] p)
      ∧ (st = .onBus ∨ st = .rampIn → (setIsland p k).isSome = true →
        (f.capacity - (p.cfg.sets[k].rated : Int) < f.projected → stop .refused [] p)
        ∧ (f.projected ≤ f.capacity - (p.cfg.sets[k].rated : Int) →
          ∃ q, stop .done [] q ∧ moves q .rampOut ∧ q.seq[k].origin = some .supervisor))
      ∧ (st = .starting ∨ st = .synchronising → Room p →
        (∃ q, stop .done [] q ∧ moves q .stopping ∧ q.seq[k].timer = none ∧ Raised p q (.set k .stop))
        ∧ (∃ q, block .done [] q ∧ moves q .blocked ∧ q.seq[k].timer = none ∧ Raised p q (.set k .stop)))
      ∧ (st = .rampOut → stop .done [] { p with seq := p.seq.set k { p.seq[k] with origin := some .supervisor } })
      ∧ (st = .opening ∨ st = .stopping → stop .done [] p)
      ∧ (st = .standby ∨ st = .tripped ∨ st = .blocked ∨ st = .localRun → stop .refused [] p)
      ∧ (st = .standby ∨ st = .tripped ∨ st = .stopping →
        ∃ q, block .done [] q ∧ moves q .blocked ∧ q.seq[k].timer = none)
      ∧ (st = .blocked → block .done [] p)
      ∧ (st = .rampIn ∨ st = .onBus ∨ st = .rampOut ∨ st = .opening ∨ st = .localRun → block .refused [] p)
      ∧ (st = .blocked ∨ (st = .tripped ∧ p.setImage[k].trip = false) →
        ∃ q, reset .done [] q ∧ SameAside p q ∧ SameOthers p q k ∧ q.seq[k].slow = false
          ∧ (q.seq[k].state = some (derived p k)
            ∨ (derived p k = .standby ∧ q.seq[k].state = some .starting)))
      ∧ (st = .standby → reset .done [] { p with seq := p.seq.set k { p.seq[k] with slow := false } })
      ∧ (st = .tripped ∧ p.setImage[k].trip = true ∨ st = .starting ∨ st = .synchronising ∨ st = .rampIn ∨ st = .onBus
          ∨ st = .rampOut ∨ st = .opening ∨ st = .stopping ∨ st = .localRun → reset .refused [] p)
      ∧ (p.store.saving = none →
        let set := Answers (.setMode tag n mode) p w 15 tag [n, mode]
        let cfg (m : Mode) : Configuration := { p.cfg with sets := p.cfg.sets.set k { p.cfg.sets[k] with mode := m } }
        (mode = 2#8 → p.cfg.sets[k].mode ≠ .localRun →
          ∃ q, set .done [] q ∧ q.cfg = cfg .localRun ∧ q.seq[k].state = some .localRun ∧ q.seq[k].timer = none
            ∧ q.seq[k].origin = none ∧ q.seq[k].deadBusSent = none ∧ SameImages p q ∧ SameOthers p q k)
        ∧ (mode = 0#8 → p.cfg.sets[k].mode ≠ .localRun → set .done [] { p with cfg := cfg .auto })
        ∧ (mode = 1#8 → p.cfg.sets[k].mode ≠ .localRun → set .done [] { p with cfg := cfg .fixed })
        ∧ (mode = 0#8 ∨ mode = 1#8 → p.cfg.sets[k].mode = .localRun →
          ∃ q, set .done [] q ∧ q.cfg = cfg (if mode = 0#8 then .auto else .fixed) ∧ SameImages p q ∧ SameOthers p q k
            ∧ (q.seq[k].state = some (derived q k)
              ∨ (derived q k = .standby ∧ q.seq[k].state = some .starting)))
        ∧ (mode = 2#8 → p.cfg.sets[k].mode = .localRun → set .done [] p))

/-- R154, R155, R161, R177: SHED CONSUMER, RELEASE CONSUMER and RESTORE STEP. A CONNECTED entry is put in SHED_PENDING with
cause MANUAL; a SHED one has its record's cause made MANUAL; any other is REFUSED. A release makes the cause MANUAL of the
consumer's record RELEASED and clears restore-failed. A RESTORE STEP sends a HELD pacer on to INTERVAL. What names nothing
is NO_SUCH. -/
def Obligations.ConsumerCommandsAct : Prop :=
  ∀ (p : Part) (w : List Instr) (tag n : Byte), Free p →
    let shed := Answers (.shedConsumer tag n) p w 17 tag [n]
    let release := Answers (.releaseConsumer tag n) p w 18 tag [n]
    let step' := Answers (.restoreStep tag n) p w 19 tag [n]
    let recast (c : ConsumerNo) (g : ShedCause → ShedCause) (q : Part) : Prop :=
      ∀ i : IslandNo, (island q i).history =
        (island p i).history.map fun h => if h.consumer = c then { h with cause := g h.cause } else h
    ((∀ c : ConsumerNo, n.toNat = c.val + 1 → entryCfg p c = none) → shed .noSuch [] p ∧ release .noSuch [] p)
    ∧ (∀ (c : ConsumerNo) (e : EntryConfig), n.toNat = c.val + 1 → entryCfg p c = some e →
      (stationAssigned e.station = false → shed .noSuch [] p)
      ∧ (stationAssigned e.station = true → p.phase = .acquire → shed .refused [] p)
      ∧ (stationAssigned e.station = true → p.phase = .run →
        (p.entry[c].state = some .connected → queuedFor p (.consumer c) = none → Room p →
          ∃ q, shed .done [] q ∧ q.entry[c].state = some .shedPending ∧ q.entry[c].cause = some .manual
            ∧ q.entry[c].relief = offeredKw p e
            ∧ Raised p q (.consumer c (match e.kind with | .breaker => .trip | .limitable => .limit e.floor))
            ∧ (∀ d : ConsumerNo, d ≠ c → q.entry[d] = p.entry[d]) ∧ SameAside p q ∧ SameHistory p q ∧ q.seq = p.seq)
        ∧ (p.entry[c].state = some .shed →
          ∃ q, shed .done [] q ∧ recast c (fun _ => .manual) q ∧ q.entry = p.entry ∧ SameAside p q ∧ q.seq = p.seq)
        ∧ (p.entry[c].state ≠ some .connected → p.entry[c].state ≠ some .shed → shed .refused [] p))
      ∧ (hasRecord p c = false → release .refused [] p)
      ∧ (hasRecord p c = true →
        ∃ q, release .done [] q ∧ recast c (fun x => if x = .manual then .released else x) q
          ∧ q.entry = p.entry.set c { p.entry[c] with restoreFailed := false } ∧ SameAside p q ∧ q.seq = p.seq
          ∧ ∀ i : IslandNo, (island q i).restore = (island p i).restore))
    ∧ ((∀ s : SectionNo, n.toNat = s.val + 1 → islandOf p s = none) → step' .noSuch [] p)
    ∧ (∀ (s : SectionNo) (i : IslandNo), n.toNat = s.val + 1 → islandOf p s = some i →
      ((island p i).restore.state = .held →
        step' .done [] (onRestore i (fun r =>
          { r with state := .interval, timer := some (p.clock + p.cfg.plant.restoreStep * 1000), due := false }) p))
      ∧ ((island p i).restore.state ≠ .held → step' .refused [] p))

/-! ### Events, the store and RESTART -/

/-- R182 to R186, with log entry 37 for an occurrence within a request: one occurrence sets its raw flag; of an enabled kind it is
coalesced into a queued report of the same kind and object, or queued as a new report, from which the oldest leaves at once
where the line is free for it, or, with the queue full, sets REPORT_OVERFLOW. CLEAR FLAGS clears the flags of
its mask, ENABLE FLAGS writes the enable mask while no store operation runs, and GRANT REPORTS adds to the allowance up to
255. -/
def Obligations.EventsAreFlaggedAndReported : Prop :=
  (∀ (p : Part) (k : EventKind) (o : EventObject),
    let raised : Part := { p with rawFlags := p.rawFlags ||| 1#26 <<< k.index }
    let enabled := p.cfg.enable.getLsbD k.index = true ∧ k ≠ .reportOverflow
    let same (r : Report) : Bool := decide (r.kind = k ∧ r.object = o)
    (¬enabled → occur k o p = raised)
    ∧ (enabled → (∃ r ∈ p.reports, same r = true) →
      occur k o p =
        { raised with
          reports := p.reports.map fun r =>
            if same r = true then { r with time := p.clock, count := min 255 (r.count + 1) } else r })
    ∧ (enabled → (∀ r ∈ p.reports, same r = false) → p.reports.length < 32 →
      occur k o p =
        sendReport { raised with reports := p.reports ++ [{ kind := k, object := o, time := p.clock, count := 1 }] })
    ∧ (enabled → (∀ r ∈ p.reports, same r = false) → 32 ≤ p.reports.length →
      occur k o p = { raised with rawFlags := raised.rawFlags ||| 1#26 <<< 25 }))
  ∧ (∀ (p : Part) (w : List Instr) (tag n : Byte) (mask : Word), Free p →
    Answers (.clearFlags tag mask) p w 20 tag (wordBytes mask) .done []
      { p with rawFlags := p.rawFlags &&& ~~~(mask.truncate 26) }
    ∧ (p.store.saving = none → Answers (.enableFlags tag mask) p w 21 tag (wordBytes mask) .done []
      { p with cfg := { p.cfg with enable := mask.truncate 26 } })
    ∧ (p.allowance + n.toNat ≤ 255 →
      Answers (.grantReports tag n) p w 22 tag [n] .done [] { p with allowance := p.allowance + n.toNat })
    ∧ (255 < p.allowance + n.toNat → Answers (.grantReports tag n) p w 22 tag [n] .clamped [] { p with allowance := 255 }))

/-- R166, R178, R191, with log entries 4 and 20: a SAVE makes the store invalid and waits in service. A matching read-back
within 800 ms makes the store valid with the working configuration and the reply DONE; a read-back that does not match, or
comes too late, and the running out of the 800 ms leave the store invalid with STORE_FAILED. A RESTART is answered DONE and
waits for its reply to be sent. -/
def Obligations.SaveAndRestart : Prop :=
  ∀ (p : Part) (w : List Instr) (tag : Byte),
    (Free p → p.store.saving = none →
      exec (.save tag) { part := p, pending := w } = .next
        { part := kick
            { p with
              nextRequest := p.nextRequest + 1
              store := { p.store with valid := false, saving := some { serial := p.nextRequest, started := p.clock } }
              requests := p.requests ++ [{ serial := p.nextRequest, kind := 23#8, tag := tag, payload := [],
                                           condition := some .inService }] }
          pending := w }
      ∧ Answers (.restart tag) p w 24 tag [] .done [] { p with restarting := some p.nextRequest })
    ∧ (Awake p → p.store.saving = none →
      exec (.saveComplete true) { part := p, pending := w } = .next { part := kick p, pending := w }
      ∧ exec (.saveComplete false) { part := p, pending := w } = .next { part := kick p, pending := w }
      ∧ exec .saveTimeout { part := p, pending := w } = .next { part := kick p, pending := w })
    ∧ ∀ (s : SaveInProgress) (r : QueuedRequest), Awake p → p.store.saving = some s →
      p.requests.find? (fun q => q.serial == s.serial) = some r →
      let ended (clock : Nat) (code : ResultCode) (store : Store) : Host.Outcome State Fault Refusal :=
        .next
          { part := kick
              { p with
                clock := clock
                store := store
                requests := p.requests.map fun q =>
                  if q.serial = s.serial then { q with condition := some .answered } else q
                replies := p.replies ++ [{ serial := s.serial, kind := r.kind, tag := r.tag, code := code, data := [] }] }
            pending := w }
      let failed : Store := { p.store with valid := false, saving := none }
      (p.clock ≤ s.started + 800 →
        exec (.saveComplete true) { part := p, pending := w }
          = ended p.clock .done { valid := true, contents := p.cfg, saving := none })
      ∧ (s.started + 800 < p.clock →
        exec (.saveComplete true) { part := p, pending := w } = ended p.clock .storeFailed failed)
      ∧ exec (.saveComplete false) { part := p, pending := w } = ended p.clock .storeFailed failed
      ∧ exec .saveTimeout { part := p, pending := w } = ended (max p.clock (s.started + 800)) .storeFailed failed

/-! ### Invariants that every step keeps -/

/-- R86: no step makes both governor lines of a set active. -/
def Obligations.StepKeepsLinesSafe : Prop :=
  ∀ s t : State, s.part.linesSafe → step s = .next t → t.part.linesSafe

/-- R27, R28: every step keeps at most one order for each object in the two queues together, urgent orders only TRIP and
LIMIT orders, and each queue within its length. -/
def Obligations.StepKeepsOrdersFit : Prop :=
  ∀ s t : State, s.part.ordersFit → step s = .next t → t.part.ordersFit

/-- R100, R114, R116, R119, R125, R126, R156 to R158: every step keeps the heavy queues at eight requests or fewer, of which the
head alone has a deadline. Where the island map follows the ties and the configuration fits, every step keeps each consumer at
one place at most among all the heavy queues and held grants, that of the island of its section; and, with an entry state for
exactly the configured entries of the RUN phase, the shed histories at one record at most for each consumer, in the island
of its section, ordered by shed time. -/
def Obligations.StepKeepsQueuesFit : Prop :=
  (∀ s t : State, s.part.queuesFit → step s = .next t → t.part.queuesFit)
  ∧ (∀ s t : State, s.part.mapFollows → s.part.configFits → s.part.heavyApart → step s = .next t → t.part.heavyApart)
  ∧ (∀ s t : State, s.part.mapFollows → s.part.configFits → s.part.entriesExist → s.part.historiesFit →
      step s = .next t → t.part.entriesExist ∧ t.part.historiesFit)

/-- R165, R182 to R184: every step keeps the request queue and the busy list at four, the report queue at 32 reports of
different kind or object with counts of 1 to 255, and the allowance at 255. -/
def Obligations.StepKeepsSupervisorFits : Prop :=
  ∀ s t : State, s.part.supervisorFits → step s = .next t → t.part.supervisorFits

/-- R41, R101, R123, R124, R173, R190: every step keeps the working configuration and the store's within their ranges. -/
def Obligations.StepKeepsConfigFits : Prop :=
  ∀ s t : State, s.part.configFits → step s = .next t → t.part.configFits

/-- R12, R13, R17, R21: every step keeps the island map at that of the ties as they are held, with one record for each
island, and keeps it empty in ACQUIRE. -/
def Obligations.StepKeepsMapFollows : Prop :=
  ∀ s t : State, s.part.mapFollows → step s = .next t → t.part.mapFollows

/-- R42: every step keeps a state for exactly the configured sets of the RUN phase, and a set timer only where there is a
state. -/
def Obligations.StepKeepsStatesExist : Prop :=
  ∀ s t : State, s.part.statesExist → step s = .next t → t.part.statesExist

/-- The state after reset has the invariants of the seven statements before this one, those of the heavy queues, the grants,
the entries and the shed histories among them. That state is the model's choice by log entries 2 (a blank store) and 5 (straps
low, right after a power-on); its values are those of R188 to R190. -/
def Obligations.ResetHoldsInvariants : Prop :=
  State.reset.part.linesSafe ∧ State.reset.part.ordersFit ∧ State.reset.part.queuesFit
    ∧ State.reset.part.supervisorFits ∧ State.reset.part.configFits ∧ State.reset.part.mapFollows
    ∧ State.reset.part.statesExist ∧ State.reset.part.heavyApart ∧ State.reset.part.entriesExist
    ∧ State.reset.part.historiesFit
end

