-- ==== Sys2Proof/Laws/State.lean ====
section
/-! SUPPORT. What each named update of the part changes and what it leaves, field by field, and the record of a bank that
an update touches or does not touch. -/

namespace Sys2Proof.Machine

variable (p : Part)

/-! ### `onSeq` -/

@[simp] theorem onSeq_powered (k : SetNo) (f : SeqRecord → SeqRecord) : (onSeq k f p).powered = p.powered := rfl

@[simp] theorem onSeq_resetAsserted (k : SetNo) (f : SeqRecord → SeqRecord) : (onSeq k f p).resetAsserted = p.resetAsserted := rfl

@[simp] theorem onSeq_store (k : SetNo) (f : SeqRecord → SeqRecord) : (onSeq k f p).store = p.store := rfl

@[simp] theorem onSeq_cfg (k : SetNo) (f : SeqRecord → SeqRecord) : (onSeq k f p).cfg = p.cfg := rfl

@[simp] theorem onSeq_rate (k : SetNo) (f : SeqRecord → SeqRecord) : (onSeq k f p).rate = p.rate := rfl

@[simp] theorem onSeq_clock (k : SetNo) (f : SeqRecord → SeqRecord) : (onSeq k f p).clock = p.clock := rfl

@[simp] theorem onSeq_phase (k : SetNo) (f : SeqRecord → SeqRecord) : (onSeq k f p).phase = p.phase := rfl

@[simp] theorem onSeq_acquireAt (k : SetNo) (f : SeqRecord → SeqRecord) : (onSeq k f p).acquireAt = p.acquireAt := rfl

@[simp] theorem onSeq_fieldRx (k : SetNo) (f : SeqRecord → SeqRecord) : (onSeq k f p).fieldRx = p.fieldRx := rfl

@[simp] theorem onSeq_urgent (k : SetNo) (f : SeqRecord → SeqRecord) : (onSeq k f p).urgent = p.urgent := rfl

@[simp] theorem onSeq_normal (k : SetNo) (f : SeqRecord → SeqRecord) : (onSeq k f p).normal = p.normal := rfl

@[simp] theorem onSeq_fieldTx (k : SetNo) (f : SeqRecord → SeqRecord) : (onSeq k f p).fieldTx = p.fieldTx := rfl

@[simp] theorem onSeq_feedback (k : SetNo) (f : SeqRecord → SeqRecord) : (onSeq k f p).feedback = p.feedback := rfl

@[simp] theorem onSeq_nextOrder (k : SetNo) (f : SeqRecord → SeqRecord) : (onSeq k f p).nextOrder = p.nextOrder := rfl

@[simp] theorem onSeq_setImage (k : SetNo) (f : SeqRecord → SeqRecord) : (onSeq k f p).setImage = p.setImage := rfl

@[simp] theorem onSeq_consumerImage (k : SetNo) (f : SeqRecord → SeqRecord) : (onSeq k f p).consumerImage = p.consumerImage := rfl

@[simp] theorem onSeq_meterImage (k : SetNo) (f : SeqRecord → SeqRecord) : (onSeq k f p).meterImage = p.meterImage := rfl

@[simp] theorem onSeq_tieImage (k : SetNo) (f : SeqRecord → SeqRecord) : (onSeq k f p).tieImage = p.tieImage := rfl

@[simp] theorem onSeq_tieJoins (k : SetNo) (f : SeqRecord → SeqRecord) : (onSeq k f p).tieJoins = p.tieJoins := rfl

@[simp] theorem onSeq_islandMap (k : SetNo) (f : SeqRecord → SeqRecord) : (onSeq k f p).islandMap = p.islandMap := rfl

@[simp] theorem onSeq_islands (k : SetNo) (f : SeqRecord → SeqRecord) : (onSeq k f p).islands = p.islands := rfl

@[simp] theorem onSeq_seq (k : SetNo) (f : SeqRecord → SeqRecord) :
    (onSeq k f p).seq = modifyAt p.seq k f := rfl

@[simp] theorem onSeq_share (k : SetNo) (f : SeqRecord → SeqRecord) : (onSeq k f p).share = p.share := rfl

@[simp] theorem onSeq_gov (k : SetNo) (f : SeqRecord → SeqRecord) : (onSeq k f p).gov = p.gov := rfl

@[simp] theorem onSeq_inFlight (k : SetNo) (f : SeqRecord → SeqRecord) : (onSeq k f p).inFlight = p.inFlight := rfl

@[simp] theorem onSeq_selection (k : SetNo) (f : SeqRecord → SeqRecord) : (onSeq k f p).selection = p.selection := rfl

@[simp] theorem onSeq_entry (k : SetNo) (f : SeqRecord → SeqRecord) : (onSeq k f p).entry = p.entry := rfl

@[simp] theorem onSeq_rawFlags (k : SetNo) (f : SeqRecord → SeqRecord) : (onSeq k f p).rawFlags = p.rawFlags := rfl

@[simp] theorem onSeq_reports (k : SetNo) (f : SeqRecord → SeqRecord) : (onSeq k f p).reports = p.reports := rfl

@[simp] theorem onSeq_allowance (k : SetNo) (f : SeqRecord → SeqRecord) : (onSeq k f p).allowance = p.allowance := rfl

@[simp] theorem onSeq_supRx (k : SetNo) (f : SeqRecord → SeqRecord) : (onSeq k f p).supRx = p.supRx := rfl

@[simp] theorem onSeq_requests (k : SetNo) (f : SeqRecord → SeqRecord) : (onSeq k f p).requests = p.requests := rfl

@[simp] theorem onSeq_busyList (k : SetNo) (f : SeqRecord → SeqRecord) : (onSeq k f p).busyList = p.busyList := rfl

@[simp] theorem onSeq_replies (k : SetNo) (f : SeqRecord → SeqRecord) : (onSeq k f p).replies = p.replies := rfl

@[simp] theorem onSeq_supTx (k : SetNo) (f : SeqRecord → SeqRecord) : (onSeq k f p).supTx = p.supTx := rfl

@[simp] theorem onSeq_restarting (k : SetNo) (f : SeqRecord → SeqRecord) : (onSeq k f p).restarting = p.restarting := rfl

@[simp] theorem onSeq_nextRequest (k : SetNo) (f : SeqRecord → SeqRecord) : (onSeq k f p).nextRequest = p.nextRequest := rfl

/-! ### `onShare` -/

@[simp] theorem onShare_powered (k : SetNo) (f : ShareRecord → ShareRecord) : (onShare k f p).powered = p.powered := rfl

@[simp] theorem onShare_resetAsserted (k : SetNo) (f : ShareRecord → ShareRecord) : (onShare k f p).resetAsserted = p.resetAsserted := rfl

@[simp] theorem onShare_store (k : SetNo) (f : ShareRecord → ShareRecord) : (onShare k f p).store = p.store := rfl

@[simp] theorem onShare_cfg (k : SetNo) (f : ShareRecord → ShareRecord) : (onShare k f p).cfg = p.cfg := rfl

@[simp] theorem onShare_rate (k : SetNo) (f : ShareRecord → ShareRecord) : (onShare k f p).rate = p.rate := rfl

@[simp] theorem onShare_clock (k : SetNo) (f : ShareRecord → ShareRecord) : (onShare k f p).clock = p.clock := rfl

@[simp] theorem onShare_phase (k : SetNo) (f : ShareRecord → ShareRecord) : (onShare k f p).phase = p.phase := rfl

@[simp] theorem onShare_acquireAt (k : SetNo) (f : ShareRecord → ShareRecord) : (onShare k f p).acquireAt = p.acquireAt := rfl

@[simp] theorem onShare_fieldRx (k : SetNo) (f : ShareRecord → ShareRecord) : (onShare k f p).fieldRx = p.fieldRx := rfl

@[simp] theorem onShare_urgent (k : SetNo) (f : ShareRecord → ShareRecord) : (onShare k f p).urgent = p.urgent := rfl

@[simp] theorem onShare_normal (k : SetNo) (f : ShareRecord → ShareRecord) : (onShare k f p).normal = p.normal := rfl

@[simp] theorem onShare_fieldTx (k : SetNo) (f : ShareRecord → ShareRecord) : (onShare k f p).fieldTx = p.fieldTx := rfl

@[simp] theorem onShare_feedback (k : SetNo) (f : ShareRecord → ShareRecord) : (onShare k f p).feedback = p.feedback := rfl

@[simp] theorem onShare_nextOrder (k : SetNo) (f : ShareRecord → ShareRecord) : (onShare k f p).nextOrder = p.nextOrder := rfl

@[simp] theorem onShare_setImage (k : SetNo) (f : ShareRecord → ShareRecord) : (onShare k f p).setImage = p.setImage := rfl

@[simp] theorem onShare_consumerImage (k : SetNo) (f : ShareRecord → ShareRecord) : (onShare k f p).consumerImage = p.consumerImage := rfl

@[simp] theorem onShare_meterImage (k : SetNo) (f : ShareRecord → ShareRecord) : (onShare k f p).meterImage = p.meterImage := rfl

@[simp] theorem onShare_tieImage (k : SetNo) (f : ShareRecord → ShareRecord) : (onShare k f p).tieImage = p.tieImage := rfl

@[simp] theorem onShare_tieJoins (k : SetNo) (f : ShareRecord → ShareRecord) : (onShare k f p).tieJoins = p.tieJoins := rfl

@[simp] theorem onShare_islandMap (k : SetNo) (f : ShareRecord → ShareRecord) : (onShare k f p).islandMap = p.islandMap := rfl

@[simp] theorem onShare_islands (k : SetNo) (f : ShareRecord → ShareRecord) : (onShare k f p).islands = p.islands := rfl

@[simp] theorem onShare_seq (k : SetNo) (f : ShareRecord → ShareRecord) : (onShare k f p).seq = p.seq := rfl

@[simp] theorem onShare_share (k : SetNo) (f : ShareRecord → ShareRecord) :
    (onShare k f p).share = modifyAt p.share k f := rfl

@[simp] theorem onShare_gov (k : SetNo) (f : ShareRecord → ShareRecord) : (onShare k f p).gov = p.gov := rfl

@[simp] theorem onShare_inFlight (k : SetNo) (f : ShareRecord → ShareRecord) : (onShare k f p).inFlight = p.inFlight := rfl

@[simp] theorem onShare_selection (k : SetNo) (f : ShareRecord → ShareRecord) : (onShare k f p).selection = p.selection := rfl

@[simp] theorem onShare_entry (k : SetNo) (f : ShareRecord → ShareRecord) : (onShare k f p).entry = p.entry := rfl

@[simp] theorem onShare_rawFlags (k : SetNo) (f : ShareRecord → ShareRecord) : (onShare k f p).rawFlags = p.rawFlags := rfl

@[simp] theorem onShare_reports (k : SetNo) (f : ShareRecord → ShareRecord) : (onShare k f p).reports = p.reports := rfl

@[simp] theorem onShare_allowance (k : SetNo) (f : ShareRecord → ShareRecord) : (onShare k f p).allowance = p.allowance := rfl

@[simp] theorem onShare_supRx (k : SetNo) (f : ShareRecord → ShareRecord) : (onShare k f p).supRx = p.supRx := rfl

@[simp] theorem onShare_requests (k : SetNo) (f : ShareRecord → ShareRecord) : (onShare k f p).requests = p.requests := rfl

@[simp] theorem onShare_busyList (k : SetNo) (f : ShareRecord → ShareRecord) : (onShare k f p).busyList = p.busyList := rfl

@[simp] theorem onShare_replies (k : SetNo) (f : ShareRecord → ShareRecord) : (onShare k f p).replies = p.replies := rfl

@[simp] theorem onShare_supTx (k : SetNo) (f : ShareRecord → ShareRecord) : (onShare k f p).supTx = p.supTx := rfl

@[simp] theorem onShare_restarting (k : SetNo) (f : ShareRecord → ShareRecord) : (onShare k f p).restarting = p.restarting := rfl

@[simp] theorem onShare_nextRequest (k : SetNo) (f : ShareRecord → ShareRecord) : (onShare k f p).nextRequest = p.nextRequest := rfl

/-! ### `onGov` -/

@[simp] theorem onGov_powered (k : SetNo) (f : GovRecord → GovRecord) : (onGov k f p).powered = p.powered := rfl

@[simp] theorem onGov_resetAsserted (k : SetNo) (f : GovRecord → GovRecord) : (onGov k f p).resetAsserted = p.resetAsserted := rfl

@[simp] theorem onGov_store (k : SetNo) (f : GovRecord → GovRecord) : (onGov k f p).store = p.store := rfl

@[simp] theorem onGov_cfg (k : SetNo) (f : GovRecord → GovRecord) : (onGov k f p).cfg = p.cfg := rfl

@[simp] theorem onGov_rate (k : SetNo) (f : GovRecord → GovRecord) : (onGov k f p).rate = p.rate := rfl

@[simp] theorem onGov_clock (k : SetNo) (f : GovRecord → GovRecord) : (onGov k f p).clock = p.clock := rfl

@[simp] theorem onGov_phase (k : SetNo) (f : GovRecord → GovRecord) : (onGov k f p).phase = p.phase := rfl

@[simp] theorem onGov_acquireAt (k : SetNo) (f : GovRecord → GovRecord) : (onGov k f p).acquireAt = p.acquireAt := rfl

@[simp] theorem onGov_fieldRx (k : SetNo) (f : GovRecord → GovRecord) : (onGov k f p).fieldRx = p.fieldRx := rfl

@[simp] theorem onGov_urgent (k : SetNo) (f : GovRecord → GovRecord) : (onGov k f p).urgent = p.urgent := rfl

@[simp] theorem onGov_normal (k : SetNo) (f : GovRecord → GovRecord) : (onGov k f p).normal = p.normal := rfl

@[simp] theorem onGov_fieldTx (k : SetNo) (f : GovRecord → GovRecord) : (onGov k f p).fieldTx = p.fieldTx := rfl

@[simp] theorem onGov_feedback (k : SetNo) (f : GovRecord → GovRecord) : (onGov k f p).feedback = p.feedback := rfl

@[simp] theorem onGov_nextOrder (k : SetNo) (f : GovRecord → GovRecord) : (onGov k f p).nextOrder = p.nextOrder := rfl

@[simp] theorem onGov_setImage (k : SetNo) (f : GovRecord → GovRecord) : (onGov k f p).setImage = p.setImage := rfl

@[simp] theorem onGov_consumerImage (k : SetNo) (f : GovRecord → GovRecord) : (onGov k f p).consumerImage = p.consumerImage := rfl

@[simp] theorem onGov_meterImage (k : SetNo) (f : GovRecord → GovRecord) : (onGov k f p).meterImage = p.meterImage := rfl

@[simp] theorem onGov_tieImage (k : SetNo) (f : GovRecord → GovRecord) : (onGov k f p).tieImage = p.tieImage := rfl

@[simp] theorem onGov_tieJoins (k : SetNo) (f : GovRecord → GovRecord) : (onGov k f p).tieJoins = p.tieJoins := rfl

@[simp] theorem onGov_islandMap (k : SetNo) (f : GovRecord → GovRecord) : (onGov k f p).islandMap = p.islandMap := rfl

@[simp] theorem onGov_islands (k : SetNo) (f : GovRecord → GovRecord) : (onGov k f p).islands = p.islands := rfl

@[simp] theorem onGov_seq (k : SetNo) (f : GovRecord → GovRecord) : (onGov k f p).seq = p.seq := rfl

@[simp] theorem onGov_share (k : SetNo) (f : GovRecord → GovRecord) : (onGov k f p).share = p.share := rfl

@[simp] theorem onGov_gov (k : SetNo) (f : GovRecord → GovRecord) :
    (onGov k f p).gov = modifyAt p.gov k f := rfl

@[simp] theorem onGov_inFlight (k : SetNo) (f : GovRecord → GovRecord) : (onGov k f p).inFlight = p.inFlight := rfl

@[simp] theorem onGov_selection (k : SetNo) (f : GovRecord → GovRecord) : (onGov k f p).selection = p.selection := rfl

@[simp] theorem onGov_entry (k : SetNo) (f : GovRecord → GovRecord) : (onGov k f p).entry = p.entry := rfl

@[simp] theorem onGov_rawFlags (k : SetNo) (f : GovRecord → GovRecord) : (onGov k f p).rawFlags = p.rawFlags := rfl

@[simp] theorem onGov_reports (k : SetNo) (f : GovRecord → GovRecord) : (onGov k f p).reports = p.reports := rfl

@[simp] theorem onGov_allowance (k : SetNo) (f : GovRecord → GovRecord) : (onGov k f p).allowance = p.allowance := rfl

@[simp] theorem onGov_supRx (k : SetNo) (f : GovRecord → GovRecord) : (onGov k f p).supRx = p.supRx := rfl

@[simp] theorem onGov_requests (k : SetNo) (f : GovRecord → GovRecord) : (onGov k f p).requests = p.requests := rfl

@[simp] theorem onGov_busyList (k : SetNo) (f : GovRecord → GovRecord) : (onGov k f p).busyList = p.busyList := rfl

@[simp] theorem onGov_replies (k : SetNo) (f : GovRecord → GovRecord) : (onGov k f p).replies = p.replies := rfl

@[simp] theorem onGov_supTx (k : SetNo) (f : GovRecord → GovRecord) : (onGov k f p).supTx = p.supTx := rfl

@[simp] theorem onGov_restarting (k : SetNo) (f : GovRecord → GovRecord) : (onGov k f p).restarting = p.restarting := rfl

@[simp] theorem onGov_nextRequest (k : SetNo) (f : GovRecord → GovRecord) : (onGov k f p).nextRequest = p.nextRequest := rfl

/-! ### `onSetImage` -/

@[simp] theorem onSetImage_powered (k : SetNo) (f : SetImage → SetImage) : (onSetImage k f p).powered = p.powered := rfl

@[simp] theorem onSetImage_resetAsserted (k : SetNo) (f : SetImage → SetImage) : (onSetImage k f p).resetAsserted = p.resetAsserted := rfl

@[simp] theorem onSetImage_store (k : SetNo) (f : SetImage → SetImage) : (onSetImage k f p).store = p.store := rfl

@[simp] theorem onSetImage_cfg (k : SetNo) (f : SetImage → SetImage) : (onSetImage k f p).cfg = p.cfg := rfl

@[simp] theorem onSetImage_rate (k : SetNo) (f : SetImage → SetImage) : (onSetImage k f p).rate = p.rate := rfl

@[simp] theorem onSetImage_clock (k : SetNo) (f : SetImage → SetImage) : (onSetImage k f p).clock = p.clock := rfl

@[simp] theorem onSetImage_phase (k : SetNo) (f : SetImage → SetImage) : (onSetImage k f p).phase = p.phase := rfl

@[simp] theorem onSetImage_acquireAt (k : SetNo) (f : SetImage → SetImage) : (onSetImage k f p).acquireAt = p.acquireAt := rfl

@[simp] theorem onSetImage_fieldRx (k : SetNo) (f : SetImage → SetImage) : (onSetImage k f p).fieldRx = p.fieldRx := rfl

@[simp] theorem onSetImage_urgent (k : SetNo) (f : SetImage → SetImage) : (onSetImage k f p).urgent = p.urgent := rfl

@[simp] theorem onSetImage_normal (k : SetNo) (f : SetImage → SetImage) : (onSetImage k f p).normal = p.normal := rfl

@[simp] theorem onSetImage_fieldTx (k : SetNo) (f : SetImage → SetImage) : (onSetImage k f p).fieldTx = p.fieldTx := rfl

@[simp] theorem onSetImage_feedback (k : SetNo) (f : SetImage → SetImage) : (onSetImage k f p).feedback = p.feedback := rfl

@[simp] theorem onSetImage_nextOrder (k : SetNo) (f : SetImage → SetImage) : (onSetImage k f p).nextOrder = p.nextOrder := rfl

@[simp] theorem onSetImage_setImage (k : SetNo) (f : SetImage → SetImage) :
    (onSetImage k f p).setImage = modifyAt p.setImage k f := rfl

@[simp] theorem onSetImage_consumerImage (k : SetNo) (f : SetImage → SetImage) : (onSetImage k f p).consumerImage = p.consumerImage := rfl

@[simp] theorem onSetImage_meterImage (k : SetNo) (f : SetImage → SetImage) : (onSetImage k f p).meterImage = p.meterImage := rfl

@[simp] theorem onSetImage_tieImage (k : SetNo) (f : SetImage → SetImage) : (onSetImage k f p).tieImage = p.tieImage := rfl

@[simp] theorem onSetImage_tieJoins (k : SetNo) (f : SetImage → SetImage) : (onSetImage k f p).tieJoins = p.tieJoins := rfl

@[simp] theorem onSetImage_islandMap (k : SetNo) (f : SetImage → SetImage) : (onSetImage k f p).islandMap = p.islandMap := rfl

@[simp] theorem onSetImage_islands (k : SetNo) (f : SetImage → SetImage) : (onSetImage k f p).islands = p.islands := rfl

@[simp] theorem onSetImage_seq (k : SetNo) (f : SetImage → SetImage) : (onSetImage k f p).seq = p.seq := rfl

@[simp] theorem onSetImage_share (k : SetNo) (f : SetImage → SetImage) : (onSetImage k f p).share = p.share := rfl

@[simp] theorem onSetImage_gov (k : SetNo) (f : SetImage → SetImage) : (onSetImage k f p).gov = p.gov := rfl

@[simp] theorem onSetImage_inFlight (k : SetNo) (f : SetImage → SetImage) : (onSetImage k f p).inFlight = p.inFlight := rfl

@[simp] theorem onSetImage_selection (k : SetNo) (f : SetImage → SetImage) : (onSetImage k f p).selection = p.selection := rfl

@[simp] theorem onSetImage_entry (k : SetNo) (f : SetImage → SetImage) : (onSetImage k f p).entry = p.entry := rfl

@[simp] theorem onSetImage_rawFlags (k : SetNo) (f : SetImage → SetImage) : (onSetImage k f p).rawFlags = p.rawFlags := rfl

@[simp] theorem onSetImage_reports (k : SetNo) (f : SetImage → SetImage) : (onSetImage k f p).reports = p.reports := rfl

@[simp] theorem onSetImage_allowance (k : SetNo) (f : SetImage → SetImage) : (onSetImage k f p).allowance = p.allowance := rfl

@[simp] theorem onSetImage_supRx (k : SetNo) (f : SetImage → SetImage) : (onSetImage k f p).supRx = p.supRx := rfl

@[simp] theorem onSetImage_requests (k : SetNo) (f : SetImage → SetImage) : (onSetImage k f p).requests = p.requests := rfl

@[simp] theorem onSetImage_busyList (k : SetNo) (f : SetImage → SetImage) : (onSetImage k f p).busyList = p.busyList := rfl

@[simp] theorem onSetImage_replies (k : SetNo) (f : SetImage → SetImage) : (onSetImage k f p).replies = p.replies := rfl

@[simp] theorem onSetImage_supTx (k : SetNo) (f : SetImage → SetImage) : (onSetImage k f p).supTx = p.supTx := rfl

@[simp] theorem onSetImage_restarting (k : SetNo) (f : SetImage → SetImage) : (onSetImage k f p).restarting = p.restarting := rfl

@[simp] theorem onSetImage_nextRequest (k : SetNo) (f : SetImage → SetImage) : (onSetImage k f p).nextRequest = p.nextRequest := rfl

/-! ### `onConsumerImage` -/

@[simp] theorem onConsumerImage_powered (c : ConsumerNo) (f : ConsumerImage → ConsumerImage) : (onConsumerImage c f p).powered = p.powered := rfl

@[simp] theorem onConsumerImage_resetAsserted (c : ConsumerNo) (f : ConsumerImage → ConsumerImage) : (onConsumerImage c f p).resetAsserted = p.resetAsserted := rfl

@[simp] theorem onConsumerImage_store (c : ConsumerNo) (f : ConsumerImage → ConsumerImage) : (onConsumerImage c f p).store = p.store := rfl

@[simp] theorem onConsumerImage_cfg (c : ConsumerNo) (f : ConsumerImage → ConsumerImage) : (onConsumerImage c f p).cfg = p.cfg := rfl

@[simp] theorem onConsumerImage_rate (c : ConsumerNo) (f : ConsumerImage → ConsumerImage) : (onConsumerImage c f p).rate = p.rate := rfl

@[simp] theorem onConsumerImage_clock (c : ConsumerNo) (f : ConsumerImage → ConsumerImage) : (onConsumerImage c f p).clock = p.clock := rfl

@[simp] theorem onConsumerImage_phase (c : ConsumerNo) (f : ConsumerImage → ConsumerImage) : (onConsumerImage c f p).phase = p.phase := rfl

@[simp] theorem onConsumerImage_acquireAt (c : ConsumerNo) (f : ConsumerImage → ConsumerImage) : (onConsumerImage c f p).acquireAt = p.acquireAt := rfl

@[simp] theorem onConsumerImage_fieldRx (c : ConsumerNo) (f : ConsumerImage → ConsumerImage) : (onConsumerImage c f p).fieldRx = p.fieldRx := rfl

@[simp] theorem onConsumerImage_urgent (c : ConsumerNo) (f : ConsumerImage → ConsumerImage) : (onConsumerImage c f p).urgent = p.urgent := rfl

@[simp] theorem onConsumerImage_normal (c : ConsumerNo) (f : ConsumerImage → ConsumerImage) : (onConsumerImage c f p).normal = p.normal := rfl

@[simp] theorem onConsumerImage_fieldTx (c : ConsumerNo) (f : ConsumerImage → ConsumerImage) : (onConsumerImage c f p).fieldTx = p.fieldTx := rfl

@[simp] theorem onConsumerImage_feedback (c : ConsumerNo) (f : ConsumerImage → ConsumerImage) : (onConsumerImage c f p).feedback = p.feedback := rfl

@[simp] theorem onConsumerImage_nextOrder (c : ConsumerNo) (f : ConsumerImage → ConsumerImage) : (onConsumerImage c f p).nextOrder = p.nextOrder := rfl

@[simp] theorem onConsumerImage_setImage (c : ConsumerNo) (f : ConsumerImage → ConsumerImage) : (onConsumerImage c f p).setImage = p.setImage := rfl

@[simp] theorem onConsumerImage_consumerImage (c : ConsumerNo) (f : ConsumerImage → ConsumerImage) :
    (onConsumerImage c f p).consumerImage = modifyAt p.consumerImage c f := rfl

@[simp] theorem onConsumerImage_meterImage (c : ConsumerNo) (f : ConsumerImage → ConsumerImage) : (onConsumerImage c f p).meterImage = p.meterImage := rfl

@[simp] theorem onConsumerImage_tieImage (c : ConsumerNo) (f : ConsumerImage → ConsumerImage) : (onConsumerImage c f p).tieImage = p.tieImage := rfl

@[simp] theorem onConsumerImage_tieJoins (c : ConsumerNo) (f : ConsumerImage → ConsumerImage) : (onConsumerImage c f p).tieJoins = p.tieJoins := rfl

@[simp] theorem onConsumerImage_islandMap (c : ConsumerNo) (f : ConsumerImage → ConsumerImage) : (onConsumerImage c f p).islandMap = p.islandMap := rfl

@[simp] theorem onConsumerImage_islands (c : ConsumerNo) (f : ConsumerImage → ConsumerImage) : (onConsumerImage c f p).islands = p.islands := rfl

@[simp] theorem onConsumerImage_seq (c : ConsumerNo) (f : ConsumerImage → ConsumerImage) : (onConsumerImage c f p).seq = p.seq := rfl

@[simp] theorem onConsumerImage_share (c : ConsumerNo) (f : ConsumerImage → ConsumerImage) : (onConsumerImage c f p).share = p.share := rfl

@[simp] theorem onConsumerImage_gov (c : ConsumerNo) (f : ConsumerImage → ConsumerImage) : (onConsumerImage c f p).gov = p.gov := rfl

@[simp] theorem onConsumerImage_inFlight (c : ConsumerNo) (f : ConsumerImage → ConsumerImage) : (onConsumerImage c f p).inFlight = p.inFlight := rfl

@[simp] theorem onConsumerImage_selection (c : ConsumerNo) (f : ConsumerImage → ConsumerImage) : (onConsumerImage c f p).selection = p.selection := rfl

@[simp] theorem onConsumerImage_entry (c : ConsumerNo) (f : ConsumerImage → ConsumerImage) : (onConsumerImage c f p).entry = p.entry := rfl

@[simp] theorem onConsumerImage_rawFlags (c : ConsumerNo) (f : ConsumerImage → ConsumerImage) : (onConsumerImage c f p).rawFlags = p.rawFlags := rfl

@[simp] theorem onConsumerImage_reports (c : ConsumerNo) (f : ConsumerImage → ConsumerImage) : (onConsumerImage c f p).reports = p.reports := rfl

@[simp] theorem onConsumerImage_allowance (c : ConsumerNo) (f : ConsumerImage → ConsumerImage) : (onConsumerImage c f p).allowance = p.allowance := rfl

@[simp] theorem onConsumerImage_supRx (c : ConsumerNo) (f : ConsumerImage → ConsumerImage) : (onConsumerImage c f p).supRx = p.supRx := rfl

@[simp] theorem onConsumerImage_requests (c : ConsumerNo) (f : ConsumerImage → ConsumerImage) : (onConsumerImage c f p).requests = p.requests := rfl

@[simp] theorem onConsumerImage_busyList (c : ConsumerNo) (f : ConsumerImage → ConsumerImage) : (onConsumerImage c f p).busyList = p.busyList := rfl

@[simp] theorem onConsumerImage_replies (c : ConsumerNo) (f : ConsumerImage → ConsumerImage) : (onConsumerImage c f p).replies = p.replies := rfl

@[simp] theorem onConsumerImage_supTx (c : ConsumerNo) (f : ConsumerImage → ConsumerImage) : (onConsumerImage c f p).supTx = p.supTx := rfl

@[simp] theorem onConsumerImage_restarting (c : ConsumerNo) (f : ConsumerImage → ConsumerImage) : (onConsumerImage c f p).restarting = p.restarting := rfl

@[simp] theorem onConsumerImage_nextRequest (c : ConsumerNo) (f : ConsumerImage → ConsumerImage) : (onConsumerImage c f p).nextRequest = p.nextRequest := rfl

/-! ### `onMeterImage` -/

@[simp] theorem onMeterImage_powered (m : SectionNo) (f : MeterImage → MeterImage) : (onMeterImage m f p).powered = p.powered := rfl

@[simp] theorem onMeterImage_resetAsserted (m : SectionNo) (f : MeterImage → MeterImage) : (onMeterImage m f p).resetAsserted = p.resetAsserted := rfl

@[simp] theorem onMeterImage_store (m : SectionNo) (f : MeterImage → MeterImage) : (onMeterImage m f p).store = p.store := rfl

@[simp] theorem onMeterImage_cfg (m : SectionNo) (f : MeterImage → MeterImage) : (onMeterImage m f p).cfg = p.cfg := rfl

@[simp] theorem onMeterImage_rate (m : SectionNo) (f : MeterImage → MeterImage) : (onMeterImage m f p).rate = p.rate := rfl

@[simp] theorem onMeterImage_clock (m : SectionNo) (f : MeterImage → MeterImage) : (onMeterImage m f p).clock = p.clock := rfl

@[simp] theorem onMeterImage_phase (m : SectionNo) (f : MeterImage → MeterImage) : (onMeterImage m f p).phase = p.phase := rfl

@[simp] theorem onMeterImage_acquireAt (m : SectionNo) (f : MeterImage → MeterImage) : (onMeterImage m f p).acquireAt = p.acquireAt := rfl

@[simp] theorem onMeterImage_fieldRx (m : SectionNo) (f : MeterImage → MeterImage) : (onMeterImage m f p).fieldRx = p.fieldRx := rfl

@[simp] theorem onMeterImage_urgent (m : SectionNo) (f : MeterImage → MeterImage) : (onMeterImage m f p).urgent = p.urgent := rfl

@[simp] theorem onMeterImage_normal (m : SectionNo) (f : MeterImage → MeterImage) : (onMeterImage m f p).normal = p.normal := rfl

@[simp] theorem onMeterImage_fieldTx (m : SectionNo) (f : MeterImage → MeterImage) : (onMeterImage m f p).fieldTx = p.fieldTx := rfl

@[simp] theorem onMeterImage_feedback (m : SectionNo) (f : MeterImage → MeterImage) : (onMeterImage m f p).feedback = p.feedback := rfl

@[simp] theorem onMeterImage_nextOrder (m : SectionNo) (f : MeterImage → MeterImage) : (onMeterImage m f p).nextOrder = p.nextOrder := rfl

@[simp] theorem onMeterImage_setImage (m : SectionNo) (f : MeterImage → MeterImage) : (onMeterImage m f p).setImage = p.setImage := rfl

@[simp] theorem onMeterImage_consumerImage (m : SectionNo) (f : MeterImage → MeterImage) : (onMeterImage m f p).consumerImage = p.consumerImage := rfl

@[simp] theorem onMeterImage_meterImage (m : SectionNo) (f : MeterImage → MeterImage) :
    (onMeterImage m f p).meterImage = modifyAt p.meterImage m f := rfl

@[simp] theorem onMeterImage_tieImage (m : SectionNo) (f : MeterImage → MeterImage) : (onMeterImage m f p).tieImage = p.tieImage := rfl

@[simp] theorem onMeterImage_tieJoins (m : SectionNo) (f : MeterImage → MeterImage) : (onMeterImage m f p).tieJoins = p.tieJoins := rfl

@[simp] theorem onMeterImage_islandMap (m : SectionNo) (f : MeterImage → MeterImage) : (onMeterImage m f p).islandMap = p.islandMap := rfl

@[simp] theorem onMeterImage_islands (m : SectionNo) (f : MeterImage → MeterImage) : (onMeterImage m f p).islands = p.islands := rfl

@[simp] theorem onMeterImage_seq (m : SectionNo) (f : MeterImage → MeterImage) : (onMeterImage m f p).seq = p.seq := rfl

@[simp] theorem onMeterImage_share (m : SectionNo) (f : MeterImage → MeterImage) : (onMeterImage m f p).share = p.share := rfl

@[simp] theorem onMeterImage_gov (m : SectionNo) (f : MeterImage → MeterImage) : (onMeterImage m f p).gov = p.gov := rfl

@[simp] theorem onMeterImage_inFlight (m : SectionNo) (f : MeterImage → MeterImage) : (onMeterImage m f p).inFlight = p.inFlight := rfl

@[simp] theorem onMeterImage_selection (m : SectionNo) (f : MeterImage → MeterImage) : (onMeterImage m f p).selection = p.selection := rfl

@[simp] theorem onMeterImage_entry (m : SectionNo) (f : MeterImage → MeterImage) : (onMeterImage m f p).entry = p.entry := rfl

@[simp] theorem onMeterImage_rawFlags (m : SectionNo) (f : MeterImage → MeterImage) : (onMeterImage m f p).rawFlags = p.rawFlags := rfl

@[simp] theorem onMeterImage_reports (m : SectionNo) (f : MeterImage → MeterImage) : (onMeterImage m f p).reports = p.reports := rfl

@[simp] theorem onMeterImage_allowance (m : SectionNo) (f : MeterImage → MeterImage) : (onMeterImage m f p).allowance = p.allowance := rfl

@[simp] theorem onMeterImage_supRx (m : SectionNo) (f : MeterImage → MeterImage) : (onMeterImage m f p).supRx = p.supRx := rfl

@[simp] theorem onMeterImage_requests (m : SectionNo) (f : MeterImage → MeterImage) : (onMeterImage m f p).requests = p.requests := rfl

@[simp] theorem onMeterImage_busyList (m : SectionNo) (f : MeterImage → MeterImage) : (onMeterImage m f p).busyList = p.busyList := rfl

@[simp] theorem onMeterImage_replies (m : SectionNo) (f : MeterImage → MeterImage) : (onMeterImage m f p).replies = p.replies := rfl

@[simp] theorem onMeterImage_supTx (m : SectionNo) (f : MeterImage → MeterImage) : (onMeterImage m f p).supTx = p.supTx := rfl

@[simp] theorem onMeterImage_restarting (m : SectionNo) (f : MeterImage → MeterImage) : (onMeterImage m f p).restarting = p.restarting := rfl

@[simp] theorem onMeterImage_nextRequest (m : SectionNo) (f : MeterImage → MeterImage) : (onMeterImage m f p).nextRequest = p.nextRequest := rfl

/-! ### `onTieImage` -/

@[simp] theorem onTieImage_powered (t : TieNo) (f : TieImage → TieImage) : (onTieImage t f p).powered = p.powered := rfl

@[simp] theorem onTieImage_resetAsserted (t : TieNo) (f : TieImage → TieImage) : (onTieImage t f p).resetAsserted = p.resetAsserted := rfl

@[simp] theorem onTieImage_store (t : TieNo) (f : TieImage → TieImage) : (onTieImage t f p).store = p.store := rfl

@[simp] theorem onTieImage_cfg (t : TieNo) (f : TieImage → TieImage) : (onTieImage t f p).cfg = p.cfg := rfl

@[simp] theorem onTieImage_rate (t : TieNo) (f : TieImage → TieImage) : (onTieImage t f p).rate = p.rate := rfl

@[simp] theorem onTieImage_clock (t : TieNo) (f : TieImage → TieImage) : (onTieImage t f p).clock = p.clock := rfl

@[simp] theorem onTieImage_phase (t : TieNo) (f : TieImage → TieImage) : (onTieImage t f p).phase = p.phase := rfl

@[simp] theorem onTieImage_acquireAt (t : TieNo) (f : TieImage → TieImage) : (onTieImage t f p).acquireAt = p.acquireAt := rfl

@[simp] theorem onTieImage_fieldRx (t : TieNo) (f : TieImage → TieImage) : (onTieImage t f p).fieldRx = p.fieldRx := rfl

@[simp] theorem onTieImage_urgent (t : TieNo) (f : TieImage → TieImage) : (onTieImage t f p).urgent = p.urgent := rfl

@[simp] theorem onTieImage_normal (t : TieNo) (f : TieImage → TieImage) : (onTieImage t f p).normal = p.normal := rfl

@[simp] theorem onTieImage_fieldTx (t : TieNo) (f : TieImage → TieImage) : (onTieImage t f p).fieldTx = p.fieldTx := rfl

@[simp] theorem onTieImage_feedback (t : TieNo) (f : TieImage → TieImage) : (onTieImage t f p).feedback = p.feedback := rfl

@[simp] theorem onTieImage_nextOrder (t : TieNo) (f : TieImage → TieImage) : (onTieImage t f p).nextOrder = p.nextOrder := rfl

@[simp] theorem onTieImage_setImage (t : TieNo) (f : TieImage → TieImage) : (onTieImage t f p).setImage = p.setImage := rfl

@[simp] theorem onTieImage_consumerImage (t : TieNo) (f : TieImage → TieImage) : (onTieImage t f p).consumerImage = p.consumerImage := rfl

@[simp] theorem onTieImage_meterImage (t : TieNo) (f : TieImage → TieImage) : (onTieImage t f p).meterImage = p.meterImage := rfl

@[simp] theorem onTieImage_tieImage (t : TieNo) (f : TieImage → TieImage) :
    (onTieImage t f p).tieImage = modifyAt p.tieImage t f := rfl

@[simp] theorem onTieImage_tieJoins (t : TieNo) (f : TieImage → TieImage) : (onTieImage t f p).tieJoins = p.tieJoins := rfl

@[simp] theorem onTieImage_islandMap (t : TieNo) (f : TieImage → TieImage) : (onTieImage t f p).islandMap = p.islandMap := rfl

@[simp] theorem onTieImage_islands (t : TieNo) (f : TieImage → TieImage) : (onTieImage t f p).islands = p.islands := rfl

@[simp] theorem onTieImage_seq (t : TieNo) (f : TieImage → TieImage) : (onTieImage t f p).seq = p.seq := rfl

@[simp] theorem onTieImage_share (t : TieNo) (f : TieImage → TieImage) : (onTieImage t f p).share = p.share := rfl

@[simp] theorem onTieImage_gov (t : TieNo) (f : TieImage → TieImage) : (onTieImage t f p).gov = p.gov := rfl

@[simp] theorem onTieImage_inFlight (t : TieNo) (f : TieImage → TieImage) : (onTieImage t f p).inFlight = p.inFlight := rfl

@[simp] theorem onTieImage_selection (t : TieNo) (f : TieImage → TieImage) : (onTieImage t f p).selection = p.selection := rfl

@[simp] theorem onTieImage_entry (t : TieNo) (f : TieImage → TieImage) : (onTieImage t f p).entry = p.entry := rfl

@[simp] theorem onTieImage_rawFlags (t : TieNo) (f : TieImage → TieImage) : (onTieImage t f p).rawFlags = p.rawFlags := rfl

@[simp] theorem onTieImage_reports (t : TieNo) (f : TieImage → TieImage) : (onTieImage t f p).reports = p.reports := rfl

@[simp] theorem onTieImage_allowance (t : TieNo) (f : TieImage → TieImage) : (onTieImage t f p).allowance = p.allowance := rfl

@[simp] theorem onTieImage_supRx (t : TieNo) (f : TieImage → TieImage) : (onTieImage t f p).supRx = p.supRx := rfl

@[simp] theorem onTieImage_requests (t : TieNo) (f : TieImage → TieImage) : (onTieImage t f p).requests = p.requests := rfl

@[simp] theorem onTieImage_busyList (t : TieNo) (f : TieImage → TieImage) : (onTieImage t f p).busyList = p.busyList := rfl

@[simp] theorem onTieImage_replies (t : TieNo) (f : TieImage → TieImage) : (onTieImage t f p).replies = p.replies := rfl

@[simp] theorem onTieImage_supTx (t : TieNo) (f : TieImage → TieImage) : (onTieImage t f p).supTx = p.supTx := rfl

@[simp] theorem onTieImage_restarting (t : TieNo) (f : TieImage → TieImage) : (onTieImage t f p).restarting = p.restarting := rfl

@[simp] theorem onTieImage_nextRequest (t : TieNo) (f : TieImage → TieImage) : (onTieImage t f p).nextRequest = p.nextRequest := rfl

/-! ### `onEntry` -/

@[simp] theorem onEntry_powered (c : ConsumerNo) (f : EntryRecord → EntryRecord) : (onEntry c f p).powered = p.powered := rfl

@[simp] theorem onEntry_resetAsserted (c : ConsumerNo) (f : EntryRecord → EntryRecord) : (onEntry c f p).resetAsserted = p.resetAsserted := rfl

@[simp] theorem onEntry_store (c : ConsumerNo) (f : EntryRecord → EntryRecord) : (onEntry c f p).store = p.store := rfl

@[simp] theorem onEntry_cfg (c : ConsumerNo) (f : EntryRecord → EntryRecord) : (onEntry c f p).cfg = p.cfg := rfl

@[simp] theorem onEntry_rate (c : ConsumerNo) (f : EntryRecord → EntryRecord) : (onEntry c f p).rate = p.rate := rfl

@[simp] theorem onEntry_clock (c : ConsumerNo) (f : EntryRecord → EntryRecord) : (onEntry c f p).clock = p.clock := rfl

@[simp] theorem onEntry_phase (c : ConsumerNo) (f : EntryRecord → EntryRecord) : (onEntry c f p).phase = p.phase := rfl

@[simp] theorem onEntry_acquireAt (c : ConsumerNo) (f : EntryRecord → EntryRecord) : (onEntry c f p).acquireAt = p.acquireAt := rfl

@[simp] theorem onEntry_fieldRx (c : ConsumerNo) (f : EntryRecord → EntryRecord) : (onEntry c f p).fieldRx = p.fieldRx := rfl

@[simp] theorem onEntry_urgent (c : ConsumerNo) (f : EntryRecord → EntryRecord) : (onEntry c f p).urgent = p.urgent := rfl

@[simp] theorem onEntry_normal (c : ConsumerNo) (f : EntryRecord → EntryRecord) : (onEntry c f p).normal = p.normal := rfl

@[simp] theorem onEntry_fieldTx (c : ConsumerNo) (f : EntryRecord → EntryRecord) : (onEntry c f p).fieldTx = p.fieldTx := rfl

@[simp] theorem onEntry_feedback (c : ConsumerNo) (f : EntryRecord → EntryRecord) : (onEntry c f p).feedback = p.feedback := rfl

@[simp] theorem onEntry_nextOrder (c : ConsumerNo) (f : EntryRecord → EntryRecord) : (onEntry c f p).nextOrder = p.nextOrder := rfl

@[simp] theorem onEntry_setImage (c : ConsumerNo) (f : EntryRecord → EntryRecord) : (onEntry c f p).setImage = p.setImage := rfl

@[simp] theorem onEntry_consumerImage (c : ConsumerNo) (f : EntryRecord → EntryRecord) : (onEntry c f p).consumerImage = p.consumerImage := rfl

@[simp] theorem onEntry_meterImage (c : ConsumerNo) (f : EntryRecord → EntryRecord) : (onEntry c f p).meterImage = p.meterImage := rfl

@[simp] theorem onEntry_tieImage (c : ConsumerNo) (f : EntryRecord → EntryRecord) : (onEntry c f p).tieImage = p.tieImage := rfl

@[simp] theorem onEntry_tieJoins (c : ConsumerNo) (f : EntryRecord → EntryRecord) : (onEntry c f p).tieJoins = p.tieJoins := rfl

@[simp] theorem onEntry_islandMap (c : ConsumerNo) (f : EntryRecord → EntryRecord) : (onEntry c f p).islandMap = p.islandMap := rfl

@[simp] theorem onEntry_islands (c : ConsumerNo) (f : EntryRecord → EntryRecord) : (onEntry c f p).islands = p.islands := rfl

@[simp] theorem onEntry_seq (c : ConsumerNo) (f : EntryRecord → EntryRecord) : (onEntry c f p).seq = p.seq := rfl

@[simp] theorem onEntry_share (c : ConsumerNo) (f : EntryRecord → EntryRecord) : (onEntry c f p).share = p.share := rfl

@[simp] theorem onEntry_gov (c : ConsumerNo) (f : EntryRecord → EntryRecord) : (onEntry c f p).gov = p.gov := rfl

@[simp] theorem onEntry_inFlight (c : ConsumerNo) (f : EntryRecord → EntryRecord) : (onEntry c f p).inFlight = p.inFlight := rfl

@[simp] theorem onEntry_selection (c : ConsumerNo) (f : EntryRecord → EntryRecord) : (onEntry c f p).selection = p.selection := rfl

@[simp] theorem onEntry_entry (c : ConsumerNo) (f : EntryRecord → EntryRecord) :
    (onEntry c f p).entry = modifyAt p.entry c f := rfl

@[simp] theorem onEntry_rawFlags (c : ConsumerNo) (f : EntryRecord → EntryRecord) : (onEntry c f p).rawFlags = p.rawFlags := rfl

@[simp] theorem onEntry_reports (c : ConsumerNo) (f : EntryRecord → EntryRecord) : (onEntry c f p).reports = p.reports := rfl

@[simp] theorem onEntry_allowance (c : ConsumerNo) (f : EntryRecord → EntryRecord) : (onEntry c f p).allowance = p.allowance := rfl

@[simp] theorem onEntry_supRx (c : ConsumerNo) (f : EntryRecord → EntryRecord) : (onEntry c f p).supRx = p.supRx := rfl

@[simp] theorem onEntry_requests (c : ConsumerNo) (f : EntryRecord → EntryRecord) : (onEntry c f p).requests = p.requests := rfl

@[simp] theorem onEntry_busyList (c : ConsumerNo) (f : EntryRecord → EntryRecord) : (onEntry c f p).busyList = p.busyList := rfl

@[simp] theorem onEntry_replies (c : ConsumerNo) (f : EntryRecord → EntryRecord) : (onEntry c f p).replies = p.replies := rfl

@[simp] theorem onEntry_supTx (c : ConsumerNo) (f : EntryRecord → EntryRecord) : (onEntry c f p).supTx = p.supTx := rfl

@[simp] theorem onEntry_restarting (c : ConsumerNo) (f : EntryRecord → EntryRecord) : (onEntry c f p).restarting = p.restarting := rfl

@[simp] theorem onEntry_nextRequest (c : ConsumerNo) (f : EntryRecord → EntryRecord) : (onEntry c f p).nextRequest = p.nextRequest := rfl

/-! ### `onSelection` -/

@[simp] theorem onSelection_powered (k : SetNo) (f : SelectionRecord → SelectionRecord) : (onSelection k f p).powered = p.powered := rfl

@[simp] theorem onSelection_resetAsserted (k : SetNo) (f : SelectionRecord → SelectionRecord) : (onSelection k f p).resetAsserted = p.resetAsserted := rfl

@[simp] theorem onSelection_store (k : SetNo) (f : SelectionRecord → SelectionRecord) : (onSelection k f p).store = p.store := rfl

@[simp] theorem onSelection_cfg (k : SetNo) (f : SelectionRecord → SelectionRecord) : (onSelection k f p).cfg = p.cfg := rfl

@[simp] theorem onSelection_rate (k : SetNo) (f : SelectionRecord → SelectionRecord) : (onSelection k f p).rate = p.rate := rfl

@[simp] theorem onSelection_clock (k : SetNo) (f : SelectionRecord → SelectionRecord) : (onSelection k f p).clock = p.clock := rfl

@[simp] theorem onSelection_phase (k : SetNo) (f : SelectionRecord → SelectionRecord) : (onSelection k f p).phase = p.phase := rfl

@[simp] theorem onSelection_acquireAt (k : SetNo) (f : SelectionRecord → SelectionRecord) : (onSelection k f p).acquireAt = p.acquireAt := rfl

@[simp] theorem onSelection_fieldRx (k : SetNo) (f : SelectionRecord → SelectionRecord) : (onSelection k f p).fieldRx = p.fieldRx := rfl

@[simp] theorem onSelection_urgent (k : SetNo) (f : SelectionRecord → SelectionRecord) : (onSelection k f p).urgent = p.urgent := rfl

@[simp] theorem onSelection_normal (k : SetNo) (f : SelectionRecord → SelectionRecord) : (onSelection k f p).normal = p.normal := rfl

@[simp] theorem onSelection_fieldTx (k : SetNo) (f : SelectionRecord → SelectionRecord) : (onSelection k f p).fieldTx = p.fieldTx := rfl

@[simp] theorem onSelection_feedback (k : SetNo) (f : SelectionRecord → SelectionRecord) : (onSelection k f p).feedback = p.feedback := rfl

@[simp] theorem onSelection_nextOrder (k : SetNo) (f : SelectionRecord → SelectionRecord) : (onSelection k f p).nextOrder = p.nextOrder := rfl

@[simp] theorem onSelection_setImage (k : SetNo) (f : SelectionRecord → SelectionRecord) : (onSelection k f p).setImage = p.setImage := rfl

@[simp] theorem onSelection_consumerImage (k : SetNo) (f : SelectionRecord → SelectionRecord) : (onSelection k f p).consumerImage = p.consumerImage := rfl

@[simp] theorem onSelection_meterImage (k : SetNo) (f : SelectionRecord → SelectionRecord) : (onSelection k f p).meterImage = p.meterImage := rfl

@[simp] theorem onSelection_tieImage (k : SetNo) (f : SelectionRecord → SelectionRecord) : (onSelection k f p).tieImage = p.tieImage := rfl

@[simp] theorem onSelection_tieJoins (k : SetNo) (f : SelectionRecord → SelectionRecord) : (onSelection k f p).tieJoins = p.tieJoins := rfl

@[simp] theorem onSelection_islandMap (k : SetNo) (f : SelectionRecord → SelectionRecord) : (onSelection k f p).islandMap = p.islandMap := rfl

@[simp] theorem onSelection_islands (k : SetNo) (f : SelectionRecord → SelectionRecord) : (onSelection k f p).islands = p.islands := rfl

@[simp] theorem onSelection_seq (k : SetNo) (f : SelectionRecord → SelectionRecord) : (onSelection k f p).seq = p.seq := rfl

@[simp] theorem onSelection_share (k : SetNo) (f : SelectionRecord → SelectionRecord) : (onSelection k f p).share = p.share := rfl

@[simp] theorem onSelection_gov (k : SetNo) (f : SelectionRecord → SelectionRecord) : (onSelection k f p).gov = p.gov := rfl

@[simp] theorem onSelection_inFlight (k : SetNo) (f : SelectionRecord → SelectionRecord) : (onSelection k f p).inFlight = p.inFlight := rfl

@[simp] theorem onSelection_selection (k : SetNo) (f : SelectionRecord → SelectionRecord) :
    (onSelection k f p).selection = modifyAt p.selection k f := rfl

@[simp] theorem onSelection_entry (k : SetNo) (f : SelectionRecord → SelectionRecord) : (onSelection k f p).entry = p.entry := rfl

@[simp] theorem onSelection_rawFlags (k : SetNo) (f : SelectionRecord → SelectionRecord) : (onSelection k f p).rawFlags = p.rawFlags := rfl

@[simp] theorem onSelection_reports (k : SetNo) (f : SelectionRecord → SelectionRecord) : (onSelection k f p).reports = p.reports := rfl

@[simp] theorem onSelection_allowance (k : SetNo) (f : SelectionRecord → SelectionRecord) : (onSelection k f p).allowance = p.allowance := rfl

@[simp] theorem onSelection_supRx (k : SetNo) (f : SelectionRecord → SelectionRecord) : (onSelection k f p).supRx = p.supRx := rfl

@[simp] theorem onSelection_requests (k : SetNo) (f : SelectionRecord → SelectionRecord) : (onSelection k f p).requests = p.requests := rfl

@[simp] theorem onSelection_busyList (k : SetNo) (f : SelectionRecord → SelectionRecord) : (onSelection k f p).busyList = p.busyList := rfl

@[simp] theorem onSelection_replies (k : SetNo) (f : SelectionRecord → SelectionRecord) : (onSelection k f p).replies = p.replies := rfl

@[simp] theorem onSelection_supTx (k : SetNo) (f : SelectionRecord → SelectionRecord) : (onSelection k f p).supTx = p.supTx := rfl

@[simp] theorem onSelection_restarting (k : SetNo) (f : SelectionRecord → SelectionRecord) : (onSelection k f p).restarting = p.restarting := rfl

@[simp] theorem onSelection_nextRequest (k : SetNo) (f : SelectionRecord → SelectionRecord) : (onSelection k f p).nextRequest = p.nextRequest := rfl

/-! ### `onIsland` -/

@[simp] theorem onIsland_powered (i : IslandNo) (f : Island → Island) : (onIsland i f p).powered = p.powered := rfl

@[simp] theorem onIsland_resetAsserted (i : IslandNo) (f : Island → Island) : (onIsland i f p).resetAsserted = p.resetAsserted := rfl

@[simp] theorem onIsland_store (i : IslandNo) (f : Island → Island) : (onIsland i f p).store = p.store := rfl

@[simp] theorem onIsland_cfg (i : IslandNo) (f : Island → Island) : (onIsland i f p).cfg = p.cfg := rfl

@[simp] theorem onIsland_rate (i : IslandNo) (f : Island → Island) : (onIsland i f p).rate = p.rate := rfl

@[simp] theorem onIsland_clock (i : IslandNo) (f : Island → Island) : (onIsland i f p).clock = p.clock := rfl

@[simp] theorem onIsland_phase (i : IslandNo) (f : Island → Island) : (onIsland i f p).phase = p.phase := rfl

@[simp] theorem onIsland_acquireAt (i : IslandNo) (f : Island → Island) : (onIsland i f p).acquireAt = p.acquireAt := rfl

@[simp] theorem onIsland_fieldRx (i : IslandNo) (f : Island → Island) : (onIsland i f p).fieldRx = p.fieldRx := rfl

@[simp] theorem onIsland_urgent (i : IslandNo) (f : Island → Island) : (onIsland i f p).urgent = p.urgent := rfl

@[simp] theorem onIsland_normal (i : IslandNo) (f : Island → Island) : (onIsland i f p).normal = p.normal := rfl

@[simp] theorem onIsland_fieldTx (i : IslandNo) (f : Island → Island) : (onIsland i f p).fieldTx = p.fieldTx := rfl

@[simp] theorem onIsland_feedback (i : IslandNo) (f : Island → Island) : (onIsland i f p).feedback = p.feedback := rfl

@[simp] theorem onIsland_nextOrder (i : IslandNo) (f : Island → Island) : (onIsland i f p).nextOrder = p.nextOrder := rfl

@[simp] theorem onIsland_setImage (i : IslandNo) (f : Island → Island) : (onIsland i f p).setImage = p.setImage := rfl

@[simp] theorem onIsland_consumerImage (i : IslandNo) (f : Island → Island) : (onIsland i f p).consumerImage = p.consumerImage := rfl

@[simp] theorem onIsland_meterImage (i : IslandNo) (f : Island → Island) : (onIsland i f p).meterImage = p.meterImage := rfl

@[simp] theorem onIsland_tieImage (i : IslandNo) (f : Island → Island) : (onIsland i f p).tieImage = p.tieImage := rfl

@[simp] theorem onIsland_tieJoins (i : IslandNo) (f : Island → Island) : (onIsland i f p).tieJoins = p.tieJoins := rfl

@[simp] theorem onIsland_islandMap (i : IslandNo) (f : Island → Island) : (onIsland i f p).islandMap = p.islandMap := rfl

@[simp] theorem onIsland_islands (i : IslandNo) (f : Island → Island) :
    (onIsland i f p).islands = modifyAt p.islands i (Option.map f) := rfl

@[simp] theorem onIsland_seq (i : IslandNo) (f : Island → Island) : (onIsland i f p).seq = p.seq := rfl

@[simp] theorem onIsland_share (i : IslandNo) (f : Island → Island) : (onIsland i f p).share = p.share := rfl

@[simp] theorem onIsland_gov (i : IslandNo) (f : Island → Island) : (onIsland i f p).gov = p.gov := rfl

@[simp] theorem onIsland_inFlight (i : IslandNo) (f : Island → Island) : (onIsland i f p).inFlight = p.inFlight := rfl

@[simp] theorem onIsland_selection (i : IslandNo) (f : Island → Island) : (onIsland i f p).selection = p.selection := rfl

@[simp] theorem onIsland_entry (i : IslandNo) (f : Island → Island) : (onIsland i f p).entry = p.entry := rfl

@[simp] theorem onIsland_rawFlags (i : IslandNo) (f : Island → Island) : (onIsland i f p).rawFlags = p.rawFlags := rfl

@[simp] theorem onIsland_reports (i : IslandNo) (f : Island → Island) : (onIsland i f p).reports = p.reports := rfl

@[simp] theorem onIsland_allowance (i : IslandNo) (f : Island → Island) : (onIsland i f p).allowance = p.allowance := rfl

@[simp] theorem onIsland_supRx (i : IslandNo) (f : Island → Island) : (onIsland i f p).supRx = p.supRx := rfl

@[simp] theorem onIsland_requests (i : IslandNo) (f : Island → Island) : (onIsland i f p).requests = p.requests := rfl

@[simp] theorem onIsland_busyList (i : IslandNo) (f : Island → Island) : (onIsland i f p).busyList = p.busyList := rfl

@[simp] theorem onIsland_replies (i : IslandNo) (f : Island → Island) : (onIsland i f p).replies = p.replies := rfl

@[simp] theorem onIsland_supTx (i : IslandNo) (f : Island → Island) : (onIsland i f p).supTx = p.supTx := rfl

@[simp] theorem onIsland_restarting (i : IslandNo) (f : Island → Island) : (onIsland i f p).restarting = p.restarting := rfl

@[simp] theorem onIsland_nextRequest (i : IslandNo) (f : Island → Island) : (onIsland i f p).nextRequest = p.nextRequest := rfl

/-! ### `onSetCfg` -/

@[simp] theorem onSetCfg_powered (k : SetNo) (f : SetConfig → SetConfig) : (onSetCfg k f p).powered = p.powered := rfl

@[simp] theorem onSetCfg_resetAsserted (k : SetNo) (f : SetConfig → SetConfig) : (onSetCfg k f p).resetAsserted = p.resetAsserted := rfl

@[simp] theorem onSetCfg_store (k : SetNo) (f : SetConfig → SetConfig) : (onSetCfg k f p).store = p.store := rfl

@[simp] theorem onSetCfg_cfg (k : SetNo) (f : SetConfig → SetConfig) :
    (onSetCfg k f p).cfg = { p.cfg with sets := modifyAt p.cfg.sets k f } := rfl

@[simp] theorem onSetCfg_rate (k : SetNo) (f : SetConfig → SetConfig) : (onSetCfg k f p).rate = p.rate := rfl

@[simp] theorem onSetCfg_clock (k : SetNo) (f : SetConfig → SetConfig) : (onSetCfg k f p).clock = p.clock := rfl

@[simp] theorem onSetCfg_phase (k : SetNo) (f : SetConfig → SetConfig) : (onSetCfg k f p).phase = p.phase := rfl

@[simp] theorem onSetCfg_acquireAt (k : SetNo) (f : SetConfig → SetConfig) : (onSetCfg k f p).acquireAt = p.acquireAt := rfl

@[simp] theorem onSetCfg_fieldRx (k : SetNo) (f : SetConfig → SetConfig) : (onSetCfg k f p).fieldRx = p.fieldRx := rfl

@[simp] theorem onSetCfg_urgent (k : SetNo) (f : SetConfig → SetConfig) : (onSetCfg k f p).urgent = p.urgent := rfl

@[simp] theorem onSetCfg_normal (k : SetNo) (f : SetConfig → SetConfig) : (onSetCfg k f p).normal = p.normal := rfl

@[simp] theorem onSetCfg_fieldTx (k : SetNo) (f : SetConfig → SetConfig) : (onSetCfg k f p).fieldTx = p.fieldTx := rfl

@[simp] theorem onSetCfg_feedback (k : SetNo) (f : SetConfig → SetConfig) : (onSetCfg k f p).feedback = p.feedback := rfl

@[simp] theorem onSetCfg_nextOrder (k : SetNo) (f : SetConfig → SetConfig) : (onSetCfg k f p).nextOrder = p.nextOrder := rfl

@[simp] theorem onSetCfg_setImage (k : SetNo) (f : SetConfig → SetConfig) : (onSetCfg k f p).setImage = p.setImage := rfl

@[simp] theorem onSetCfg_consumerImage (k : SetNo) (f : SetConfig → SetConfig) : (onSetCfg k f p).consumerImage = p.consumerImage := rfl

@[simp] theorem onSetCfg_meterImage (k : SetNo) (f : SetConfig → SetConfig) : (onSetCfg k f p).meterImage = p.meterImage := rfl

@[simp] theorem onSetCfg_tieImage (k : SetNo) (f : SetConfig → SetConfig) : (onSetCfg k f p).tieImage = p.tieImage := rfl

@[simp] theorem onSetCfg_tieJoins (k : SetNo) (f : SetConfig → SetConfig) : (onSetCfg k f p).tieJoins = p.tieJoins := rfl

@[simp] theorem onSetCfg_islandMap (k : SetNo) (f : SetConfig → SetConfig) : (onSetCfg k f p).islandMap = p.islandMap := rfl

@[simp] theorem onSetCfg_islands (k : SetNo) (f : SetConfig → SetConfig) : (onSetCfg k f p).islands = p.islands := rfl

@[simp] theorem onSetCfg_seq (k : SetNo) (f : SetConfig → SetConfig) : (onSetCfg k f p).seq = p.seq := rfl

@[simp] theorem onSetCfg_share (k : SetNo) (f : SetConfig → SetConfig) : (onSetCfg k f p).share = p.share := rfl

@[simp] theorem onSetCfg_gov (k : SetNo) (f : SetConfig → SetConfig) : (onSetCfg k f p).gov = p.gov := rfl

@[simp] theorem onSetCfg_inFlight (k : SetNo) (f : SetConfig → SetConfig) : (onSetCfg k f p).inFlight = p.inFlight := rfl

@[simp] theorem onSetCfg_selection (k : SetNo) (f : SetConfig → SetConfig) : (onSetCfg k f p).selection = p.selection := rfl

@[simp] theorem onSetCfg_entry (k : SetNo) (f : SetConfig → SetConfig) : (onSetCfg k f p).entry = p.entry := rfl

@[simp] theorem onSetCfg_rawFlags (k : SetNo) (f : SetConfig → SetConfig) : (onSetCfg k f p).rawFlags = p.rawFlags := rfl

@[simp] theorem onSetCfg_reports (k : SetNo) (f : SetConfig → SetConfig) : (onSetCfg k f p).reports = p.reports := rfl

@[simp] theorem onSetCfg_allowance (k : SetNo) (f : SetConfig → SetConfig) : (onSetCfg k f p).allowance = p.allowance := rfl

@[simp] theorem onSetCfg_supRx (k : SetNo) (f : SetConfig → SetConfig) : (onSetCfg k f p).supRx = p.supRx := rfl

@[simp] theorem onSetCfg_requests (k : SetNo) (f : SetConfig → SetConfig) : (onSetCfg k f p).requests = p.requests := rfl

@[simp] theorem onSetCfg_busyList (k : SetNo) (f : SetConfig → SetConfig) : (onSetCfg k f p).busyList = p.busyList := rfl

@[simp] theorem onSetCfg_replies (k : SetNo) (f : SetConfig → SetConfig) : (onSetCfg k f p).replies = p.replies := rfl

@[simp] theorem onSetCfg_supTx (k : SetNo) (f : SetConfig → SetConfig) : (onSetCfg k f p).supTx = p.supTx := rfl

@[simp] theorem onSetCfg_restarting (k : SetNo) (f : SetConfig → SetConfig) : (onSetCfg k f p).restarting = p.restarting := rfl

@[simp] theorem onSetCfg_nextRequest (k : SetNo) (f : SetConfig → SetConfig) : (onSetCfg k f p).nextRequest = p.nextRequest := rfl

/-! ### `onEntryCfg` -/

@[simp] theorem onEntryCfg_powered (c : ConsumerNo) (f : EntryConfig → EntryConfig) : (onEntryCfg c f p).powered = p.powered := rfl

@[simp] theorem onEntryCfg_resetAsserted (c : ConsumerNo) (f : EntryConfig → EntryConfig) : (onEntryCfg c f p).resetAsserted = p.resetAsserted := rfl

@[simp] theorem onEntryCfg_store (c : ConsumerNo) (f : EntryConfig → EntryConfig) : (onEntryCfg c f p).store = p.store := rfl

@[simp] theorem onEntryCfg_cfg (c : ConsumerNo) (f : EntryConfig → EntryConfig) :
    (onEntryCfg c f p).cfg = { p.cfg with shedList := p.cfg.shedList.map fun e => if e.consumer = c then f e else e } := rfl

@[simp] theorem onEntryCfg_rate (c : ConsumerNo) (f : EntryConfig → EntryConfig) : (onEntryCfg c f p).rate = p.rate := rfl

@[simp] theorem onEntryCfg_clock (c : ConsumerNo) (f : EntryConfig → EntryConfig) : (onEntryCfg c f p).clock = p.clock := rfl

@[simp] theorem onEntryCfg_phase (c : ConsumerNo) (f : EntryConfig → EntryConfig) : (onEntryCfg c f p).phase = p.phase := rfl

@[simp] theorem onEntryCfg_acquireAt (c : ConsumerNo) (f : EntryConfig → EntryConfig) : (onEntryCfg c f p).acquireAt = p.acquireAt := rfl

@[simp] theorem onEntryCfg_fieldRx (c : ConsumerNo) (f : EntryConfig → EntryConfig) : (onEntryCfg c f p).fieldRx = p.fieldRx := rfl

@[simp] theorem onEntryCfg_urgent (c : ConsumerNo) (f : EntryConfig → EntryConfig) : (onEntryCfg c f p).urgent = p.urgent := rfl

@[simp] theorem onEntryCfg_normal (c : ConsumerNo) (f : EntryConfig → EntryConfig) : (onEntryCfg c f p).normal = p.normal := rfl

@[simp] theorem onEntryCfg_fieldTx (c : ConsumerNo) (f : EntryConfig → EntryConfig) : (onEntryCfg c f p).fieldTx = p.fieldTx := rfl

@[simp] theorem onEntryCfg_feedback (c : ConsumerNo) (f : EntryConfig → EntryConfig) : (onEntryCfg c f p).feedback = p.feedback := rfl

@[simp] theorem onEntryCfg_nextOrder (c : ConsumerNo) (f : EntryConfig → EntryConfig) : (onEntryCfg c f p).nextOrder = p.nextOrder := rfl

@[simp] theorem onEntryCfg_setImage (c : ConsumerNo) (f : EntryConfig → EntryConfig) : (onEntryCfg c f p).setImage = p.setImage := rfl

@[simp] theorem onEntryCfg_consumerImage (c : ConsumerNo) (f : EntryConfig → EntryConfig) : (onEntryCfg c f p).consumerImage = p.consumerImage := rfl

@[simp] theorem onEntryCfg_meterImage (c : ConsumerNo) (f : EntryConfig → EntryConfig) : (onEntryCfg c f p).meterImage = p.meterImage := rfl

@[simp] theorem onEntryCfg_tieImage (c : ConsumerNo) (f : EntryConfig → EntryConfig) : (onEntryCfg c f p).tieImage = p.tieImage := rfl

@[simp] theorem onEntryCfg_tieJoins (c : ConsumerNo) (f : EntryConfig → EntryConfig) : (onEntryCfg c f p).tieJoins = p.tieJoins := rfl

@[simp] theorem onEntryCfg_islandMap (c : ConsumerNo) (f : EntryConfig → EntryConfig) : (onEntryCfg c f p).islandMap = p.islandMap := rfl

@[simp] theorem onEntryCfg_islands (c : ConsumerNo) (f : EntryConfig → EntryConfig) : (onEntryCfg c f p).islands = p.islands := rfl

@[simp] theorem onEntryCfg_seq (c : ConsumerNo) (f : EntryConfig → EntryConfig) : (onEntryCfg c f p).seq = p.seq := rfl

@[simp] theorem onEntryCfg_share (c : ConsumerNo) (f : EntryConfig → EntryConfig) : (onEntryCfg c f p).share = p.share := rfl

@[simp] theorem onEntryCfg_gov (c : ConsumerNo) (f : EntryConfig → EntryConfig) : (onEntryCfg c f p).gov = p.gov := rfl

@[simp] theorem onEntryCfg_inFlight (c : ConsumerNo) (f : EntryConfig → EntryConfig) : (onEntryCfg c f p).inFlight = p.inFlight := rfl

@[simp] theorem onEntryCfg_selection (c : ConsumerNo) (f : EntryConfig → EntryConfig) : (onEntryCfg c f p).selection = p.selection := rfl

@[simp] theorem onEntryCfg_entry (c : ConsumerNo) (f : EntryConfig → EntryConfig) : (onEntryCfg c f p).entry = p.entry := rfl

@[simp] theorem onEntryCfg_rawFlags (c : ConsumerNo) (f : EntryConfig → EntryConfig) : (onEntryCfg c f p).rawFlags = p.rawFlags := rfl

@[simp] theorem onEntryCfg_reports (c : ConsumerNo) (f : EntryConfig → EntryConfig) : (onEntryCfg c f p).reports = p.reports := rfl

@[simp] theorem onEntryCfg_allowance (c : ConsumerNo) (f : EntryConfig → EntryConfig) : (onEntryCfg c f p).allowance = p.allowance := rfl

@[simp] theorem onEntryCfg_supRx (c : ConsumerNo) (f : EntryConfig → EntryConfig) : (onEntryCfg c f p).supRx = p.supRx := rfl

@[simp] theorem onEntryCfg_requests (c : ConsumerNo) (f : EntryConfig → EntryConfig) : (onEntryCfg c f p).requests = p.requests := rfl

@[simp] theorem onEntryCfg_busyList (c : ConsumerNo) (f : EntryConfig → EntryConfig) : (onEntryCfg c f p).busyList = p.busyList := rfl

@[simp] theorem onEntryCfg_replies (c : ConsumerNo) (f : EntryConfig → EntryConfig) : (onEntryCfg c f p).replies = p.replies := rfl

@[simp] theorem onEntryCfg_supTx (c : ConsumerNo) (f : EntryConfig → EntryConfig) : (onEntryCfg c f p).supTx = p.supTx := rfl

@[simp] theorem onEntryCfg_restarting (c : ConsumerNo) (f : EntryConfig → EntryConfig) : (onEntryCfg c f p).restarting = p.restarting := rfl

@[simp] theorem onEntryCfg_nextRequest (c : ConsumerNo) (f : EntryConfig → EntryConfig) : (onEntryCfg c f p).nextRequest = p.nextRequest := rfl

/-! ### `reach` -/

@[simp] theorem reach_powered (d : Nat) : (reach d p).powered = p.powered := rfl

@[simp] theorem reach_resetAsserted (d : Nat) : (reach d p).resetAsserted = p.resetAsserted := rfl

@[simp] theorem reach_store (d : Nat) : (reach d p).store = p.store := rfl

@[simp] theorem reach_cfg (d : Nat) : (reach d p).cfg = p.cfg := rfl

@[simp] theorem reach_rate (d : Nat) : (reach d p).rate = p.rate := rfl

@[simp] theorem reach_clock (d : Nat) :
    (reach d p).clock = max p.clock d := rfl

@[simp] theorem reach_phase (d : Nat) : (reach d p).phase = p.phase := rfl

@[simp] theorem reach_acquireAt (d : Nat) : (reach d p).acquireAt = p.acquireAt := rfl

@[simp] theorem reach_fieldRx (d : Nat) : (reach d p).fieldRx = p.fieldRx := rfl

@[simp] theorem reach_urgent (d : Nat) : (reach d p).urgent = p.urgent := rfl

@[simp] theorem reach_normal (d : Nat) : (reach d p).normal = p.normal := rfl

@[simp] theorem reach_fieldTx (d : Nat) : (reach d p).fieldTx = p.fieldTx := rfl

@[simp] theorem reach_feedback (d : Nat) : (reach d p).feedback = p.feedback := rfl

@[simp] theorem reach_nextOrder (d : Nat) : (reach d p).nextOrder = p.nextOrder := rfl

@[simp] theorem reach_setImage (d : Nat) : (reach d p).setImage = p.setImage := rfl

@[simp] theorem reach_consumerImage (d : Nat) : (reach d p).consumerImage = p.consumerImage := rfl

@[simp] theorem reach_meterImage (d : Nat) : (reach d p).meterImage = p.meterImage := rfl

@[simp] theorem reach_tieImage (d : Nat) : (reach d p).tieImage = p.tieImage := rfl

@[simp] theorem reach_tieJoins (d : Nat) : (reach d p).tieJoins = p.tieJoins := rfl

@[simp] theorem reach_islandMap (d : Nat) : (reach d p).islandMap = p.islandMap := rfl

@[simp] theorem reach_islands (d : Nat) : (reach d p).islands = p.islands := rfl

@[simp] theorem reach_seq (d : Nat) : (reach d p).seq = p.seq := rfl

@[simp] theorem reach_share (d : Nat) : (reach d p).share = p.share := rfl

@[simp] theorem reach_gov (d : Nat) : (reach d p).gov = p.gov := rfl

@[simp] theorem reach_inFlight (d : Nat) : (reach d p).inFlight = p.inFlight := rfl

@[simp] theorem reach_selection (d : Nat) : (reach d p).selection = p.selection := rfl

@[simp] theorem reach_entry (d : Nat) : (reach d p).entry = p.entry := rfl

@[simp] theorem reach_rawFlags (d : Nat) : (reach d p).rawFlags = p.rawFlags := rfl

@[simp] theorem reach_reports (d : Nat) : (reach d p).reports = p.reports := rfl

@[simp] theorem reach_allowance (d : Nat) : (reach d p).allowance = p.allowance := rfl

@[simp] theorem reach_supRx (d : Nat) : (reach d p).supRx = p.supRx := rfl

@[simp] theorem reach_requests (d : Nat) : (reach d p).requests = p.requests := rfl

@[simp] theorem reach_busyList (d : Nat) : (reach d p).busyList = p.busyList := rfl

@[simp] theorem reach_replies (d : Nat) : (reach d p).replies = p.replies := rfl

@[simp] theorem reach_supTx (d : Nat) : (reach d p).supTx = p.supTx := rfl

@[simp] theorem reach_restarting (d : Nat) : (reach d p).restarting = p.restarting := rfl

@[simp] theorem reach_nextRequest (d : Nat) : (reach d p).nextRequest = p.nextRequest := rfl

/-! ### One record of a bank -/

/-- The record an update touches. -/
@[simp] theorem modifyAt_self {α : Type} {n : Nat} (v : Vector α n) (i : Fin n) (f : α → α) :
    (modifyAt v i f)[i.val] = f v[i.val] := by simp [modifyAt]

/-- A record an update does not touch. -/
theorem modifyAt_other {α : Type} {n : Nat} (v : Vector α n) (i j : Fin n) (f : α → α) (h : i ≠ j) :
    (modifyAt v i f)[j.val] = v[j.val] := by
  have h' : i.val ≠ j.val := fun e => h (Fin.ext e)
  simp [modifyAt, h']

/-- Every record after an update. -/
theorem modifyAt_get {α : Type} {n : Nat} (v : Vector α n) (i j : Fin n) (f : α → α) :
    (modifyAt v i f)[j.val] = if i = j then f v[j.val] else v[j.val] := by
  by_cases h : i = j
  · subst h; simp
  · simp [h, modifyAt_other v i j f h]

/-! ### Reset -/

/-- The state after reset is what POWER_ON makes of a part without power whose store has never been saved (R188,
R189). -/
theorem reset_is_powerOn :
    State.reset.part = coldStart false false (Part.unpowered Store.blank false) := by decide +kernel

end Sys2Proof.Machine
end

