-- ==== Sys2Proof/Laws/Closed.lean ====
section
/-! SUPPORT. What the shared operations leave alone. A condition of the part that the primitive updates of a group keep is
kept by every operation built from them: `Steady` and `Tests` for the hand-on of set state changes and the Reserve Unit's
tests, `Calm` for the records of the plant units and the consumers' orders, `Handing` for the two together, `Units` for
every change the units make to their records, and `Plant` for the object records, the clock and the field line. With `I := fun p => p.cfg = c`, say, each lemma is a frame;
with an invariant for `I`, each is a step of its proof. -/

namespace Sys2Proof.Machine

/-- What the Reserve Unit's tests leave alone in an island record: the heavy queue, the grants, the contexts and the
history. -/
def Island.kept (r : Island) := (r.reserve.queue, r.reserve.grants, r.shed, r.restore, r.history)

/-- Kept by updates of the Share and Governor Output Units' records, of the reserve states and of the contingency tables,
and by events. An update of an island record is asked of only where it leaves the heavy queue, the grants, the contexts and
the history alone. -/
structure Steady (I : Part → Prop) : Prop where
  share : ∀ p v, I p → I { p with share := v }
  gov : ∀ p v, (p.linesSafe → Part.linesSafe { p with gov := v }) → I p → I { p with gov := v }
  selection : ∀ p v, I p → I { p with selection := v }
  inFlight : ∀ p v, I p → I { p with inFlight := v }
  occurs : ∀ p k o, I p → I (occur k o p)
  tables : ∀ p i (f : Island → Island), (∀ r, (f r).kept = r.kept) → I p → I (onIsland i f p)

/-- Kept besides by the requests that the Reserve Unit makes as changes are handed on. -/
structure Tests (I : Part → Prop) : Prop extends Steady I where
  starts : ∀ p k, I p → I (startRequest k p).1.part
  abandons : ∀ p k, I p → I (abandonRequest k p).part

/-- Kept besides by changes of an island's grants. -/
structure Grants (I : Part → Prop) : Prop extends Tests I where
  grants : ∀ p i (f : List HeavyGrant → List HeavyGrant), I p → I (onReserve i (fun r => { r with grants := f r.grants }) p)

/-- Kept by updates of the units' records other than the sets' states, by events, and by consumers' orders handed over and
taken back. An update of the governor records, of the island records or of the queues is asked of only where it keeps the
condition that those records have of their own. -/
structure Calm (I : Part → Prop) : Prop where
  share : ∀ p v, I p → I { p with share := v }
  gov : ∀ p v, (p.linesSafe → Part.linesSafe { p with gov := v }) → I p → I { p with gov := v }
  selection : ∀ p v, I p → I { p with selection := v }
  entry : ∀ p v, I p → I { p with entry := v }
  inFlight : ∀ p v, I p → I { p with inFlight := v }
  islands : ∀ p (v : Vector (Option Island) 4), (∀ i : IslandNo, v[i].isSome = p.islands[i].isSome) →
    (p.queuesFit → Part.queuesFit { p with islands := v }) → I p → I { p with islands := v }
  occurs : ∀ p k o, I p → I (occur k o p)
  handed : ∀ p c a u, (u = true → isShedOrder (.consumer c a) = true) → I p → I (handOver (.consumer c a) u p).part
  dropped : ∀ p c, I p → I (dropQueued (.consumer c) p)

/-- Kept besides by the requests that the Reserve Unit makes as changes are handed on. -/
structure Handing (I : Part → Prop) : Prop extends Calm I where
  starts : ∀ p k, I p → I (startRequest k p).1.part
  abandons : ∀ p k, I p → I (abandonRequest k p).part

/-- Kept besides by sets' orders handed over and taken back, and by every update of the sets' sequencer records that keeps
the states where they are. -/
structure Units (I : Part → Prop) : Prop extends Calm I where
  setHanded : ∀ p k a, I p → I (handOver (.set k a) false p).part
  setJoined : ∀ p k a, I p → I (joinQueues (.set k a) false p).part
  setDropped : ∀ p k, I p → I (dropQueued (.set k) p)
  seqs : ∀ p v, (p.statesExist → Part.statesExist { p with seq := v }) → I p → I { p with seq := v }

/-- Kept besides by updates of the object records other than a tie's position, of the clock, and of the field line. -/
structure Plant (I : Part → Prop) : Prop extends Units I where
  clocked : ∀ p v, I p → I { p with clock := v }
  setImages : ∀ p v, I p → I { p with setImage := v }
  consumerImages : ∀ p v, I p → I { p with consumerImage := v }
  meterImages : ∀ p v, I p → I { p with meterImage := v }
  tieImages : ∀ p (v : Vector TieImage 4), (∀ t : TieNo, v[t].closed = p.tieImage[t].closed) → I p →
    I { p with tieImage := v }
  transmits : ∀ p v, I p → I { p with fieldTx := v }
  feedbacks : ∀ p v, I p → I { p with feedback := v }
  receives : ∀ p v, I p → I { p with fieldRx := v }
  arbitrates : ∀ p, I p → I (arbitrate p)

/-- Kept besides by changes of the island map and of the ties' positions. -/
structure Topo (I : Part → Prop) : Prop extends Plant I where
  ties : ∀ p v, I p → I { p with tieImage := v }
  mapped : ∀ p joins map (v : Vector (Option Island) 4), (p.queuesFit → Part.queuesFit { p with islands := v }) →
    I p → I { p with tieJoins := joins, islandMap := map, islands := v }

variable {I : Part → Prop} {p : Part}

/-! ### Island records -/

/-- An update of one island record that keeps its heavy queue within bounds. -/
theorem calm_onIsland (h : Calm I) (i : IslandNo) (f : Island → Island)
    (hf : ∀ r, p.islands[i] = some r → queueFits r.reserve.queue → queueFits (f r).reserve.queue) (hp : I p) :
    I (onIsland i f p) := by
  refine h.islands p _ ?_ ?_ hp
  · intro j
    simp only [Fin.getElem_fin, modifyAt_get]
    split <;> simp
  · intro hq j r hr
    simp only [Fin.getElem_fin, modifyAt_get] at hr
    split at hr
    · rename_i e
      subst e
      cases hs : p.islands[i.val] with
      | none => simp [hs] at hr
      | some r' =>
        simp only [hs, Option.map_some, Option.some.injEq] at hr
        subst hr
        exact hf r' hs (hq i r' hs)
    · exact hq j r hr

/-- An update of one island record that leaves its heavy queue alone. -/
theorem calm_onIsland_queue (h : Calm I) (i : IslandNo) (f : Island → Island)
    (hf : ∀ r, (f r).reserve.queue = r.reserve.queue) (hp : I p) : I (onIsland i f p) :=
  calm_onIsland h i f (fun r _ hq => by rw [hf r]; exact hq) hp

theorem calm_onReserve (h : Calm I) (i : IslandNo) (f : ReserveRecord → ReserveRecord)
    (hf : ∀ r, (f r).queue = r.queue) (hp : I p) : I (onReserve i f p) :=
  calm_onIsland_queue h i _ (fun r => hf r.reserve) hp

/-- What a wider group keeps, the narrower one does. -/
theorem Calm.steady (h : Calm I) : Steady I where
  share := h.share
  gov := h.gov
  selection := h.selection
  inFlight := h.inFlight
  occurs := h.occurs
  tables _ i f hf hp := calm_onIsland_queue h i f (fun r => congrArg Prod.fst (hf r)) hp

theorem Handing.grants (h : Handing I) : Grants I where
  toSteady := h.toCalm.steady
  starts := h.starts
  abandons := h.abandons
  grants _ i _ hp := calm_onReserve h.toCalm i _ (fun _ => rfl) hp

theorem Handing.tests (h : Handing I) : Tests I := h.grants.toTests

theorem calm_onShed (h : Calm I) (i : IslandNo) (f : ShedContext → ShedContext) (hp : I p) : I (onShed i f p) :=
  calm_onIsland_queue h i _ (fun _ => rfl) hp

theorem calm_onRestore (h : Calm I) (i : IslandNo) (f : RestoreContext → RestoreContext) (hp : I p) :
    I (onRestore i f p) := calm_onIsland_queue h i _ (fun _ => rfl) hp

/-- A fold keeps what each of its steps keeps. -/
theorem fold_keeps {α : Type} (f : Part → α → Part) (l : List α) (hf : ∀ q a, I q → I (f q a)) (hp : I p) :
    I (l.foldl f p) := by
  induction l generalizing p with
  | nil => exact hp
  | cons a l ih => exact ih (hf p a hp)

end Sys2Proof.Machine
end

