-- ==== Sys2Proof/Laws/Steady.lean ====
section
/-! SUPPORT. What the hand-on of set state changes keeps (R44), and with it the Reserve Unit's tests and the release of a
grant: these touch no entry, no history and no shed or restore context. -/

namespace Sys2Proof.Machine

variable {I : Part → Prop} {p : Part}

/-! ### Island records -/

/-- An update of an island record that leaves the heavy queue, the grants, the contexts and the history alone. -/
theorem steady_onIsland (h : Steady I) (i : IslandNo) (f : Island → Island) (hf : ∀ r, (f r).kept = r.kept) (hp : I p) :
    I (onIsland i f p) := h.tables p i f hf hp

theorem steady_onReserve (h : Steady I) (i : IslandNo) (f : ReserveRecord → ReserveRecord)
    (hf : ∀ r, (f r).queue = r.queue ∧ (f r).grants = r.grants) (hp : I p) : I (onReserve i f p) :=
  steady_onIsland h i _ (fun r => by simp only [Island.kept, (hf r.reserve).1, (hf r.reserve).2]) hp

/-! ### Figures, plans, tables and reserve states -/

theorem steady_keepFigures (h : Steady I) (i : IslandNo) (f : Figures) (hp : I p) : I (keepFigures i f p) :=
  steady_onIsland h i _ (fun _ => rfl) hp

theorem steady_takeFigures (h : Steady I) (i : IslandNo) (hp : I p) : I (takeFigures i p) := steady_keepFigures h i _ hp

theorem steady_onShare (h : Steady I) (k : SetNo) (f : ShareRecord → ShareRecord) (hp : I p) : I (onShare k f p) :=
  h.share p _ hp

theorem steady_shareChange (h : Steady I) (c : SetChange) (hp : I p) : I (shareChange c p) := steady_onShare h _ _ hp

/-- A change of one governor record that never makes both lines active. -/
theorem steady_onGov (h : Steady I) (k : SetNo) (f : GovRecord → GovRecord) (hf : ∀ g, g.oneLine → (f g).oneLine)
    (hp : I p) : I (onGov k f p) := by
  refine h.gov p _ ?_ hp
  intro hl j
  simp only [Fin.getElem_fin, modifyAt_get]
  split
  · exact hf _ (hl j)
  · exact hl j

theorem linesOff_oneLine (g : GovRecord) : (linesOff g).oneLine := rfl

theorem endPlan_oneLine (g : GovRecord) : (endPlan g).oneLine := rfl

theorem steady_cutPlan (h : Steady I) (k : SetNo) (hp : I p) : I (cutPlan k p) :=
  steady_onGov h k _ (fun g hg => by split <;> [exact endPlan_oneLine g; exact hg]) hp

theorem steady_govChange (h : Steady I) (c : SetChange) (hp : I p) : I (govChange c p) := by
  simp only [govChange]
  split
  · exact hp
  · exact steady_cutPlan h _ hp

theorem steady_onSelection (h : Steady I) (k : SetNo) (f : SelectionRecord → SelectionRecord) (hp : I p) :
    I (onSelection k f p) := h.selection p _ hp

theorem steady_noteSelection (h : Steady I) (s : Selection) (hp : I p) : I (noteSelection s p) := by
  simp only [noteSelection]
  split
  · exact h.occurs _ _ _ (steady_onSelection h _ _ hp)
  · exact steady_onSelection h _ _ hp

theorem steady_leaveTable (h : Steady I) (i : IslandNo) (hp : I p) : I (leaveTable i p) :=
  fold_keeps _ _ (fun _ k hq => steady_onSelection h k _ hq) hp

theorem steady_rebuildWith (h : Steady I) (i : IslandNo) (f : Figures) (counted : List SetNo) (hp : I p) :
    I (rebuildWith i f counted p) :=
  steady_onIsland h i _ (fun _ => rfl)
    (fold_keeps _ _ (fun _ s hq => steady_noteSelection h s hq) (steady_leaveTable h i hp))

theorem steady_rebuild (h : Steady I) (i : IslandNo) (hp : I p) : I (rebuild i p) :=
  steady_rebuildWith h i _ _ (steady_takeFigures h i hp)

theorem steady_rebuildFor (h : Steady I) (c : ConsumerNo) (hp : I p) : I (rebuildFor c p) := by
  simp only [rebuildFor]
  split
  · exact steady_rebuild h _ hp
  · exact hp

theorem steady_reserveState (h : Steady I) (i : IslandNo) (st : ReserveState) (hp : I p) : I (reserveState i st p) :=
  steady_onReserve h i _ (fun _ => ⟨rfl, rfl⟩) hp

theorem steady_confirmStart (h : Steady I) (i : IslandNo) (hp : I p) : I (confirmStart i p) :=
  steady_onReserve h i _ (fun _ => ⟨rfl, rfl⟩) hp

theorem steady_clearLow (h : Steady I) (i : IslandNo) (hp : I p) : I (clearLow i p) :=
  steady_onReserve h i _ (fun _ => ⟨rfl, rfl⟩) hp

theorem steady_raiseLow (h : Steady I) (i : IslandNo) (hp : I p) : I (raiseLow i p) := by
  unfold raiseLow
  refine steady_onReserve h i _ (fun _ => ⟨rfl, rfl⟩) ?_
  split
  · exact hp
  · exact h.occurs _ _ _ hp

theorem steady_judgeQuiet (h : Steady I) (i : IslandNo) (spare : Int) (hp : I p) : I (judgeQuiet i spare p) := by
  have hc : I (if startNeed p i spare then p else clearLow i p) := by
    split
    · exact hp
    · exact steady_clearLow h i hp
  simp only [judgeQuiet]
  generalize (if startNeed p i spare then p else clearLow i p) = p1 at hc ⊢
  split
  · exact steady_reserveState h i _ hc
  · split
    · exact steady_confirmStart h i hc
    · split
      · exact steady_onReserve h i _ (fun _ => ⟨rfl, rfl⟩) hc
      · exact hc

theorem steady_quietThenJudge (h : Steady I) (i : IslandNo) (spare : Int) (hp : I p) : I (quietThenJudge i spare p) :=
  steady_judgeQuiet h i spare (steady_reserveState h i _ hp)

/-! ### The Reserve Unit's tests and the hand-on -/

theorem tests_tryStart (h : Tests I) (i : IslandNo) (k : SetNo) (hp : I p) : I (tryStart i k p).part := by
  simp only [tryStart]
  split
  · exact steady_reserveState h.toSteady i _ (h.starts p k hp)
  · exact steady_confirmStart h.toSteady i (h.starts p k hp)

theorem tests_reserveJudge (h : Tests I) (i : IslandNo) (spare : Int) (hp : I p) :
    I (reserveJudge i spare p).part := by
  have hc := h.toSteady
  simp only [reserveJudge]
  split
  · exact steady_judgeQuiet hc i spare hp
  · split
    · exact steady_reserveState hc i _ hp
    · split
      · exact steady_reserveState hc i _ (steady_clearLow hc i hp)
      · split
        · exact hp
        · split
          · exact tests_tryStart h i _ hp
          · exact hp
  · exact hp
  · split
    · exact steady_reserveState hc i _ hp
    · split
      · exact hp
      · exact steady_quietThenJudge hc i spare hp
  · split
    · split
      · exact hp
      · exact steady_quietThenJudge hc i spare (h.abandons p _ hp)
    · exact steady_quietThenJudge hc i spare hp

theorem tests_flightFailed (h : Tests I) (i : IslandNo) (spare : Int) (hp : I p) :
    I (flightFailed i spare p).part := by
  have hc := h.toSteady
  simp only [flightFailed]
  split
  · exact steady_reserveState hc i _ (steady_clearLow hc i hp)
  · split
    · split
      · exact tests_tryStart h i _ hp
      · exact steady_raiseLow hc i (steady_confirmStart hc i hp)
    · exact steady_raiseLow hc i (steady_confirmStart hc i hp)

theorem tests_startConfirmExpired (h : Tests I) (i : IslandNo) (spare : Int) (hp : I p) :
    I (startConfirmExpired i spare p).part := by
  have hc := h.toSteady
  simp only [startConfirmExpired]
  split
  · exact steady_reserveState hc i _ hp
  · split
    · exact steady_reserveState hc i _ (steady_clearLow hc i hp)
    · split
      · split
        · exact tests_tryStart h i _ hp
        · exact steady_raiseLow hc i (steady_confirmStart hc i hp)
      · exact steady_raiseLow hc i (steady_confirmStart hc i hp)

theorem tests_blackoutStart (h : Tests I) (i : IslandNo) (hp : I p) : I (blackoutStart i p).part := by
  have hc := h.toSteady
  simp only [blackoutStart]
  split
  · exact steady_reserveState hc i _ hp
  · split
    · exact tests_tryStart h i _ (steady_reserveState hc i _ hp)
    · exact steady_raiseLow hc i (steady_confirmStart hc i hp)

theorem tests_reserveChange (h : Tests I) (c : SetChange) (hp : I p) : I (reserveChange c p).part := by
  have hc := h.toSteady
  have hf := h.inFlight p (modifyAt p.inFlight c.set fun _ => flightState c.new) hp
  simp only [reserveChange]
  split
  · exact hf
  · have ht := fun i => steady_takeFigures hc i hf
    split
    · split
      · split
        · exact steady_quietThenJudge hc _ _ (ht _)
        · exact tests_flightFailed h _ _ (ht _)
      · exact ht _
    · split
      · exact steady_reserveState hc _ _ (ht _)
      · exact tests_reserveJudge h _ _ (ht _)
    · exact tests_reserveJudge h _ _ (ht _)

theorem tests_deliverChange (h : Tests I) (c : SetChange) (hp : I p) : I (deliverChange c p).part := by
  have hc := h.toSteady
  have hu := steady_govChange hc c (steady_shareChange hc c hp)
  have ho : I (if c.toReserve then reserveChange c (govChange c (shareChange c p))
      else sequenced (govChange c (shareChange c p))).part := by
    split
    · exact tests_reserveChange h c hu
    · exact hu
  simp only [deliverChange, Sequenced.on]
  split
  · exact steady_rebuild hc _ ho
  · exact ho

theorem tests_handOnAll (h : Tests I) (fuel : Nat) (l : List SetChange) (hp : I p) : I (handOnAll fuel l p) := by
  induction fuel generalizing l p with
  | zero => exact hp
  | succ n ih =>
    cases l with
    | nil => exact hp
    | cons c rest => exact ih _ (tests_deliverChange h c hp)

/-- The hand-on of an operation's changes. -/
theorem tests_handOn (h : Tests I) (o : Sequenced) (ho : I o.part) : I o.handOn := tests_handOnAll h 64 _ ho

theorem tests_testIsland (h : Tests I) (i : IslandNo) (hp : I p) : I (testIsland i p) := by
  simp only [testIsland]
  split
  · exact tests_handOn h _ (tests_reserveJudge h i _ (steady_takeFigures h.toSteady i hp))
  · exact hp

theorem tests_testAll (h : Tests I) (hp : I p) : I (testAll p) :=
  fold_keeps _ _ (fun _ i hq => tests_testIsland h i hq) hp

/-! ### Grants -/

theorem grants_dropGrant (h : Grants I) (i : IslandNo) (c : ConsumerNo) (hp : I p) : I (dropGrant i c p) :=
  h.grants _ i _ hp

theorem grants_releaseGrant (h : Grants I) (c : ConsumerNo) (hp : I p) : I (releaseGrant c p) := by
  simp only [releaseGrant]
  split
  · exact tests_testIsland h.toTests _ (grants_dropGrant h _ c hp)
  · exact hp

theorem grants_grantLost (h : Grants I) (o : Order) (hp : I p) : I (grantLost o p) := by
  simp only [grantLost]
  split
  · split
    · split
      · exact grants_releaseGrant h _ hp
      · exact hp
    · exact hp
  · exact hp

theorem grants_heavyReplaced (h : Grants I) (o : Option Order) (hp : I p) : I (heavyReplaced o p) := by
  simp only [heavyReplaced]
  split
  · exact grants_grantLost h _ hp
  · exact hp

theorem grants_grantSent (h : Grants I) (c : ConsumerNo) (serial : Nat) (hp : I p) : I (grantSent c serial p) :=
  fold_keeps _ _ (fun _ i hq => h.grants _ i _ hq) hp

theorem grants_drawReported (h : Grants I) (c : ConsumerNo) (hp : I p) : I (drawReported c p) := by
  simp only [drawReported]
  split
  · split
    · exact grants_releaseGrant h c hp
    · exact hp
  · exact hp

end Sys2Proof.Machine
end

