-- ==== Sys2Proof/Laws/Calm.lean ====
section
/-! SUPPORT. What the operations keep that touch neither a set's state, nor an object record, nor the configuration: share
periods, plans, contingency tables, restoration, shed sequences and heavy-load requests. -/

namespace Sys2Proof.Machine

variable {I : Part → Prop} {p : Part}

/-! ### Figures and share periods -/

theorem calm_keepFigures (h : Calm I) (i : IslandNo) (f : Figures) (hp : I p) : I (keepFigures i f p) :=
  steady_keepFigures h.steady i f hp

theorem calm_takeFigures (h : Calm I) (i : IslandNo) (hp : I p) : I (takeFigures i p) :=
  steady_takeFigures h.steady i hp

theorem calm_onShare (h : Calm I) (k : SetNo) (f : ShareRecord → ShareRecord) (hp : I p) : I (onShare k f p) :=
  steady_onShare h.steady k f hp

theorem calm_advanceRamps (h : Calm I) (i : IslandNo) (hp : I p) : I (advanceRamps i p) :=
  fold_keeps _ _ (fun _ k hq => calm_onShare h k _ hq) hp

theorem calm_computePeriod (h : Calm I) (i : IslandNo) (hp : I p) : I (computePeriod i p).1 :=
  calm_onIsland_queue h i _ (fun _ => rfl)
    (fold_keeps _ _ (fun _ k hq => calm_onShare h k _ hq) (calm_advanceRamps h i (calm_keepFigures h i _ hp)))

theorem calm_beginPeriods (h : Calm I) (i : IslandNo) (hp : I p) : I (beginPeriods i p) :=
  calm_onIsland_queue h i _ (fun _ => rfl) hp

theorem calm_stopPeriods (h : Calm I) (i : IslandNo) (hp : I p) : I (stopPeriods i p) :=
  calm_onIsland_queue h i _ (fun _ => rfl) hp

theorem calm_shareChange (h : Calm I) (c : SetChange) (hp : I p) : I (shareChange c p) :=
  steady_shareChange h.steady c hp

theorem calm_clearTargets (h : Calm I) (i : IslandNo) (hp : I p) : I (clearTargets i p) :=
  fold_keeps _ _ (fun _ k hq => calm_onShare h k _ hq) hp

/-! ### Governor lines -/

/-- A change of one governor record that never makes both lines active. -/
theorem calm_onGov (h : Calm I) (k : SetNo) (f : GovRecord → GovRecord) (hf : ∀ g, g.oneLine → (f g).oneLine)
    (hp : I p) : I (onGov k f p) := steady_onGov h.steady k f hf hp

theorem calm_makePlan (h : Calm I) (i : IslandNo) (origin : Nat) (freq : Option Nat) (k : SetNo) (role : ShareRole) (hp : I p) :
    I (makePlan i origin freq k role p) := by
  have hplan := calm_onGov (p := p) h k (fun g => { linesOff g with
    plan := planFor p origin freq k role, madeBy := some i, saturation := (planFor p origin freq k role).saturated }) (fun _ _ => rfl) hp
  simp only [makePlan]
  split
  · exact h.occurs _ _ _ hplan
  · exact hplan

theorem calm_makePlans (h : Calm I) (i : IslandNo) (origin : Nat) (roles : List (SetNo × ShareRole)) (hp : I p) :
    I (makePlans i origin roles p) := fold_keeps _ _ (fun _ r hq => calm_makePlan h i origin _ r.1 r.2 hq) hp

theorem calm_cutPlan (h : Calm I) (k : SetNo) (hp : I p) : I (cutPlan k p) := steady_cutPlan h.steady k hp

theorem calm_govChange (h : Calm I) (c : SetChange) (hp : I p) : I (govChange c p) := steady_govChange h.steady c hp

theorem calm_stopPlans (h : Calm I) (i : IslandNo) (hp : I p) : I (stopPlans i p) :=
  fold_keeps _ _ (fun _ k hq => calm_onGov h k _ (fun g hg => by split <;> [exact endPlan_oneLine g; exact hg]) hq) hp

theorem calm_clearSaturation (h : Calm I) (i : IslandNo) (hp : I p) : I (clearSaturation i p) :=
  fold_keeps _ _ (fun _ k hq => calm_onGov h k _ (fun _ hg => hg) hq) hp

/-- One change made to the records of several sets, each once. -/
theorem foldl_onGov_gov (f : GovRecord → GovRecord) (l : List SetNo) (hl : l.Nodup) (p : Part) (k : SetNo) :
    (l.foldl (fun q j => onGov j f q) p).gov[k] = if k ∈ l then f p.gov[k] else p.gov[k] := by
  induction l generalizing p with
  | nil => simp
  | cons j l ih =>
    have hj := List.nodup_cons.mp hl
    simp only [List.foldl_cons, ih hj.2, onGov_gov, Fin.getElem_fin, modifyAt_get, List.mem_cons]
    by_cases hk : k = j
    · subst hk; simp [hj.1]
    · simp [hk, show ¬j = k from fun h => hk h.symm]

/-- All that the end of an island's period does to the plans (R97): those that the period has made end, wherever their sets'
sections lie, and no other set's record is changed. -/
theorem stopPlans_gov (i : IslandNo) (p : Part) (k : SetNo) :
    (stopPlans i p).gov[k] =
      if planOfPeriod i (island p i).periodAt p.gov[k] then endPlan p.gov[k] else p.gov[k] := by
  simp only [stopPlans]
  rw [foldl_onGov_gov (fun g => if planOfPeriod i (island p i).periodAt g then endPlan g else g) allSets (by decide)]
  rw [if_pos (show k ∈ allSets by revert k; decide)]
/-! ### Contingency tables -/

theorem calm_onSelection (h : Calm I) (k : SetNo) (f : SelectionRecord → SelectionRecord) (hp : I p) :
    I (onSelection k f p) := steady_onSelection h.steady k f hp

theorem calm_noteSelection (h : Calm I) (s : Selection) (hp : I p) : I (noteSelection s p) :=
  steady_noteSelection h.steady s hp

theorem calm_leaveTable (h : Calm I) (i : IslandNo) (hp : I p) : I (leaveTable i p) := steady_leaveTable h.steady i hp

theorem calm_rebuildWith (h : Calm I) (i : IslandNo) (f : Figures) (counted : List SetNo) (hp : I p) :
    I (rebuildWith i f counted p) := steady_rebuildWith h.steady i f counted hp

theorem calm_rebuild (h : Calm I) (i : IslandNo) (hp : I p) : I (rebuild i p) := steady_rebuild h.steady i hp

theorem calm_rebuildFor (h : Calm I) (c : ConsumerNo) (hp : I p) : I (rebuildFor c p) := steady_rebuildFor h.steady c hp

theorem calm_discardSelection (h : Calm I) (k : SetNo) (hp : I p) : I (discardSelection k p) := calm_onSelection h k _ hp

/-! ### Entries, histories and restoration -/

theorem calm_onEntry (h : Calm I) (c : ConsumerNo) (f : EntryRecord → EntryRecord) (hp : I p) : I (onEntry c f p) :=
  h.entry p _ hp

theorem calm_enterEntry (h : Calm I) (c : ConsumerNo) (st : EntryState) (hp : I p) : I (enterEntry c st p) :=
  calm_onEntry h c _ hp

theorem calm_deriveEntry (h : Calm I) (c : ConsumerNo) (hp : I p) : I (deriveEntry c p) := calm_enterEntry h c _ hp

theorem calm_retrigger (h : Calm I) (i : IslandNo) (hp : I p) : I (retrigger i p) := by
  simp only [retrigger]
  split
  · exact calm_onIsland_queue h i _ (fun _ => rfl) hp
  · exact hp

theorem calm_endStepFor (h : Calm I) (c : ConsumerNo) (hp : I p) : I (endStepFor c p) :=
  fold_keeps _ _ (fun _ i hq => calm_onIsland_queue h i _ (fun r => by split <;> rfl) hq) hp

theorem calm_pushRecord (h : Calm I) (i : IslandNo) (r : HistoryRecord) (hp : I p) : I (pushRecord i r p) :=
  calm_onIsland_queue h i _ (fun _ => rfl) hp

theorem calm_removeRecord (h : Calm I) (c : ConsumerNo) (hp : I p) : I (removeRecord c p) :=
  fold_keeps _ _ (fun _ i hq => calm_onIsland_queue h i _ (fun _ => rfl) hq) hp

theorem calm_changeRecord (h : Calm I) (c : ConsumerNo) (f : HistoryRecord → HistoryRecord) (hp : I p) :
    I (changeRecord c f p) := fold_keeps _ _ (fun _ i hq => calm_onIsland_queue h i _ (fun _ => rfl) hq) hp

theorem calm_endShedFor (h : Calm I) (c : ConsumerNo) (hp : I p) : I (endShedFor c p) :=
  fold_keeps _ _ (fun _ i hq => calm_onShed h i _ hq) hp

theorem calm_entryShed (h : Calm I) (c : ConsumerNo) (hp : I p) : I (entryShed c p) := by
  have hs := calm_enterEntry h c .shed hp
  simp only [entryShed]
  split
  · exact calm_pushRecord h _ _ hs
  · exact hs

theorem calm_entryShedFailed (h : Calm I) (c : ConsumerNo) (hp : I p) : I (entryShedFailed c p) := by
  have hf := h.occurs p .tripFail (.consumer c) hp
  simp only [entryShedFailed]
  split
  · exact calm_onEntry h c _ (calm_enterEntry h c _ hf)
  · exact calm_enterEntry h c _ hf

theorem calm_shedOutcome (h : Calm I) (c : ConsumerNo) (out : OrderOutcome) (hp : I p) : I (shedOutcome c out p) := by
  have hshed := calm_rebuildFor h c (calm_endShedFor h c (calm_entryShed h c hp))
  have hfailed := calm_rebuildFor h c (calm_endShedFor h c (calm_entryShedFailed h c hp))
  have hended := calm_endShedFor h c hp
  simp only [shedOutcome]
  split
  · split <;> assumption
  · exact hended

theorem calm_entryRestored (h : Calm I) (c : ConsumerNo) (out : OrderOutcome) (hp : I p) :
    I (entryRestored c out p) := by
  simp only [entryRestored]
  split
  · exact h.occurs _ _ _ (calm_enterEntry h c _ (calm_removeRecord h c hp))
  all_goals
    first
    | exact calm_enterEntry h c _ (calm_onEntry h c _ (h.occurs _ _ _ hp))
    | exact calm_enterEntry h c _ hp

theorem calm_restoreOutcome (h : Calm I) (c : ConsumerNo) (out : OrderOutcome) (hp : I p) :
    I (restoreOutcome c out p) := by
  simp only [restoreOutcome]
  split
  · exact calm_rebuildFor h c (calm_endStepFor h c (calm_entryRestored h c out hp))
  · exact calm_endStepFor h c hp

theorem calm_withdrawRestore (h : Calm I) (c : ConsumerNo) (hp : I p) : I (withdrawRestore c p) := by
  simp only [withdrawRestore]
  split
  · exact calm_restoreOutcome h c _ (h.dropped _ _ hp)
  · exact hp

theorem calm_abandonRestore (h : Calm I) (i : IslandNo) (hp : I p) : I (abandonRestore i p) := by
  unfold abandonRestore
  refine calm_onRestore h i _ ?_
  split
  · exact calm_withdrawRestore h _ hp
  · exact hp

theorem calm_restoredOutside (h : Calm I) (c : ConsumerNo) (hp : I p) : I (restoredOutside c p) :=
  calm_enterEntry h c _ (calm_removeRecord h c hp)

theorem calm_externalChange (h : Calm I) (c : ConsumerNo) (old : ConsumerImage) (hp : I p) :
    I (externalChange c old p) := by
  simp only [externalChange]
  split
  · split <;> [exact calm_rebuildFor h c (calm_enterEntry h c _ hp); exact hp]
  · split <;> [exact calm_rebuildFor h c (calm_enterEntry h c _ hp); exact hp]
  · split <;> [exact calm_rebuildFor h c (calm_restoredOutside h c hp); exact hp]
  · split <;> [exact calm_withdrawRestore h c (calm_rebuildFor h c (calm_restoredOutside h c hp)); exact hp]
  · exact hp
  · exact hp

/-! ### Reserve records -/

theorem calm_reserveState (h : Calm I) (i : IslandNo) (st : ReserveState) (hp : I p) : I (reserveState i st p) :=
  steady_reserveState h.steady i st hp

theorem calm_confirmStart (h : Calm I) (i : IslandNo) (hp : I p) : I (confirmStart i p) :=
  steady_confirmStart h.steady i hp

theorem calm_clearLow (h : Calm I) (i : IslandNo) (hp : I p) : I (clearLow i p) := steady_clearLow h.steady i hp

theorem calm_raiseLow (h : Calm I) (i : IslandNo) (hp : I p) : I (raiseLow i p) := steady_raiseLow h.steady i hp

theorem calm_judgeQuiet (h : Calm I) (i : IslandNo) (spare : Int) (hp : I p) : I (judgeQuiet i spare p) :=
  steady_judgeQuiet h.steady i spare hp

theorem calm_quietThenJudge (h : Calm I) (i : IslandNo) (spare : Int) (hp : I p) : I (quietThenJudge i spare p) :=
  steady_quietThenJudge h.steady i spare hp

end Sys2Proof.Machine
end

