-- ==== Sys2Proof/Laws/Handing.lean ====
section
/-! SUPPORT. What the hand-on of set state changes keeps (R44), and with it the test occasions of the Reserve Unit,
heavy-load requests and the shed sequences: besides the units' records they change only what a start request and an
abandon request of the Reserve Unit change. -/

namespace Sys2Proof.Machine

variable {I : Part → Prop} {p : Part}

/-! ### The Reserve Unit's tests and the hand-on -/

theorem handing_tryStart (h : Handing I) (i : IslandNo) (k : SetNo) (hp : I p) : I (tryStart i k p).part :=
  tests_tryStart h.tests i k hp

theorem handing_reserveJudge (h : Handing I) (i : IslandNo) (spare : Int) (hp : I p) :
    I (reserveJudge i spare p).part := tests_reserveJudge h.tests i spare hp

theorem handing_startConfirmExpired (h : Handing I) (i : IslandNo) (spare : Int) (hp : I p) :
    I (startConfirmExpired i spare p).part := tests_startConfirmExpired h.tests i spare hp

theorem handing_blackoutStart (h : Handing I) (i : IslandNo) (hp : I p) : I (blackoutStart i p).part :=
  tests_blackoutStart h.tests i hp

/-- The hand-on of an operation's changes. -/
theorem handing_handOn (h : Handing I) (o : Sequenced) (ho : I o.part) : I o.handOn := tests_handOn h.tests o ho

theorem handing_testIsland (h : Handing I) (i : IslandNo) (hp : I p) : I (testIsland i p) :=
  tests_testIsland h.tests i hp

theorem handing_testAll (h : Handing I) (hp : I p) : I (testAll p) := tests_testAll h.tests hp

/-! ### Heavy-load requests -/

theorem calm_dropGrant (h : Calm I) (i : IslandNo) (c : ConsumerNo) (hp : I p) : I (dropGrant i c p) :=
  calm_onReserve h i _ (fun _ => rfl) hp

theorem handing_releaseGrant (h : Handing I) (c : ConsumerNo) (hp : I p) : I (releaseGrant c p) :=
  grants_releaseGrant h.grants c hp

theorem handing_grantLost (h : Handing I) (o : Order) (hp : I p) : I (grantLost o p) := grants_grantLost h.grants o hp

/-- The orders handed over for a GRANT or DENY. -/
theorem handing_handHeavy (h : Handing I) (c : ConsumerNo) (a : ConsumerOrder) (hp : I p) :
    I (handHeavy c a p).part := by
  have hh := h.handed p c a false (by simp) hp
  unfold handHeavy
  generalize handOver (.consumer c a) false p = g at hh ⊢
  obtain ⟨q, queued, _ | old⟩ := g
  · exact hh
  · dsimp only
    by_cases hs : isShedOrder old.body = true
    · rw [if_pos hs]
      obtain ⟨s, _ | ⟨k, b⟩, u⟩ := old
      · exact h.handed _ _ _ _ (fun _ => hs) hh
      · simp [isShedOrder] at hs
    · rw [if_neg hs]
      by_cases hr : isRestoreOrder old.body = true
      · rw [if_pos hr]
        exact calm_restoreOutcome h.toCalm c .replaced hh
      · rw [if_neg hr]
        exact handing_grantLost h old hh

theorem handing_deny (h : Handing I) (c : ConsumerNo) (hp : I p) : I (deny c p) :=
  h.toCalm.occurs _ _ _ (handing_handHeavy h c _ hp)

/-- A queue given its head's deadline fits if it is short enough. -/
theorem headed_fits (d : Nat) (q : List HeavyRequest) (hq : q.length ≤ Config.heavyMax) : queueFits (headed d q) := by
  cases q with
  | nil => simp [headed, queueFits]
  | cons r rest =>
    refine ⟨by simpa [headed] using hq, ?_, ?_⟩
    · simp [headed]
    · simp [headed]

theorem calm_onQueue (h : Calm I) (i : IslandNo) (f : List HeavyRequest → List HeavyRequest)
    (hf : (island p i).reserve.queue.length ≤ Config.heavyMax →
      (f (island p i).reserve.queue).length ≤ Config.heavyMax) (hp : I p) : I (onQueue i f p) := by
  refine calm_onIsland h i _ (fun r hr hq => headed_fits _ _ ?_) hp
  have he : island p i = r := by simp only [island, hr, Option.getD_some]
  rw [he] at hf
  exact hf hq.1

theorem handing_heavyReplaced (h : Handing I) (o : Option Order) (hp : I p) : I (heavyReplaced o p) :=
  grants_heavyReplaced h.grants o hp

theorem calm_grantSent (h : Calm I) (c : ConsumerNo) (serial : Nat) (hp : I p) : I (grantSent c serial p) :=
  fold_keeps _ _ (fun _ i hq => calm_onReserve h i _ (fun _ => rfl) hq) hp

theorem handing_drawReported (h : Handing I) (c : ConsumerNo) (hp : I p) : I (drawReported c p) :=
  grants_drawReported h.grants c hp

theorem handing_queueHeavy (h : Handing I) (i : IslandNo) (c : ConsumerNo) (kw : Nat) (hp : I p) :
    I (queueHeavy i c kw p) := by
  simp only [queueHeavy]
  split
  · exact handing_testIsland h i (calm_onQueue h.toCalm i _ (fun hl => by simpa using hl) hp)
  · split
    · exact handing_deny h c hp
    · rename_i hn
      refine handing_testIsland h i (calm_onQueue h.toCalm i _ (fun _ => ?_) hp)
      simp only [Bool.or_eq_true, decide_eq_true_eq, not_or, Nat.not_le] at hn
      simpa using hn.2

theorem handing_heavyRequest (h : Handing I) (c : ConsumerNo) (kw : Nat) (hp : I p) : I (heavyRequest c kw p) := by
  simp only [heavyRequest]
  split
  · split
    · exact handing_queueHeavy h _ c kw (handing_releaseGrant h c hp)
    · exact handing_deny h c hp
  · exact handing_deny h c hp

theorem handing_considerHead (h : Handing I) (i : IslandNo) (spare : Int) (hp : I p) :
    I (considerHead i spare p).1 := by
  unfold considerHead
  split
  · rename_i q _ _
    split
    · have hh := handing_handHeavy h q.consumer .grant hp
      dsimp only
      generalize handHeavy q.consumer .grant p = g at hh ⊢
      obtain ⟨gp, _ | serial, displaced⟩ := g
      · exact hh
      · have hg := h.toCalm.occurs _ .heavyGrant (.consumer q.consumer)
          (calm_onIsland h.toCalm (p := gp) i (fun r => { r with reserve :=
            { r.reserve with
              queue := headed (headDeadline p) r.reserve.queue.tail
              grants := r.reserve.grants ++ [{ consumer := q.consumer, kw := q.kw, hold := none, serial := serial }] } })
            (fun r _ hr => headed_fits _ _ (le_trans (by simp) hr.1)) hh)
        dsimp only
        split
        · exact handing_releaseGrant h q.consumer hg
        · exact hg
    · exact hp
  · exact hp

theorem handing_reservePeriod (h : Handing I) (i : IslandNo) (f : Figures) (hp : I p) : I (reservePeriod i f p) :=
  handing_handOn h _ (handing_reserveJudge h i _ (handing_considerHead h i _ hp))

theorem handing_headExpired (h : Handing I) (i : IslandNo) (hp : I p) : I (headExpired i p) := by
  simp only [headExpired]
  split
  · exact handing_testIsland h i (handing_deny h _ (calm_onQueue h.toCalm i _ (fun hl => le_trans (by simp) hl) hp))
  · exact hp

theorem handing_emptyHeavy (h : Handing I) (i : IslandNo) (hp : I p) : I (emptyHeavy i p) :=
  fold_keeps _ _ (fun _ r hq => handing_deny h r.consumer hq)
    (calm_onIsland h.toCalm i _ (fun _ _ _ => by simp [queueFits]) hp)

theorem handing_forgetHeavy (h : Handing I) (c : ConsumerNo) (hp : I p) : I (forgetHeavy c p) := by
  refine handing_releaseGrant h c ?_
  split
  · exact handing_testIsland h _ (calm_onQueue h.toCalm _ _ (fun hl => le_trans (List.length_filter_le _ _) hl) hp)
  · exact hp

theorem handing_moveGrant (h : Handing I) (c : ConsumerNo) (src dst : IslandNo) (hp : I p) :
    I (moveGrant c src dst p) := by
  have hd := calm_dropGrant h.toCalm src c hp
  simp only [moveGrant]
  split
  · split
    · exact calm_onReserve h.toCalm dst _ (fun _ => rfl) hd
    · exact handing_testIsland h src hd
  · exact hp

theorem handing_moveRequest (h : Handing I) (c : ConsumerNo) (src dst : IslandNo) (hp : I p) :
    I (moveRequest c src dst p) := by
  have hd := calm_onQueue h.toCalm src (fun qs => qs.filter fun r => r.consumer != c)
    (fun hl => le_trans (List.length_filter_le _ _) hl) hp
  simp only [moveRequest]
  split
  · split
    · exact handing_testIsland h src (handing_deny h c hd)
    · rename_i hn
      refine handing_testIsland h dst (handing_testIsland h src (calm_onQueue h.toCalm dst _ (fun _ => ?_) hd))
      simp only [Bool.or_eq_true, decide_eq_true_eq, not_or, Nat.not_lt] at hn
      exact hn.2
  · exact hp

theorem handing_moveHeavy (h : Handing I) (c : ConsumerNo) (src dst : IslandNo) (hp : I p) :
    I (moveHeavy c src dst p) := handing_moveRequest h c src dst (handing_moveGrant h c src dst hp)

/-! ### Shed sequences -/

theorem calm_displaced (h : Calm I) (c : ConsumerNo) (old : Option Order) (hp : I p) : I (displaced c old p) := by
  simp only [displaced]
  split
  · split
    · exact calm_restoreOutcome h c .replaced hp
    · exact hp
  · exact hp

theorem calm_pendShed (h : Calm I) (e : EntryConfig) (relief : Nat) (cause : ShedCause) (hp : I p) :
    I (pendShed e relief cause p) := by
  have he := calm_onEntry h e.consumer (fun r => { r with relief := relief, cause := some cause })
    (calm_enterEntry h e.consumer .shedPending hp)
  simp only [pendShed]
  split
  · exact calm_retrigger h _ he
  · exact he

/-- A shed order handed over. An urgent one is a TRIP or a LIMIT. -/
theorem calm_hand (h : Calm I) (o : ShedHanded) (e : EntryConfig) (a : ConsumerOrder) (urgent : Bool)
    (cause : ShedCause) (ha : isShedOrder (.consumer e.consumer a) = true) (ho : I o.part) :
    I (o.hand e a urgent cause).part := by
  have hh := h.handed o.part e.consumer a urgent (fun _ => ha) ho
  simp only [ShedHanded.hand]
  split
  · exact calm_pendShed h e _ cause (calm_displaced h _ _ hh)
  · exact hh

theorem handing_grantsLost (h : Handing I) (o : ShedHanded) (hp : I p) : I (o.grantsLost p) :=
  fold_keeps _ _ (fun _ r hq => handing_grantLost h r hq) hp

theorem handing_done (h : Handing I) (o : ShedHanded) (i : IslandNo) (ho : I o.part) : I (o.done i) :=
  handing_grantsLost h o (by split <;> [exact ho; exact calm_rebuild h.toCalm i ho])

/-- A fold of shed orders keeps what each of its steps keeps. -/
theorem hand_fold {α : Type} (f : ShedHanded → α → ShedHanded) (l : List α) (o : ShedHanded)
    (hf : ∀ o a, I o.part → I (f o a).part) (ho : I o.part) : I (l.foldl f o).part := by
  induction l generalizing o with
  | nil => exact ho
  | cons a l ih => exact ih _ (hf o a ho)

/-- Every LIMIT of a selection's action keeps within R27. -/
theorem shedMeans_order_fits (m : ShedMeans) (kw : Nat) (h : m.order = .limit kw) : kw ≤ Config.limitMax := by
  cases m with
  | trip => cases h
  | limit n => cases h; exact Nat.min_le_left _ _

/-- Every LIMIT of a paced step keeps within R27, for a floor in its range. -/
theorem stepOrder_fits (q : Part) (f : Figures) (e : EntryConfig) (he : e.floor ≤ Config.limitMax) (kw : Nat)
    (h : stepOrder q f e = .limit kw) : kw ≤ Config.limitMax := by
  unfold stepOrder at h
  split at h
  · cases h
  · dsimp only at h
    split at h <;> cases h
    · exact Nat.min_le_left _ _
    · exact he

theorem shedMeans_order_isShed (c : ConsumerNo) (m : ShedMeans) : isShedOrder (.consumer c m.order) = true := by
  cases m <;> rfl

theorem wholeOrder_isShed (c : ConsumerNo) (e : EntryConfig) : isShedOrder (.consumer c (wholeOrder e)) = true := by
  unfold wholeOrder
  split <;> rfl

theorem stepOrder_isShed (c : ConsumerNo) (q : Part) (f : Figures) (e : EntryConfig) :
    isShedOrder (.consumer c (stepOrder q f e)) = true := by
  unfold stepOrder
  split
  · rfl
  · dsimp only
    split <;> rfl

theorem calm_takeAction (h : Calm I) (i : IslandNo) (cause : ShedCause) (o : ShedHanded) (a : ShedAction)
    (ho : I o.part) : I (takeAction i cause o a).part := by
  simp only [takeAction]
  split
  · split
    · exact calm_hand h o _ _ true cause (shedMeans_order_isShed _ _) ho
    · exact ho
  · exact ho

theorem handing_fastShed (h : Handing I) (i : IslandNo) (cause : ShedCause) (actions : List ShedAction) (hp : I p) :
    I (fastShed i cause actions p) := by
  have hc := h.toCalm
  have hh := hand_fold (I := I) (takeAction i cause) actions (noneHanded (abandonRestore i p))
    (fun o a => calm_takeAction hc i cause o a) (calm_abandonRestore hc i hp)
  have hb := calm_retrigger hc i (calm_onShed hc i
    (burstContext p.clock (actions.foldl (takeAction i cause) (noneHanded (abandonRestore i p))).queued) hh)
  refine handing_done h _ i ?_
  dsimp only
  split
  · exact hb
  · exact hc.occurs _ _ _ hb

theorem handing_setLoss (h : Handing I) (k : SetNo) (i : IslandNo) (hp : I p) : I (setLoss k i p) := by
  have hd := calm_discardSelection h.toCalm k hp
  simp only [setLoss]
  split
  · exact handing_fastShed h i _ _ hd
  · exact hd

theorem calm_stepExhausted (h : Calm I) (i : IslandNo) (hp : I p) : I (stepExhausted i p) := by
  unfold stepExhausted
  refine calm_onShed h i _ ?_
  split
  · exact hp
  · exact h.occurs _ _ _ hp

theorem handing_pacedStep (h : Handing I) (i : IslandNo) (f : Figures) (hp : I p) : I (pacedStep i f p) := by
  have hc := h.toCalm
  simp only [pacedStep]
  split
  · exact calm_stepExhausted hc i hp
  · have hh := calm_hand hc (noneHanded p) ‹EntryConfig› (stepOrder p f ‹EntryConfig›) true .paced
      (stepOrder_isShed _ _ _ _) hp
    split
    · exact hh
    · exact handing_done h _ i (hc.occurs _ _ _ (calm_onShed hc i _ hh))

theorem calm_pacedTest (h : Calm I) (i : IslandNo) (f : Figures) (hp : I p) : I (pacedTest i f p) := by
  simp only [pacedTest]
  split
  · split
    · exact calm_retrigger h i (calm_onShed h i _ hp)
    · exact hp
  · split
    · exact hp
    · exact calm_onShed h i _ hp
  all_goals exact hp

theorem handing_checkExpired (h : Handing I) (i : IslandNo) (hp : I p) : I (checkExpired i p) := by
  have hc := h.toCalm
  have ht := calm_takeFigures hc i hp
  simp only [checkExpired]
  split
  · split
    · exact calm_onShed hc i _ ht
    · exact handing_pacedStep h i _ (calm_onShed hc i _ ht)
  · exact calm_onShed hc i _ ht

theorem handing_pacerExpired (h : Handing I) (i : IslandNo) (hp : I p) : I (pacerExpired i p) := by
  have ht := calm_takeFigures h.toCalm i hp
  simp only [pacerExpired]
  split
  · exact handing_pacedStep h i _ ht
  · exact calm_onShed h.toCalm i _ ht

theorem calm_stillDue (h : Calm I) (i : IslandNo) (hp : I p) : I (stillDue i p) := calm_onRestore h i _ hp

theorem handing_restoreStepFor (h : Handing I) (i : IslandNo) (c : ConsumerNo) (hp : I p) :
    I (restoreStepFor i c p) := by
  have hc := h.toCalm
  have hh := hc.handed p c (restoreOrder p c) false (by simp) hp
  simp only [restoreStepFor]
  split
  · exact handing_heavyReplaced h _ (calm_rebuildFor hc c (calm_onRestore hc i _ (calm_enterEntry hc c _ hh)))
  · exact calm_stillDue hc i hh

theorem handing_tryRestore (h : Handing I) (i : IslandNo) (f : Figures) (hp : I p) : I (tryRestore i f p) := by
  have hc := h.toCalm
  simp only [tryRestore]
  split
  · exact calm_onRestore hc i _ hp
  · split
    · split
      · exact handing_restoreStepFor h i _ hp
      · exact calm_stillDue hc i hp
    · exact calm_stillDue hc i hp

theorem calm_commandRestoreStep (h : Calm I) (i : IslandNo) (hp : I p) : I (commandRestoreStep i p).1 := by
  simp only [commandRestoreStep]
  split
  · exact calm_onRestore h i _ hp
  · exact hp

theorem handing_overloadTests (h : Handing I) (i : IslandNo) (f : Figures) (hp : I p) : I (overloadTests i f p) := by
  simp only [overloadTests]
  split
  · exact handing_fastShed h i _ _ hp
  · exact calm_pacedTest h.toCalm i f hp

theorem handing_shedPeriod (h : Handing I) (i : IslandNo) (f : Figures) (counted : List SetNo) (hp : I p) :
    I (shedPeriod i f counted p) := by
  have ht := handing_overloadTests h i f (calm_rebuildWith h.toCalm i f counted hp)
  simp only [shedPeriod]
  split
  · exact handing_tryRestore h i f ht
  · exact ht

theorem handing_clearDead (h : Handing I) (i : IslandNo) (hp : I p) : I (clearDead i p) := by
  have hc := h.toCalm
  have hr := calm_abandonRestore hc i (calm_onShed hc i (fun _ => ShedContext.fresh) hp)
  refine handing_grantsLost h _ (calm_rebuild hc i (fold_keeps _ _ (fun _ k hq => calm_discardSelection hc k hq) ?_))
  exact hand_fold _ _ _ (fun o e ho => calm_hand hc o e _ true _ (wholeOrder_isShed _ _) ho) hr

theorem handing_manualShed (h : Handing I) (e : EntryConfig) (hp : I p) : I (manualShed e p).1 := by
  have hc := h.toCalm
  have hh := calm_hand hc (noneHanded p) e (wholeOrder e) false .manual (wholeOrder_isShed _ _) hp
  simp only [manualShed]
  split
  · split
    · exact hh
    · split
      · exact handing_done h _ _ hh
      · exact hh
  · exact calm_changeRecord hc _ _ hp
  · exact hp

theorem calm_manualRelease (h : Calm I) (c : ConsumerNo) (hp : I p) : I (manualRelease c p).1 := by
  simp only [manualRelease]
  split
  · split
    · exact calm_rebuildFor h c (calm_onEntry h c _ (calm_changeRecord h c _ hp))
    · exact calm_changeRecord h c _ hp
  · exact hp

end Sys2Proof.Machine
end

