-- ==== Sys2Proof/Laws/Units.lean ====
section
/-! SUPPORT. What the Set Sequencer's operations keep. Each enters a state only from a state, so a set without a state
stays without one (R42). -/

namespace Sys2Proof.Machine

variable {I : Part → Prop} {p : Part}

/-- An update of one sequencer record that leaves the set with a state exactly where it had one. -/
theorem units_onSeq (h : Units I) (k : SetNo) (f : SeqRecord → SeqRecord)
    (hs : (f p.seq[k]).state.isSome = p.seq[k].state.isSome)
    (ht : (f p.seq[k]).timer.isSome = true → p.seq[k].timer.isSome = true ∨ p.seq[k].state.isSome = true)
    (hp : I p) : I (onSeq k f p) := by
  refine h.seqs p _ ?_ hp
  intro he j
  have hj := he j
  simp only [Fin.getElem_fin, setConfigured, setCfg] at hj ⊢
  by_cases hkj : k = j
  · subst hkj
    simp only [modifyAt_self]
    refine ⟨by rw [← hj.1]; exact hs, fun hf => ?_⟩
    have := ht hf
    rw [show (f p.seq[k.val]).state.isSome = p.seq[k.val].state.isSome from hs]
    exact this.elim hj.2 id
  · simp only [modifyAt_other _ _ _ _ hkj]
    exact hj

theorem units_stopSetTimer (h : Units I) (k : SetNo) (hp : I p) : I (stopSetTimer k p) :=
  units_onSeq h k _ rfl (by simp) hp

theorem units_startSetTimer (h : Units I) (k : SetNo) (t : SetTimer) (ms : Nat)
    (hk : p.seq[k].state.isSome = true) (hp : I p) : I (startSetTimer k t ms p) :=
  units_onSeq h k _ rfl (fun _ => .inr hk) hp

theorem units_setOrigin (h : Units I) (k : SetNo) (o : Option RampOrigin) (hp : I p) : I (setOrigin k o p) :=
  units_onSeq h k _ rfl .inl hp

theorem units_setDeadBusSent (h : Units I) (k : SetNo) (b : Option Bool) (hp : I p) : I (setDeadBusSent k b p) :=
  units_onSeq h k _ rfl .inl hp

theorem units_setSlow (h : Units I) (k : SetNo) (b : Bool) (hp : I p) : I (onSeq k (fun r => { r with slow := b }) p) :=
  units_onSeq h k _ rfl .inl hp

theorem units_clearSlow (h : Units I) (k : SetNo) (hp : I p) : I (clearSlow k p) := units_setSlow h k false hp

theorem units_noteOutcome (h : Units I) (k : SetNo) (a : SetOrder) (out : OrderOutcome) (hp : I p) :
    I (noteOutcome k a out p) := units_onSeq h k _ rfl .inl hp

theorem units_noteReplaced (h : Units I) (k : SetNo) (o : Option Order) (hp : I p) : I (noteReplaced k o p) := by
  unfold noteReplaced
  split
  · exact units_noteOutcome h k _ _ hp
  · exact hp

theorem units_noteHanded (h : Units I) (k : SetNo) (a : SetOrder) (o : HandedOver) (ho : I o.part) :
    I (noteHanded k a o).1 := by
  have hn := units_noteReplaced h k o.replaced ho
  simp only [noteHanded]
  split
  · exact hn
  · exact units_noteOutcome h k a _ hn

theorem units_handSet (h : Units I) (k : SetNo) (a : SetOrder) (hp : I p) : I (handSet k a p).1 :=
  units_noteHanded h k a _ (h.setHanded p k a hp)

theorem units_withdrawSet (h : Units I) (k : SetNo) (hp : I p) : I (withdrawSet k p) := by
  unfold withdrawSet
  split
  · exact units_noteOutcome h k _ _ (h.setDropped _ _ hp)
  · exact hp

/-- A set with a state enters another. -/
theorem units_enter (h : Units I) (o : Sequenced) (k : SetNo) (st : SetState)
    (hk : o.part.seq[k].state.isSome = true) (ho : I o.part) : I (o.enter k st).part :=
  units_onSeq h k _ (by simpa using hk.symm) .inl ho

/-! ### Which operations leave a set's state as it is -/

theorem noteOutcome_state (k j : SetNo) (a : SetOrder) (out : OrderOutcome) :
    (noteOutcome k a out p).seq[j].state = p.seq[j].state := by
  simp only [noteOutcome, onSeq_seq, Fin.getElem_fin, modifyAt_get]
  split <;> rfl

theorem stopSetTimer_state (k j : SetNo) : (stopSetTimer k p).seq[j].state = p.seq[j].state := by
  simp only [stopSetTimer, onSeq_seq, Fin.getElem_fin, modifyAt_get]
  split <;> rfl

theorem clearSlow_state (k j : SetNo) : (clearSlow k p).seq[j].state = p.seq[j].state := by
  simp only [clearSlow, onSeq_seq, Fin.getElem_fin, modifyAt_get]
  split <;> rfl

theorem startSetTimer_state (k j : SetNo) (t : SetTimer) (ms : Nat) :
    (startSetTimer k t ms p).seq[j].state = p.seq[j].state := by
  simp only [startSetTimer, onSeq_seq, Fin.getElem_fin, modifyAt_get]
  split <;> rfl

theorem setOrigin_state (k j : SetNo) (o : Option RampOrigin) : (setOrigin k o p).seq[j].state = p.seq[j].state := by
  simp only [setOrigin, onSeq_seq, Fin.getElem_fin, modifyAt_get]
  split <;> rfl

theorem setDeadBusSent_state (k j : SetNo) (b : Option Bool) :
    (setDeadBusSent k b p).seq[j].state = p.seq[j].state := by
  simp only [setDeadBusSent, onSeq_seq, Fin.getElem_fin, modifyAt_get]
  split <;> rfl

theorem sendReport_seq : (sendReport p).seq = p.seq := by
  unfold sendReport
  split
  · split <;> rfl
  · rfl

theorem occur_seq (k : EventKind) (o : EventObject) : (occur k o p).seq = p.seq := by
  simp only [occur, queueReport]
  split
  · rfl
  · split
    · rfl
    · split
      · exact sendReport_seq
      · rfl

theorem dropQueued_seq (o : ObjectRef) : (dropQueued o p).seq = p.seq := rfl

theorem arbitrate_seq : (arbitrate p).seq = p.seq := by
  unfold arbitrate
  split
  · split <;> rfl
  · rfl

theorem replaceOrder_seq (o old : Order) : (replaceOrder o old p).part.seq = p.seq := by
  simp only [replaceOrder, queueFull]
  split
  · rfl
  · split
    · rfl
    · split
      · rfl
      · exact occur_seq _ _

theorem joinQueues_seq (b : OrderBody) (u : Bool) : (joinQueues b u p).part.seq = p.seq := by
  simp only [joinQueues, queueFull]
  split
  · rfl
  · split
    · exact replaceOrder_seq _ _
    · split
      · rfl
      · split
        · rfl
        · exact occur_seq _ _

theorem handOver_seq (b : OrderBody) (u : Bool) : (handOver b u p).part.seq = p.seq := by
  unfold handOver
  extract_lets h
  split
  · exact arbitrate_seq.trans (joinQueues_seq b u)
  · exact joinQueues_seq b u

theorem noteReplaced_state (k j : SetNo) (o : Option Order) : (noteReplaced k o p).seq[j].state = p.seq[j].state := by
  unfold noteReplaced
  split
  · exact noteOutcome_state _ _ _ _
  · rfl

theorem noteHanded_state (k j : SetNo) (a : SetOrder) (o : HandedOver) :
    (noteHanded k a o).1.seq[j].state = o.part.seq[j].state := by
  simp only [noteHanded]
  split
  · exact noteReplaced_state _ _ _
  · rw [noteOutcome_state, noteReplaced_state]

theorem handSet_state (k j : SetNo) (a : SetOrder) : (handSet k a p).1.seq[j].state = p.seq[j].state := by
  unfold handSet
  rw [noteHanded_state, handOver_seq]

theorem withdrawSet_state (k j : SetNo) : (withdrawSet k p).seq[j].state = p.seq[j].state := by
  unfold withdrawSet
  split
  · rw [noteOutcome_state, dropQueued_seq]
  · rfl

/-- The state of a set that has just entered one. -/
theorem enter_state (o : Sequenced) (k : SetNo) (st : SetState) : (o.enter k st).part.seq[k].state = some st := by
  simp [Sequenced.enter]

/-- A set in a known state has a state. -/
theorem setStateIs_some {k : SetNo} {st : SetState} (hs : setStateIs p k st = true) :
    p.seq[k].state.isSome = true := by
  simp only [setStateIs, beq_iff_eq] at hs
  rw [hs]
  rfl

/-! ### The Set Sequencer's operations -/

/-- A SYNC order handed over in one way or the other, which leaves the sets' records alone. -/
theorem units_handSyncBy (h : Units I) (hand : OrderBody → Bool → Part → HandedOver) (o : Sequenced) (k : SetNo)
    (hh : ∀ q a, I q → I (hand (.set k a) false q).part) (hs : ∀ q b u, (hand b u q).part.seq = q.seq)
    (hk : o.part.seq[k].state.isSome = true) (ho : I o.part) : I (o.handSyncBy hand k).part := by
  unfold Sequenced.handSyncBy
  extract_lets deadBus g o1
  have hg : I g.1 := units_noteHanded h k _ _ (hh _ _ (units_setDeadBusSent h k _ ho))
  have hgs : g.1.seq[k].state.isSome = true := by
    dsimp only [g]
    rw [noteHanded_state, hs, setDeadBusSent_state]
    exact hk
  split
  · exact hg
  · refine units_handSet h k _ (h.occurs _ _ _ (units_enter h _ k _ ?_ (units_stopSetTimer h k hg)))
    simp only [o1, Sequenced.on]
    rw [stopSetTimer_state]
    exact hgs

theorem units_handSync (h : Units I) (o : Sequenced) (k : SetNo) (hk : o.part.seq[k].state.isSome = true)
    (ho : I o.part) : I (o.handSync k).part :=
  units_handSyncBy h handOver o k (fun q a hq => h.setHanded q k a hq) (fun _ b u => handOver_seq b u) hk ho

theorem units_joinSync (h : Units I) (o : Sequenced) (k : SetNo) (hk : o.part.seq[k].state.isSome = true)
    (ho : I o.part) : I (o.handSyncBy joinQueues k).part :=
  units_handSyncBy h joinQueues o k (fun q a hq => h.setJoined q k a hq) (fun _ b u => joinQueues_seq b u) hk ho

theorem units_enterStopping (h : Units I) (o : Sequenced) (k : SetNo) (hk : o.part.seq[k].state.isSome = true)
    (ho : I o.part) : I (o.enterStopping k).part := by
  have he := units_enter h (o.on (stopSetTimer k)) k .stopping
    (by simp only [Sequenced.on]; rw [stopSetTimer_state]; exact hk) (units_stopSetTimer h k ho)
  have hh := units_handSet h k .stop he
  simp only [Sequenced.enterStopping]
  split
  · exact hh
  · refine units_enter h _ k _ ?_ (h.occurs _ _ _ hh)
    simp only [Sequenced.on, occur_seq]
    rw [handSet_state, enter_state]
    rfl

theorem units_startRequest (h : Units I) (k : SetNo) (hp : I p) : I (startRequest k p).1.part := by
  simp only [startRequest]
  split
  · rename_i hc
    simp only [Bool.and_eq_true] at hc
    have he := units_enter h ((sequenced p).on (stopSetTimer k)) k .starting
      (by simp only [Sequenced.on, sequenced]; rw [stopSetTimer_state]; exact setStateIs_some hc.2)
      (units_stopSetTimer h k hp)
    have hh := units_handSet h k .start he
    split
    · exact hh
    · refine units_enter h _ k _ ?_ hh
      dsimp only
      rw [handSet_state, enter_state]
      rfl
  · exact hp

theorem units_stopRequest (h : Units I) (k : SetNo) (hp : I p) : I (stopRequest k p).1.part := by
  simp only [stopRequest]
  split
  · rename_i hc
    simp only [Bool.and_eq_true] at hc
    refine units_enter h _ k _ ?_ (units_setOrigin h k _ hp)
    simp only [Sequenced.on, sequenced]
    rw [setOrigin_state]
    exact setStateIs_some hc.2
  · exact hp

theorem units_abandonRequest (h : Units I) (k : SetNo) (hp : I p) : I (abandonRequest k p).part := by
  simp only [abandonRequest]
  split
  · rename_i hc
    simp only [Bool.and_eq_true] at hc
    refine units_enter h _ k _ ?_ (units_setOrigin h k _ (units_clearSlow h k hp))
    simp only [Sequenced.on, sequenced]
    rw [setOrigin_state, clearSlow_state]
    exact setStateIs_some hc.1
  · exact hp

/-- A condition that every change of the units keeps is kept by the hand-on. -/
theorem Units.toHanding (h : Units I) : Handing I :=
  { toCalm := h.toCalm
    starts := fun _ k hp => units_startRequest h k hp
    abandons := fun _ k hp => units_abandonRequest h k hp }

theorem units_handOn (h : Units I) (o : Sequenced) (ho : I o.part) : I o.handOn := handing_handOn h.toHanding o ho

/-- A running set timer's set has a state. -/
theorem setTimerRuns_some {k : SetNo} {t : SetTimer} {d : Nat} (hr : setTimerRuns p k t = some d) :
    p.seq[k].state = some t.runsIn := by
  simp only [setTimerRuns] at hr
  split at hr
  · split at hr
    · rename_i hc
      exact hc.2
    · cases hr
  · cases hr

theorem units_startExpired (h : Units I) (k : SetNo) (hk : p.seq[k].state.isSome = true) (hp : I p) :
    I (startExpired k p).part := by
  simp only [startExpired]
  split
  · refine units_enter h _ k _ ?_ (units_handSet h k _ (units_stopSetTimer h k (h.occurs _ _ _ hp)))
    simp only [sequenced]
    rw [handSet_state, stopSetTimer_state, occur_seq]
    exact hk
  · refine units_startSetTimer h k _ _ ?_ (h.occurs _ _ _ (units_setSlow h k true hp))
    rw [occur_seq]
    simpa using hk

theorem units_syncExpired (h : Units I) (k : SetNo) (hk : p.seq[k].state.isSome = true) (hp : I p) :
    I (syncExpired k p).part := by
  refine units_enter h _ k _ ?_ (units_handSet h k _ (units_stopSetTimer h k (h.occurs _ _ _ hp)))
  simp only [sequenced]
  rw [handSet_state, stopSetTimer_state, occur_seq]
  exact hk

theorem units_openFailed (h : Units I) (o : Sequenced) (k : SetNo) (hk : o.part.seq[k].state.isSome = true)
    (ho : I o.part) : I (o.openFailed k).part := by
  refine units_enter h _ k _ ?_ (units_setOrigin h k _ (units_clearSlow h k (units_stopSetTimer h k (h.occurs _ _ _ ho))))
  simp only [Sequenced.on]
  rw [setOrigin_state, clearSlow_state, stopSetTimer_state, occur_seq]
  exact hk

theorem units_stopExpired (h : Units I) (k : SetNo) (hk : p.seq[k].state.isSome = true) (hp : I p) :
    I (stopExpired k p).part := by
  refine units_enter h _ k _ ?_ (units_stopSetTimer h k (h.occurs _ _ _ hp))
  simp only [sequenced]
  rw [stopSetTimer_state, occur_seq]
  exact hk

theorem units_rampComplete (h : Units I) (k : SetNo) (hp : I p) : I (rampComplete k p).part := by
  simp only [rampComplete]
  split
  · rename_i hc
    refine units_enter h _ k _ ?_ (units_clearSlow h k hp)
    simp only [Sequenced.on, sequenced]
    rw [clearSlow_state]
    exact setStateIs_some hc
  · split
    · rename_i hc
      have he := units_enter h ((sequenced p).on (stopSetTimer k)) k .opening
        (by simp only [Sequenced.on, sequenced]; rw [stopSetTimer_state]; exact setStateIs_some hc)
        (units_stopSetTimer h k hp)
      have hh := units_handSet h k .openBreaker he
      split
      · exact hh
      · refine units_openFailed h _ k ?_ hh
        dsimp only
        rw [handSet_state, enter_state]
        rfl
    · exact hp

theorem units_protection (h : Units I) (o : Sequenced) (k : SetNo) (ho : I o.part) : I (o.protection k).part := by
  have he : o.part.seq[k].state.isSome = true → I ((o.on (stopSetTimer k)).enter k .tripped).part := fun hk =>
    units_enter h _ k _ (by simp only [Sequenced.on]; rw [stopSetTimer_state]; exact hk) (units_stopSetTimer h k ho)
  simp only [Sequenced.protection]
  split
  · split <;> first
      | exact ho
      | (have hk := he (by simp only [Fin.getElem_fin] at *; simp_all)
         first
         | exact hk
         | exact units_handSet h k _ hk)
  · exact ho

theorem units_unexpectedClose (h : Units I) (o : Sequenced) (k : SetNo) (hk : o.part.seq[k].state.isSome = true)
    (ho : I o.part) : I (o.unexpectedClose k).part := by
  refine units_enter h _ k _ ?_ (units_setDeadBusSent h k _ (units_withdrawSet h k (units_stopSetTimer h k ho)))
  simp only [Sequenced.on]
  rw [setDeadBusSent_state, withdrawSet_state, stopSetTimer_state]
  exact hk

theorem units_trippedOff (h : Units I) (o : Sequenced) (k : SetNo) (hk : o.part.seq[k].state.isSome = true)
    (ho : I o.part) : I (o.trippedOff k).part := by
  refine units_enter h _ k _ ?_ (units_withdrawSet h k (units_setOrigin h k _ (units_stopSetTimer h k ho)))
  simp only [Sequenced.on]
  rw [withdrawSet_state, setOrigin_state, stopSetTimer_state]
  exact hk

theorem units_stoppedIfDown (h : Units I) (o : Sequenced) (k : SetNo) (ho : I o.part) :
    I (o.stoppedIfDown k).part := by
  simp only [Sequenced.stoppedIfDown]
  split
  · rename_i hc
    simp only [Bool.and_eq_true] at hc
    obtain ⟨d, hd⟩ := Option.isSome_iff_exists.mp hc.1
    refine units_enter h _ k _ ?_ (units_setOrigin h k _ (units_stopSetTimer h k ho))
    simp only [Sequenced.on]
    rw [setOrigin_state, stopSetTimer_state, setTimerRuns_some hd]
    rfl
  · exact ho

theorem units_synchronised (h : Units I) (o : Sequenced) (k : SetNo) (hk : o.part.seq[k].state.isSome = true)
    (ho : I o.part) : I (o.synchronised k).part := units_unexpectedClose h o k hk ho

/-- A set handed a SYNC order still has a state. -/
theorem joinSync_some (o : Sequenced) (k : SetNo) (hk : o.part.seq[k].state.isSome = true) :
    (o.handSyncBy joinQueues k).part.seq[k].state.isSome = true := by
  simp only [Sequenced.handSyncBy]
  split
  · dsimp only
    rw [noteHanded_state, joinQueues_seq, setDeadBusSent_state]
    exact hk
  · simp only [Sequenced.on]
    rw [handSet_state, occur_seq, enter_state]
    rfl

theorem units_runningReported (h : Units I) (o : Sequenced) (k : SetNo) (hk : o.part.seq[k].state.isSome = true)
    (ho : I o.part) : I (o.runningReported k).part := by
  have he := units_enter h (o.on (stopSetTimer k)) k .synchronising
    (by simp only [Sequenced.on]; rw [stopSetTimer_state]; exact hk) (units_stopSetTimer h k ho)
  have hes : ((o.on (stopSetTimer k)).enter k .synchronising).part.seq[k].state.isSome = true := by
    rw [enter_state]; rfl
  have hh := units_joinSync h _ k hes he
  have hhs := joinSync_some _ k hes
  simp only [Sequenced.runningReported]
  split
  · split
    · exact units_synchronised h _ k hhs hh
    · exact units_unexpectedClose h _ k hhs hh
  · exact units_handSync h _ k hes he

theorem units_recordEvent (h : Units I) (k : SetNo) (hp : I p) : I (recordEvent k p).part := by
  have hq : I (sequenced p).part := hp
  simp only [recordEvent]
  split
  all_goals rename_i hs
  · have hk : (sequenced p).part.seq[k].state.isSome = true := by simp only [sequenced]; rw [hs]; rfl
    split
    · exact units_runningReported h _ k hk hq
    · split
      · exact units_unexpectedClose h _ k hk hq
      · exact units_protection h _ k hq
  · have hk : (sequenced p).part.seq[k].state.isSome = true := by simp only [sequenced]; rw [hs]; rfl
    split
    · exact units_synchronised h _ k hk hq
    · exact units_protection h _ k hq
  · have hk : (sequenced p).part.seq[k].state.isSome = true := by simp only [sequenced]; rw [hs]; rfl
    split
    · exact hq
    · exact units_trippedOff h _ k hk hq
  · have hk : (sequenced p).part.seq[k].state.isSome = true := by simp only [sequenced]; rw [hs]; rfl
    split
    · exact hq
    · exact units_trippedOff h _ k hk hq
  · have hk : (sequenced p).part.seq[k].state.isSome = true := by simp only [sequenced]; rw [hs]; rfl
    split
    · exact hq
    · exact units_trippedOff h _ k hk hq
  · have hk : (sequenced p).part.seq[k].state.isSome = true := by simp only [sequenced]; rw [hs]; rfl
    split
    · exact hq
    · exact units_protection h _ k (units_enterStopping h _ k hk hq)
  · have hk : (sequenced p).part.seq[k].state.isSome = true := by simp only [sequenced]; rw [hs]; rfl
    split
    · exact units_unexpectedClose h _ k hk hq
    · exact units_protection h _ k (units_stoppedIfDown h _ k hq)
  · have hk : (sequenced p).part.seq[k].state.isSome = true := by simp only [sequenced]; rw [hs]; rfl
    split
    · exact units_unexpectedClose h _ k hk hq
    · split
      · exact units_protection h _ k (units_enter h _ k _ hk hq)
      · exact units_protection h _ k hq
  · have hk : (sequenced p).part.seq[k].state.isSome = true := by simp only [sequenced]; rw [hs]; rfl
    split
    · exact units_unexpectedClose h _ k hk hq
    · exact hq
  · have hk : (sequenced p).part.seq[k].state.isSome = true := by simp only [sequenced]; rw [hs]; rfl
    split
    · exact units_unexpectedClose h _ k hk hq
    · exact units_protection h _ k hq
  · exact hq
  · exact hq

theorem units_setOrderSent (h : Units I) (k : SetNo) (a : SetOrder) (serial : Nat) (hp : I p) :
    I (setOrderSent k a serial p).part := by
  have hn := units_noteOutcome h k a .sent hp
  have hns : (noteOutcome k a .sent p).seq[k].state = p.seq[k].state := noteOutcome_state _ _ _ _
  simp only [setOrderSent]
  split
  · exact units_startSetTimer h k _ _ (by rw [hns]; simp only [*]; rfl) hn
  · split
    · exact units_startSetTimer h k _ _ (by rw [hns]; simp only [*]; rfl) hn
    · exact hn
  · exact units_startSetTimer h k _ _ (by rw [hns]; simp only [*]; rfl) hn
  · split
    · exact units_protection h _ k (units_stoppedIfDown h _ k
        (units_startSetTimer h k _ _ (by rw [hns]; simp only [*]; rfl) hn))
    · exact hn
  · exact hn

theorem units_settle (h : Units I) (o : Sequenced) (k : SetNo) (st : SetState)
    (hk : o.part.seq[k].state.isSome = true) (ho : I o.part) : I (o.settle k st).part := by
  simp only [Sequenced.settle]
  split
  · exact ho
  · exact units_enter h o k st hk ho

theorem units_deriveSet (h : Units I) (k : SetNo) (hk : p.seq[k].state.isSome = true) (hp : I p) :
    I (deriveSet k p).part := by
  refine units_settle h _ k _ ?_ (units_setDeadBusSent h k _ (units_setOrigin h k _ (units_stopSetTimer h k hp)))
  simp only [sequenced]
  rw [setDeadBusSent_state, setOrigin_state, stopSetTimer_state]
  exact hk

theorem units_toLocal (h : Units I) (k : SetNo) (hk : p.seq[k].state.isSome = true) (hp : I p) :
    I (toLocal k p).part := by
  refine units_enter h _ k _ ?_
    (units_setDeadBusSent h k _ (units_setOrigin h k _ (units_withdrawSet h k (units_stopSetTimer h k hp))))
  simp only [sequenced]
  rw [setDeadBusSent_state, setOrigin_state, withdrawSet_state, stopSetTimer_state]
  exact hk

theorem units_commandStart (h : Units I) (k : SetNo) (hp : I p) : I (commandStart k p).1.part :=
  units_startRequest h k hp

theorem units_commandStop (h : Units I) (k : SetNo) (hp : I p) : I (commandStop k p).1.part := by
  simp only [commandStop]
  split
  all_goals try rename_i hs
  · have ho := units_setOrigin h k (some .supervisor) hp
    have hr := units_enter h ((sequenced p).on (setOrigin k (some .supervisor))) k .rampOut
      (by simp only [Sequenced.on, sequenced]; rw [setOrigin_state, hs]; rfl) ho
    split <;> split <;> first
      | exact hp
      | exact hr
  · have ho := units_setOrigin h k (some .supervisor) hp
    have hr := units_enter h ((sequenced p).on (setOrigin k (some .supervisor))) k .rampOut
      (by simp only [Sequenced.on, sequenced]; rw [setOrigin_state, hs]; rfl) ho
    split <;> split <;> first
      | exact hp
      | exact hr
  · exact units_enterStopping h _ k (by simp only [sequenced]; rw [hs]; rfl) hp
  · exact units_enterStopping h _ k (by simp only [sequenced]; rw [hs]; rfl) hp
  · exact units_setOrigin h k _ hp
  all_goals exact hp

theorem units_commandBlock (h : Units I) (k : SetNo) (hp : I p) : I (commandBlock k p).1.part := by
  have hb : p.seq[k].state.isSome = true → I ((sequenced (stopSetTimer k p)).enter k .blocked).part := fun hk =>
    units_enter h _ k _ (by simp only [sequenced]; rw [stopSetTimer_state]; exact hk) (units_stopSetTimer h k hp)
  have hc : p.seq[k].state.isSome = true →
      I ((sequenced (handSet k .stop (stopSetTimer k p)).1).enter k .blocked).part := fun hk =>
    units_enter h _ k _ (by simp only [sequenced]; rw [handSet_state, stopSetTimer_state]; exact hk)
      (units_handSet h k _ (units_stopSetTimer h k hp))
  simp only [commandBlock]
  split
  all_goals try rename_i hs
  all_goals first
    | exact hp
    | exact hb (by rw [hs]; rfl)
    | exact hc (by rw [hs]; rfl)

theorem units_commandReset (h : Units I) (k : SetNo) (hp : I p) : I (commandReset k p).1.part := by
  have hc := units_setSlow h k false hp
  have hd : p.seq[k].state.isSome = true → I (deriveSet k (onSeq k (fun r => { r with slow := false }) p)).part :=
    fun hk => units_deriveSet h k (by simpa using hk) hc
  simp only [commandReset]
  split
  all_goals try rename_i hs
  · split
    · exact hp
    · exact hd (by rw [hs]; rfl)
  · exact hd (by rw [hs]; rfl)
  · exact hc
  · exact hp

theorem units_setAction (h : Units I) (a : SetAction) (k : SetNo) (hp : I p) : I (setAction a k p).1.part := by
  cases a
  · exact units_commandStart h k hp
  · exact units_commandStop h k hp
  · exact units_commandBlock h k hp
  · exact units_commandReset h k hp

end Sys2Proof.Machine
end

