-- ==== Sys2Proof/Laws/Topo.lean ====
section
/-! SUPPORT. What changes of marking, merges and splits keep (R15, R19, R20). -/

namespace Sys2Proof.Machine

variable {I : Part → Prop} {p : Part}

/-! ### Marking -/

theorem units_syncAgree (h : Units I) (i : IslandNo) (hp : I p) : I (syncAgree i p).part := by
  unfold syncAgree
  have hf : ∀ (l : List SetNo) (o : Sequenced), I o.part →
      I (l.foldl (fun o k => if syncDisagrees o.part i k then o.handSync k else o) o).part := by
    intro l
    induction l with
    | nil => exact fun _ ho => ho
    | cons k l ih =>
      intro o ho
      refine ih _ ?_
      dsimp only
      split
      · rename_i hc
        simp only [syncDisagrees, Bool.and_eq_true] at hc
        exact units_handSync h o k (setStateIs_some hc.1.2) ho
      · exact ho
  exact hf _ _ hp

theorem handing_reserveDead (h : Handing I) (i : IslandNo) (hp : I p) : I (reserveDead i p) :=
  handing_handOn h _ (handing_blackoutStart h i (handing_emptyHeavy h i
    (calm_onReserve h.toCalm i (fun r => { r with timer := none, stoppingSet := none }) (fun _ => rfl) hp)))

theorem handing_deadIsland (h : Handing I) (i : IslandNo) (hp : I p) : I (deadIsland i p) :=
  handing_reserveDead h i (handing_clearDead h i hp)

theorem calm_endPeriods (h : Calm I) (i : IslandNo) (hp : I p) : I (endPeriods i p) :=
  calm_clearSaturation h i (calm_clearTargets h i (calm_stopPlans h i (calm_stopPeriods h i hp)))

theorem units_becameDead (h : Units I) (i : IslandNo) (hp : I p) : I (becameDead i p) := by
  have hs := units_handOn h _ (units_syncAgree h i (h.occurs p .deadIsland (.island i) hp))
  exact handing_deadIsland h.toHanding i (calm_endPeriods h.toCalm i hs)

theorem units_becameLive (h : Units I) (i : IslandNo) (hp : I p) : I (becameLive i p) :=
  calm_rebuild h.toCalm i (calm_retrigger h.toCalm i (calm_clearLow h.toCalm i (calm_beginPeriods h.toCalm i
    (units_handOn h _ (units_syncAgree h i hp)))))

theorem units_handMarking (h : Units I) (i : IslandNo) (was : Bool) (hp : I p) : I (handMarking i was p) := by
  unfold handMarking
  split
  · exact units_becameDead h i hp
  · exact units_becameLive h i hp
  · exact hp

/-- An operation on the part alone. -/
theorem keeps_on (o : Sequenced) (f : Part → Part) (ho : I (f o.part)) : I (o.on f).part := ho

/-! ### Merges -/

theorem units_abandonStopping (h : Units I) (o : Sequenced) (i : IslandNo) (ho : I o.part) :
    I (o.abandonStopping i).part := by
  simp only [Sequenced.abandonStopping]
  split
  · exact units_abandonRequest h _ ho
  · exact ho

theorem calm_shareMerge (h : Calm I) (lo hi : IslandNo) (hp : I p) : I (shareMerge lo hi p) := by
  have he := calm_stopPlans h hi (calm_stopPeriods h hi (calm_stopPlans h lo (calm_stopPeriods h lo hp)))
  simp only [shareMerge]
  split
  · exact calm_beginPeriods h lo he
  · exact he

theorem handing_reserveMerge (h : Handing I) (lo hi : IslandNo) (hp : I p) : I (reserveMerge lo hi p) :=
  fold_keeps _ _ (fun _ r hq => handing_deny h r.consumer hq)
    (calm_onIsland h.toCalm lo _ (fun _ _ _ => headed_fits _ _ (by simp))
      (calm_onIsland h.toCalm hi _ (fun _ _ _ => by simp [queueFits]) hp))

/-- An absorbed island's record ceases. -/
theorem topo_ceased (h : Topo I) (i : IslandNo) (hp : I p) : I { p with islands := p.islands.set i none } := by
  refine h.mapped p p.tieJoins p.islandMap (p.islands.set i none) (fun hq j r hr => hq j r ?_) hp
  simp only [Fin.getElem_fin, Vector.getElem_set] at hr
  split at hr
  · cases hr
  · exact hr

theorem topo_shedMerge (h : Topo I) (lo hi : IslandNo) (hp : I p) : I (shedMerge lo hi p) := by
  have hc := h.toCalm
  have ha := calm_abandonRestore hc hi (calm_abandonRestore hc lo hp)
  have hw := calm_retrigger hc lo (topo_ceased h hi (calm_onIsland_queue hc lo (fun r =>
    { r with
      shed := mergedShed p (island (abandonRestore hi (abandonRestore lo p)) lo).shed
        (island (abandonRestore hi (abandonRestore lo p)) hi).shed
      history := mergeHistories (island (abandonRestore hi (abandonRestore lo p)) lo).history
        (island (abandonRestore hi (abandonRestore lo p)) hi).history }) (fun _ => rfl) ha))
  simp only [shedMerge]
  split
  · exact calm_rebuild hc lo hw
  · exact handing_clearDead h.toHanding lo hw

theorem topo_mergeIslands (h : Topo I) (lo hi : IslandNo) (hp : I p) : I (mergeIslands lo hi p) := by
  have hu := h.toUnits
  have hs := units_syncAgree hu lo (hu.occurs p .islandChange (.island lo) hp)
  unfold mergeIslands
  extract_lets synced abandoned merged handed
  have ha : I abandoned.part := units_abandonStopping hu _ hi (units_abandonStopping hu _ lo
    (keeps_on synced _ (calm_shareMerge hu.toCalm lo hi hs)))
  have hm : I handed := units_handOn hu merged (keeps_on _ _ (topo_shedMerge h lo hi
    (keeps_on abandoned _ (handing_reserveMerge hu.toHanding lo hi ha))))
  clear_value handed
  split
  · exact handing_testIsland hu.toHanding lo hm
  · exact units_handOn hu _ (handing_blackoutStart hu.toHanding lo hm)

/-! ### Splits -/

theorem calm_shareSplit (h : Calm I) (i : IslandNo) (hp : I p) : I (shareSplit i p) := by
  have he := calm_stopPlans h i (calm_stopPeriods h i hp)
  simp only [shareSplit]
  split
  · exact calm_beginPeriods h i he
  · exact calm_clearSaturation h i (calm_clearTargets h i he)

theorem calm_shedSplit (h : Calm I) (i : IslandNo) (history : List HistoryRecord) (hp : I p) :
    I (shedSplit i history p) := calm_retrigger h i (calm_onIsland_queue h i _ (fun _ => rfl) hp)

theorem handing_yieldSplit (h : Handing I) (was : Bool) (i : IslandNo) (hp : I p) : I (yieldSplit was i p) := by
  simp only [yieldSplit]
  split
  · exact handing_testIsland h i hp
  · split
    · exact handing_deadIsland h i (h.occurs p .deadIsland (.island i) hp)
    · exact handing_deadIsland h i hp

/-- A new island's record comes into being. -/
theorem topo_created (h : Topo I) (i : IslandNo) (hp : I p) :
    I { p with islands := p.islands.set i (some Island.fresh) } := by
  refine h.mapped p p.tieJoins p.islandMap (p.islands.set i (some Island.fresh)) (fun hq j r hr => ?_) hp
  simp only [Fin.getElem_fin, Vector.getElem_set] at hr
  split at hr
  · cases hr
    simp [queueFits, Island.fresh, ReserveRecord.fresh]
  · exact hq j r hr

/-- The requests that stay with an island are no more than the original's. -/
theorem splitReserve_fits (q : Part) (i : IslandNo) (r : ReserveRecord) (hr : r.queue.length ≤ Config.heavyMax) :
    queueFits (splitReserve q i r).queue :=
  headed_fits _ _ (le_trans (List.length_filter_le _ _) hr)

/-- The reserve record that an island has keeps within its bounds. -/
theorem island_fits (hq : p.queuesFit) (i : IslandNo) : (island p i).reserve.queue.length ≤ Config.heavyMax := by
  simp only [island]
  cases hi : p.islands[i] with
  | none => simp [Island.fresh, ReserveRecord.fresh]
  | some r => exact (hq i r hi).1

/-- The two islands of a split take their parts of the original's reserve record. -/
theorem calm_splitReserves (h : Calm I) (keep other : IslandNo) (hp : I p) :
    I (onReserve other (fun _ => splitReserve p other (island p keep).reserve)
      (onReserve keep (fun _ => splitReserve p keep (island p keep).reserve) p)) := by
  refine h.islands p _ ?_ ?_ hp
  · intro j
    simp only [onReserve, onIsland_islands, Fin.getElem_fin, modifyAt_get]
    split <;> split <;> simp
  · intro hq j r hr
    simp only [onReserve, onIsland_islands, Fin.getElem_fin, modifyAt_get] at hr
    split at hr <;> split at hr
    all_goals first
      | exact hq j r hr
      | (simp only [Option.map_eq_some_iff] at hr
         obtain ⟨a, _, rfl⟩ := hr
         exact splitReserve_fits _ _ _ (island_fits hq keep))

theorem topo_splitIsland (h : Topo I) (keep other : IslandNo) (was : Bool) (hp : I p) :
    I (splitIsland keep other was p) := by
  have hu := h.toUnits
  have hc := h.toCalm
  unfold splitIsland
  extract_lets created told first second synced abandoned original reserved shed
  have hm : I created := topo_created h other hp
  have ht : I told := hc.occurs _ _ _ (hc.occurs _ _ _ hm)
  have h1 : I first.part := units_syncAgree hu keep ht
  have h2 : I second.part := units_syncAgree hu other h1
  have hs : I synced.part := by dsimp only [synced]; exact h2
  clear_value synced
  have ha : I abandoned.part := units_abandonStopping hu _ keep
    (keeps_on synced _ (calm_shareSplit hc other (calm_shareSplit hc keep hs)))
  have hr : I reserved.part := calm_splitReserves hc keep other ha
  clear_value reserved
  have hd : I shed.part := keeps_on reserved _ (calm_rebuild hc other (calm_rebuild hc keep (calm_shedSplit hc other _
    (calm_shedSplit hc keep _ (calm_abandonRestore hc keep hr)))))
  clear_value shed
  exact handing_yieldSplit hu.toHanding was other (handing_yieldSplit hu.toHanding was keep (units_handOn hu _ hd))

theorem topo_tieChanged (h : Topo I) (t : TieNo) (joins : Bool) (hp : I p) : I (tieChanged t joins p) := by
  have hr : ∀ m, I { p with tieJoins := p.tieJoins.set t joins, islandMap := m } := fun m =>
    h.mapped p _ m p.islands (fun hq => hq) hp
  simp only [tieChanged]
  split
  · exact hp
  · split
    · exact hr _
    · split
      · exact topo_mergeIslands h _ _ (hr _)
      · exact topo_splitIsland h _ _ _ (hr _)

end Sys2Proof.Machine
end

