-- ==== Sys2Proof/Laws/Plant.lean ====
section
/-! SUPPORT. What the records of the stations, the timers and the order frames keep (chapters 1 to 8). -/

namespace Sys2Proof.Machine

variable {I : Part → Prop} {p : Part}

/-! ### Freshness -/

theorem plant_reach (h : Plant I) (d : Nat) (hp : I p) : I (reach d p) := h.clocked p _ hp

/-- A change of a tie's record that leaves its position. -/
theorem plant_onTieImage (h : Plant I) (t : TieNo) (f : TieImage → TieImage)
    (hf : (f p.tieImage[t]).closed = p.tieImage[t].closed) (hp : I p) : I (onTieImage t f p) := by
  refine h.tieImages p _ ?_ hp
  intro j
  simp only [Fin.getElem_fin, modifyAt_get]
  split
  · rename_i e
    subst e
    exact hf
  · rfl

theorem plant_onFresh (h : Plant I) (o : ObjectRef) (f : Fresh → Fresh) (hp : I p) : I (onFresh o f p) := by
  cases o with
  | set k => exact h.setImages p _ hp
  | consumer c => exact h.consumerImages p _ hp
  | meter s => exact h.meterImages p _ hp
  | tie t => exact plant_onTieImage h t _ rfl hp

theorem plant_goStale (h : Plant I) (o : ObjectRef) (hp : I p) : I (goStale o p) := by
  have hr := h.occurs _ .objectStale (objectNamed o) (plant_onFresh h o (fun _ => Fresh.gone) hp)
  cases o <;> first
    | exact hr
    | exact calm_cutPlan h.toCalm _ hr

theorem plant_staleRemaining (h : Plant I) (hp : I p) : I (staleRemaining p) :=
  fold_keeps _ _ (fun q o hq => by
    split
    · exact plant_goStale h o hq
    · exact hq) hp

theorem plant_staleExpired (h : Plant I) (o : ObjectRef) (hp : I p) : I (staleExpired o p) := by
  simp only [staleExpired]
  split
  · exact hp
  · split
    · exact plant_goStale h o (plant_reach h _ hp)
    · exact plant_onFresh h o _ (plant_reach h _ hp)

theorem plant_remap (h : Plant I) (o : ObjectRef) (hp : I p) : I (remap o p) := by
  have hr := plant_onFresh h o (fun _ => Fresh.reset) hp
  cases o <;> first
    | exact hr
    | exact calm_cutPlan h.toCalm _ hr

/-! ### Station records -/

theorem handing_shedBreakerChange (h : Handing I) (k : SetNo) (lost : Bool) (hp : I p) :
    I (shedBreakerChange k lost p) := by
  simp only [shedBreakerChange]
  split
  · exact hp
  · refine calm_rebuild h.toCalm _ ?_
    split
    · exact handing_setLoss h k _ hp
    · exact hp

theorem units_setChanged (h : Units I) (k : SetNo) (old : SetImage) (was : Bool) (hp : I p) :
    I (setChanged k old was p) := by
  unfold setChanged
  extract_lets lost raised sequenced marked
  have hr : I raised := by
    dsimp only [raised]
    split
    · exact h.occurs _ _ _ hp
    · exact hp
  have hs : I sequenced := units_handOn h _ (units_recordEvent h k hr)
  clear_value sequenced
  have hm : I marked := by
    dsimp only [marked]
    split
    · exact units_handMarking h _ was hs
    · exact hs
  split
  · exact hm
  · exact handing_shedBreakerChange h.toHanding k lost hm

theorem plant_setStatus (h : Plant I) (k : SetNo) (running closed : Bool) (kw : Nat) (trip : Bool) (hp : I p) :
    I (setStatus k running closed kw trip p) := by
  have hw : I (onSetImage k (fun r =>
      { running := running, closed := closed, kw := kw, trip := trip,
        fresh := r.fresh.accept Config.staleFast p.clock }) p) := h.setImages p _ hp
  simp only [setStatus]
  split
  · exact hw
  · exact units_setChanged h.toUnits k _ _ hw

theorem calm_orderOutcome (h : Calm I) (c : ConsumerNo) (a : ConsumerOrder) (out : OrderOutcome) (hp : I p) :
    I (orderOutcome c a out p) := by
  unfold orderOutcome
  split
  · exact calm_shedOutcome h c out hp
  · split
    · exact calm_restoreOutcome h c out hp
    · exact hp

theorem plant_dropFeedback (h : Plant I) (c : ConsumerNo) (hp : I p) : I (dropFeedback c p) := h.feedbacks p _ hp

theorem plant_consumerChanged (h : Plant I) (c : ConsumerNo) (old : ConsumerImage) (hp : I p) :
    I (consumerChanged c old p) := by
  simp only [consumerChanged]
  split
  · exact calm_orderOutcome h.toCalm c _ _ (plant_dropFeedback h c hp)
  · split
    · exact hp
    · exact calm_externalChange h.toCalm c old hp

theorem plant_consumerStatus (h : Plant I) (c : ConsumerNo) (closed : Bool) (kw : Nat) (limit : Option Nat)
    (hp : I p) : I (consumerStatus c closed kw limit p) := by
  have hw : I (onConsumerImage c (fun r =>
      { closed := closed, kw := kw, limit := limit, fresh := r.fresh.accept Config.staleSlow p.clock }) p) :=
    h.consumerImages p _ hp
  have hs := plant_consumerChanged h c p.consumerImage[c] hw
  simp only [consumerStatus]
  split
  · exact hs
  · exact handing_drawReported h.toHanding c hs

theorem plant_meterStatus (h : Plant I) (s : SectionNo) (voltage : Bool) (freq : Option Nat) (hp : I p) :
    I (meterStatus s voltage freq p) := h.meterImages p _ hp

theorem topo_tieStatus (h : Topo I) (t : TieNo) (closed : Bool) (hp : I p) : I (tieStatus t closed p) := by
  have hw : I (onTieImage t (fun r => { closed := closed, fresh := r.fresh.accept Config.staleSlow p.clock }) p) :=
    h.ties p _ hp
  simp only [tieStatus]
  split
  · exact hw
  · exact topo_tieChanged h t closed hw

theorem topo_deliverRecord (h : Topo I) (r : StationRecord) (hp : I p) : I (deliverRecord r p) := by
  cases r with
  | set k running closed kw trip => exact plant_setStatus h.toPlant k running closed kw trip hp
  | consumer c closed kw limit => exact plant_consumerStatus h.toPlant c closed kw limit hp
  | meter s voltage freq => exact plant_meterStatus h.toPlant s voltage freq hp
  | tie t closed => exact topo_tieStatus h t closed hp
  | heavy c kw => exact handing_heavyRequest h.toHanding c kw hp

theorem topo_takeRecord (h : Topo I) (station : Nat) (bytes : List Byte) (hp : I p) :
    I (takeRecord station bytes p) := by
  simp only [takeRecord]
  split
  · exact h.occurs _ _ _ hp
  · split
    · exact h.occurs _ _ _ hp
    · split
      · exact h.occurs _ _ _ hp
      · exact topo_deliverRecord h _ hp

/-! ### Order frames and feedback -/

theorem plant_fieldBuffer (h : Plant I) (buf : List Byte) (hp : I p) : I (fieldBuffer buf p) := h.receives p _ hp

theorem plant_fieldGapPassed (h : Plant I) (hp : I p) : I (fieldGapPassed p) := by
  simp only [fieldGapPassed]
  split
  · exact hp
  · exact h.occurs _ _ _ (plant_fieldBuffer h _ (plant_reach h _ hp))

theorem plant_startFeedback (h : Plant I) (c : ConsumerNo) (o : Order) (ms : Nat) (hp : I p) :
    I (startFeedback c o ms p) := by
  have hs : I { p with feedback := p.feedback.set c (some { order := o, deadline := after p ms }) } :=
    h.feedbacks p _ hp
  simp only [startFeedback]
  split
  · exact calm_orderOutcome h.toCalm c _ _ hs
  · exact hs

theorem plant_consumerOrderSent (h : Plant I) (c : ConsumerNo) (a : ConsumerOrder) (o : Order) (hp : I p) :
    I (consumerOrderSent c a o p) := by
  simp only [consumerOrderSent]
  split
  · exact plant_startFeedback h c o _ hp
  · split
    · exact calm_grantSent h.toCalm c _ hp
    · exact hp

theorem calm_withdrawnOrderSent (h : Calm I) (o : Order) (hp : I p) : I (withdrawnOrderSent o p) := by
  simp only [withdrawnOrderSent]
  split
  · exact calm_orderOutcome h _ _ _ hp
  · exact hp

theorem plant_orderSent (h : Plant I) (hp : I p) : I (orderSent p) := by
  have hi : I { p with fieldTx := none } := h.transmits p _ hp
  simp only [orderSent]
  split
  · exact hp
  · split
    · exact calm_withdrawnOrderSent h.toCalm _ hi
    · split
      · exact plant_consumerOrderSent h _ _ _ hi
      · exact units_handOn h.toUnits _ (units_setOrderSent h.toUnits _ _ _ hi)

theorem plant_feedbackExpired (h : Plant I) (c : ConsumerNo) (hp : I p) : I (feedbackExpired c p) := by
  unfold feedbackExpired
  split
  · exact calm_orderOutcome h.toCalm c _ _ (plant_dropFeedback h c (plant_reach h _ hp))
  · exact hp

theorem plant_markWithdrawn (h : Plant I) (o : ObjectRef) (hp : I p) : I (markWithdrawn o p) := by
  simp only [markWithdrawn]
  split
  · split
    · exact h.transmits p _ hp
    · exact hp
  · exact hp

/-! ### Timers -/

theorem plant_setTimerExpired (h : Plant I) (t : SetTimer) (f : SetNo → Part → Sequenced) (k : SetNo)
    (hf : ∀ q, q.seq[k].state.isSome = true → I q → I (f k q).part) (hp : I p) : I (setTimerExpired t f k p) := by
  simp only [setTimerExpired]
  split
  · rename_i hr
    refine units_handOn h.toUnits _ (hf _ ?_ (plant_reach h _ hp))
    rw [reach_seq, setTimerRuns_some hr]
    rfl
  · exact hp

theorem plant_startTimer (h : Plant I) (k : SetNo) (hp : I p) : I (setTimerExpired .start startExpired k p) :=
  plant_setTimerExpired h _ _ k (fun _ hk hq => units_startExpired h.toUnits k hk hq) hp

theorem plant_syncTimer (h : Plant I) (k : SetNo) (hp : I p) : I (setTimerExpired .sync syncExpired k p) :=
  plant_setTimerExpired h _ _ k (fun _ hk hq => units_syncExpired h.toUnits k hk hq) hp

theorem plant_openTimer (h : Plant I) (k : SetNo) (hp : I p) : I (setTimerExpired .openBreaker openExpired k p) :=
  plant_setTimerExpired h _ _ k (fun q hk hq => units_openFailed h.toUnits (sequenced q) k hk hq) hp

theorem plant_stopTimer (h : Plant I) (k : SetNo) (hp : I p) : I (setTimerExpired .stop stopExpired k p) :=
  plant_setTimerExpired h _ _ k (fun _ hk hq => units_stopExpired h.toUnits k hk hq) hp

theorem units_reportCompletions (h : Units I) (done : List SetNo) (hp : I p) : I (reportCompletions done p) :=
  fold_keeps _ _ (fun _ k hq => units_handOn h _ (units_rampComplete h k hq)) hp

theorem units_beginSharePeriod (h : Units I) (i : IslandNo) (hp : I p) : I (beginSharePeriod i p) := by
  unfold beginSharePeriod
  extract_lets c planned
  have hc : I c.1 := calm_computePeriod h.toCalm i hp
  have hr := units_reportCompletions h c.2.done hc
  have hq : I planned := calm_makePlans h.toCalm i p.clock c.2.roles hr
  clear_value planned
  exact handing_shedPeriod h.toHanding i _ _ (handing_reservePeriod h.toHanding i _ hq)

theorem plant_sharePeriodDue (h : Plant I) (i : IslandNo) (hp : I p) : I (sharePeriodDue i p) := by
  simp only [sharePeriodDue]
  split
  · exact units_beginSharePeriod h.toUnits i (plant_reach h _ hp)
  · exact hp

/-- A change of one governor record by its own value. -/
theorem calm_onGov_at (h : Calm I) (k : SetNo) (f : GovRecord → GovRecord)
    (hf : p.gov[k].oneLine → (f p.gov[k]).oneLine) (hp : I p) : I (onGov k f p) := by
  refine h.gov p _ ?_ hp
  intro hl j
  simp only [Fin.getElem_fin, modifyAt_get]
  split
  · rename_i e
    subst e
    exact hf (hl k)
  · exact hl j

theorem plant_beginSubPulse (h : Plant I) (k : SetNo) (hp : I p) : I (beginSubPulse k p) := by
  simp only [beginSubPulse]
  split
  · split
    · refine calm_onGov h.toCalm k _ (fun g _ => ?_) (plant_reach h _ hp)
      simp only [GovRecord.oneLine]
      cases p.gov[k].plan.line <;> simp
    · exact hp
  · exact hp

theorem plant_endSubPulse (h : Plant I) (k : SetNo) (hp : I p) : I (endSubPulse k p) := by
  simp only [endSubPulse]
  split
  · exact calm_onGov h.toCalm k _ (fun _ _ => rfl) (plant_reach h _ hp)
  · exact hp

theorem plant_reserveTimerExpired (h : Plant I) (st : ReserveState) (f : IslandNo → Int → Part → Sequenced)
    (i : IslandNo) (hf : ∀ q spare, I q → I (f i spare q).part) (hp : I p) : I (reserveTimerExpired st f i p) := by
  simp only [reserveTimerExpired]
  split
  · exact units_handOn h.toUnits _ (hf _ _ (calm_takeFigures h.toCalm i (plant_reach h _ hp)))
  · exact hp

theorem units_stopDelayExpired (h : Units I) (i : IslandNo) (spare : Int) (hp : I p) :
    I (stopDelayExpired i spare p).part := by
  have hq := calm_reserveState h.toCalm i .quiet hp
  simp only [stopDelayExpired]
  split
  · split
    · have hs := units_stopRequest h (‹SetNo›) hq
      split
      · exact keeps_on _ _ (calm_onReserve h.toCalm i _ (fun _ => rfl) hs)
      · exact hs
    · exact hq
  · exact hq

theorem plant_startConfirm (h : Plant I) (i : IslandNo) (hp : I p) :
    I (reserveTimerExpired .startConfirm startConfirmExpired i p) :=
  plant_reserveTimerExpired h _ _ i (fun _ _ hq => handing_startConfirmExpired h.toHanding i _ hq) hp

theorem plant_stopDelay (h : Plant I) (i : IslandNo) (hp : I p) :
    I (reserveTimerExpired .stopConfirm stopDelayExpired i p) :=
  plant_reserveTimerExpired h _ _ i (fun _ _ hq => units_stopDelayExpired h.toUnits i _ hq) hp

theorem plant_headDeadlinePassed (h : Plant I) (i : IslandNo) (hp : I p) : I (headDeadlinePassed i p) := by
  simp only [headDeadlinePassed]
  split
  · exact handing_headExpired h.toHanding i (plant_reach h _ hp)
  · exact hp

theorem plant_holdDeadlinePassed (h : Plant I) (c : ConsumerNo) (hp : I p) : I (holdDeadlinePassed c p) := by
  simp only [holdDeadlinePassed]
  split
  · exact handing_releaseGrant h.toHanding c (plant_reach h _ hp)
  · exact hp

theorem plant_checkPassed (h : Plant I) (i : IslandNo) (hp : I p) : I (checkPassed i p) := by
  simp only [checkPassed]
  split
  · exact handing_checkExpired h.toHanding i (plant_reach h _ hp)
  · exact hp

theorem plant_pacerPassed (h : Plant I) (st : ShedState) (i : IslandNo) (hp : I p) : I (pacerPassed st i p) := by
  simp only [pacerPassed]
  split
  · exact handing_pacerExpired h.toHanding i (plant_reach h _ hp)
  · exact hp

theorem plant_restorePassed (h : Plant I) (i : IslandNo) (hp : I p) : I (restorePassed i p) := by
  simp only [restorePassed]
  split
  · exact handing_tryRestore h.toHanding i _
      (calm_takeFigures h.toCalm i (calm_onRestore h.toCalm i _ (plant_reach h _ hp)))
  · exact hp

end Sys2Proof.Machine
end

