-- ==== Sys2Proof/Laws/Written.lean ====
section
/-! SUPPORT. A masked write brings every field into its range (R41, R124, R170, R173), and the edits of the shed list and
the standby order keep them within their sizes (R101, R123). -/

namespace Sys2Proof.Machine

/-- A clamped value lies in its range. -/
theorem clampTo_range (lo hi : Nat) (v : Int) (h : lo ≤ hi) : lo ≤ clampTo lo hi v ∧ clampTo lo hi v ≤ hi := by
  unfold clampTo
  omega

/-- A value in its range is not changed by clamping. -/
theorem clampTo_same (lo hi : Nat) (v : Int) (h : (lo : Int) ≤ v ∧ v ≤ hi) : (clampTo lo hi v : Int) = v := by
  unfold clampTo
  omega

/-- A numeric field after a write lies in its range if it did before. -/
theorem number_range (m : Masked) (n lo hi old : Nat) (h : lo ≤ hi) (ho : lo ≤ old ∧ old ≤ hi) :
    lo ≤ m.number n lo hi old ∧ m.number n lo hi old ≤ hi := by
  unfold Masked.number
  split
  · exact clampTo_range lo hi _ h
  · exact ho

/-- A numeric field whose range begins at 0. -/
theorem number_le (m : Masked) (n hi old : Nat) (ho : old ≤ hi) : m.number n 0 hi old ≤ hi :=
  (number_range m n 0 hi old (Nat.zero_le _) ⟨Nat.zero_le _, ho⟩).2

/-- WRITE SET brings a set's configuration into its ranges (R41). -/
theorem writtenSet_fits (m : Masked) (c : SetConfig) (h : c.fits) : (writtenSet m c).value.fits := by
  obtain ⟨hr, -, hw, ha, hd, hg, ht, hs⟩ := h
  refine ⟨number_range m 1 _ _ _ (by decide) hr, ⟨?_, ?_⟩, number_range m 3 _ _ _ (by decide) hw,
    number_range m 5 _ _ _ (by decide) ha, number_le m 6 _ _ hd, number_range m 7 _ _ _ (by decide) hg,
    number_range m 8 _ _ _ (by decide) ht, number_le m 10 _ _ hs⟩
  · simp only [writtenSet]
    omega
  · simp only [writtenSet]
    omega

/-- The mode is no part of a set's ranges. -/
theorem mode_fits (c : SetConfig) (m : Mode) (h : c.fits) : { c with mode := m }.fits := h

/-- WRITE CONSUMER brings an entry's configuration into its ranges (R124). -/
theorem writtenEntry_fits (m : Masked) (e : EntryConfig) (h : e.fits) : (writtenEntry m e).value.fits :=
  ⟨number_le m 5 _ _ h.1, number_le m 6 _ _ h.2.1, number_le m 8 _ _ h.2.2⟩

/-- A write keeps an entry's consumer. -/
theorem writtenEntry_consumer (m : Masked) (e : EntryConfig) : (writtenEntry m e).value.consumer = e.consumer := rfl

theorem blank_fits (c : ConsumerNo) : (EntryConfig.blank c).fits := by
  simp [EntryConfig.fits, EntryConfig.blank]

/-- WRITE PLANT brings the plant settings into their ranges (R173). -/
theorem writtenPlant_fits (m : Masked) (c : PlantConfig) (h : c.fits) : (writtenPlant m c).value.fits := by
  obtain ⟨h0, h1, h2, h3, h4, h5, h6, h7, h8, h9, h10, h11, hn, h14, h15, h16, h17, h18, ht, hm⟩ := h
  refine ⟨number_le m 0 _ _ h0, number_range m 1 _ _ _ (by decide) h1, number_range m 2 _ _ _ (by decide) h2,
    number_range m 3 _ _ _ (by decide) h3, number_range m 4 _ _ _ (by decide) h4,
    number_range m 5 _ _ _ (by decide) h5, number_range m 6 _ _ _ (by decide) h6,
    number_range m 7 _ _ _ (by decide) h7, number_le m 8 _ _ h8, number_range m 9 _ _ _ (by decide) h9,
    number_range m 10 _ _ _ (by decide) h10, number_le m 11 _ _ h11, ?_, number_le m 14 _ _ h14,
    number_le m 15 _ _ h15, number_le m 16 _ _ h16, number_range m 17 _ _ _ (by decide) h17,
    number_range m 18 _ _ _ (by decide) h18, ?_, ?_⟩
  · simp only [writtenPlant, nominalOf]
    split
    · split
      · exact .inl rfl
      · exact .inr rfl
    · exact hn
  · intro t
    simp only [writtenPlant, Fin.getElem_fin, Vector.getElem_ofFn]
    exact number_le m _ _ _ (ht t)
  · intro s
    simp only [writtenPlant, Fin.getElem_fin, Vector.getElem_ofFn]
    exact number_le m _ _ _ (hm s)

/-- A configuration with one set's fields written. -/
theorem onSetCfg_fits (p : Part) (k : SetNo) (f : SetConfig → SetConfig) (hf : (setCfg p k).fits → (f (setCfg p k)).fits)
    (h : p.cfg.fits) : (onSetCfg k f p).cfg.fits := by
  obtain ⟨hs, hr⟩ := h
  refine ⟨?_, hr⟩
  intro j
  simp only [onSetCfg_cfg, Fin.getElem_fin, modifyAt_get]
  split
  · rename_i e
    subst e
    exact hf (hs k)
  · exact hs j

/-- A configuration with one listed entry's fields written. -/
theorem onEntryCfg_fits (p : Part) (c : ConsumerNo) (f : EntryConfig → EntryConfig) (hc : ∀ e, e.consumer = c →
    (f e).consumer = c) (hf : ∀ e, e.consumer = c → e.fits → (f e).fits) (h : p.cfg.fits) :
    (onEntryCfg c f p).cfg.fits := by
  obtain ⟨hs, he, hp, hl, hu, hr⟩ := h
  refine ⟨hs, ?_, hp, by simpa using hl, ?_, hr⟩
  · intro e hm
    simp only [onEntryCfg_cfg, List.mem_map] at hm
    obtain ⟨d, hd, rfl⟩ := hm
    split
    · exact hf d ‹_› (he d hd)
    · exact he d hd
  · have hk : ∀ e, (if e.consumer = c then f e else e).consumer = e.consumer := by
      intro e
      split
      · rw [hc e ‹_›, ‹e.consumer = c›]
      · rfl
    simp only [onEntryCfg_cfg, List.pairwise_map]
    exact hu.imp fun hne => by rw [hk, hk]; exact hne

/-- A consumer that has no entry on the list. -/
theorem entryCfg_none {p : Part} {c : ConsumerNo} (h : entryCfg p c = none) (e : EntryConfig) (he : e ∈ p.cfg.shedList) :
    e.consumer ≠ c := by
  simp only [entryCfg, List.find?_eq_none, beq_iff_eq] at h
  exact h e he

/-- An entry found is the consumer's own. -/
theorem entryCfg_some {p : Part} {c : ConsumerNo} {e : EntryConfig} (h : entryCfg p c = some e) :
    e.consumer = c ∧ e ∈ p.cfg.shedList := by
  simp only [entryCfg] at h
  exact ⟨by simpa using List.find?_some h, List.mem_of_find?_eq_some h⟩

/-- The entries of a list with one put in are those it had and the new one. -/
theorem insertEntry_perm (l : List EntryConfig) (n : Nat) (e : EntryConfig) : (insertEntry l n e).Perm (e :: l) := by
  unfold insertEntry
  refine List.perm_middle.trans ?_
  rw [List.take_append_drop]

/-- Entries of different consumers. -/
abbrev Apart (a b : EntryConfig) : Prop := a.consumer ≠ b.consumer

/-- A list that holds the entries of a fitting one, in another order, fits. -/
theorem list_fits (c : Configuration) (l : List EntryConfig) (h : c.fits) (hm : ∀ e ∈ l, e.fits)
    (hl : l.length ≤ Config.shedListMax) (hu : l.Pairwise Apart) : { c with shedList := l }.fits :=
  ⟨h.1, hm, h.2.2.1, hl, hu, h.2.2.2.2.2⟩

/-- A list with the entry of a new consumer put in fits. -/
theorem insertEntry_fits (c : Configuration) (l : List EntryConfig) (n : Nat) (e : EntryConfig) (h : c.fits)
    (hm : ∀ d ∈ l, d.fits) (hu : l.Pairwise Apart) (hl : l.length < Config.shedListMax) (he : e.fits)
    (hn : ∀ d ∈ l, d.consumer ≠ e.consumer) : { c with shedList := insertEntry l n e }.fits := by
  have hp := insertEntry_perm l n e
  refine list_fits c _ h ?_ ?_ ?_
  · intro d hd
    rcases List.mem_cons.mp (hp.mem_iff.mp hd) with rfl | hd
    · exact he
    · exact hm d hd
  · rw [hp.length_eq, List.length_cons]
    omega
  · refine (hp.pairwise_iff (fun hab => fun e => hab e.symm)).mpr (List.pairwise_cons.mpr ⟨?_, hu⟩)
    exact fun d hd e => hn d hd e.symm

/-- A list with a consumer's entry taken out fits. -/
theorem filter_fits (c : Configuration) (l : List EntryConfig) (q : EntryConfig → Bool) (h : c.fits)
    (hl : l.length ≤ Config.shedListMax) (hm : ∀ d ∈ l, d.fits) (hu : l.Pairwise Apart) :
    { c with shedList := l.filter q }.fits :=
  list_fits c _ h (fun d hd => hm d (List.mem_of_mem_filter hd)) (le_trans (List.length_filter_le _ _) hl)
    (hu.filter _)

/-- Taking a listed consumer's entry out makes the list shorter. -/
theorem filter_shorter (l : List EntryConfig) (c : ConsumerNo) (e : EntryConfig) (he : e ∈ l) (hc : e.consumer = c) :
    (l.filter fun d => d.consumer != c).length < l.length :=
  List.length_filter_lt_length_iff_exists.mpr ⟨e, he, by simp [hc]⟩

/-- A list without repeats. -/
theorem hasRepeat_nodup : ∀ l : List SetNo, hasRepeat l = false → l.Nodup
  | [], _ => List.nodup_nil
  | k :: ks, h => by
    simp only [hasRepeat, Bool.or_eq_false_iff, List.contains_eq_mem, decide_eq_false_iff_not] at h
    exact List.nodup_cons.mpr ⟨h.1, hasRepeat_nodup ks h.2⟩

/-- The default configuration fits (R190). -/
theorem default_fits : Configuration.default.fits := by
  refine ⟨fun k => ?_, by simp [Configuration.default], ?_, by simp [Configuration.default], by
    simp [Configuration.default], by simp [Configuration.default], by simp [Configuration.default]⟩
  · simp [Configuration.default, SetConfig.default, SetConfig.fits]
  · simp [Configuration.default, PlantConfig.default, PlantConfig.fits]

end Sys2Proof.Machine
end

