-- ==== Sys2Proof/Laws/Edits.lean ====
section
/-! SUPPORT. What the requests of the supervisor and the end of ACQUIRE keep. -/

namespace Sys2Proof.Machine

/-- Kept besides by every update of the sets' sequencer records, and by the phase becoming RUN. -/
structure Opening (I : Part → Prop) : Prop extends Topo I where
  seqFree : ∀ p v, I p → I { p with seq := v }
  phased : ∀ p, I p → I { p with phase := .run, acquireAt := none }

/-- Kept besides by updates of the working configuration that keep it in its ranges. -/
structure Edits (I : Part → Prop) : Prop extends Opening I where
  config : ∀ p c, (p.cfg.fits → c.fits) → I p → I { p with cfg := c }

variable {I : Part → Prop} {p : Part}

/-! ### The end of ACQUIRE -/

theorem opening_settle (h : Opening I) (o : Sequenced) (k : SetNo) (st : SetState) (ho : I o.part) :
    I (o.settle k st).part := by
  simp only [Sequenced.settle]
  split
  · exact ho
  · exact h.seqFree _ _ ho

theorem opening_deriveSet (h : Opening I) (k : SetNo) (hp : I p) : I (deriveSet k p).part := by
  have hc : I (setDeadBusSent k none (setOrigin k none (stopSetTimer k p))) :=
    h.seqFree _ _ (h.seqFree _ _ (h.seqFree _ _ hp))
  exact opening_settle h (sequenced _) k _ hc

theorem opening_deriveStates (h : Opening I) (hp : I p) : I (deriveStates p) :=
  fold_keeps _ _ (fun _ c hq => calm_deriveEntry h.toCalm c hq)
    (fold_keeps _ _ (fun _ k hq => opening_deriveSet h k hq) hp)

theorem opening_buildIslands (h : Opening I) (hp : I p) : I (buildIslands p) := by
  refine h.mapped p _ _ _ (fun _ i r hr => ?_) hp
  simp only [Fin.getElem_fin, Vector.getElem_ofFn] at hr
  split at hr
  · cases hr
    simp [queueFits, Island.fresh, ReserveRecord.fresh]
  · cases hr

theorem handing_openIsland (h : Handing I) (i : IslandNo) (hp : I p) : I (openIsland i p) := by
  simp only [openIsland]
  split
  · exact calm_beginPeriods h.toCalm i hp
  · exact handing_deadIsland h i (h.occurs p .deadIsland (.island i) hp)

theorem opening_endAcquire (h : Opening I) (hp : I p) : I (endAcquire p) := by
  have hd := opening_deriveStates h (opening_buildIslands h (plant_staleRemaining h.toPlant hp))
  unfold endAcquire
  extract_lets derived tabled opened
  have ht : I tabled := fold_keeps _ _ (fun _ i hq => calm_rebuild h.toCalm i hq) hd
  clear_value tabled
  have ho : I opened := fold_keeps _ _ (fun _ i hq => handing_openIsland h.toHanding i hq) ht
  exact h.phased _ ho

/-! ### Sets -/

theorem edits_configureSet (h : Edits I) (k : SetNo) (hp : I p) : I (configureSet k p).part := by
  have hf : I (onSetImage k (fun _ => SetImage.reset) p) := h.setImages p _ hp
  simp only [configureSet]
  split
  · exact h.seqFree _ _ hf
  · exact hf

theorem edits_unconfigureSet (h : Edits I) (k : SetNo) (hp : I p) : I (unconfigureSet k p).part :=
  calm_onSelection h.toCalm k _ (calm_onGov h.toCalm k _ (fun _ _ => rfl) (h.seqFree _ _ (h.setImages _ _
    (plant_markWithdrawn h.toPlant _ (h.setDropped p k hp)))))

theorem edits_setStationWritten (h : Edits I) (k : SetNo) (old : Nat) (hp : I p) :
    I (setStationWritten k old p).part := by
  simp only [setStationWritten]
  split
  · exact hp
  · split
    · exact edits_configureSet h k hp
    · split
      · exact edits_unconfigureSet h k hp
      · exact (plant_remap h.toPlant (.set k) hp : I (remap (.set k) p))

theorem calm_rebuildSection (h : Calm I) (s : SectionNo) (hp : I p) : I (rebuildSection s p) := by
  simp only [rebuildSection]
  split
  · exact calm_rebuild h _ hp
  · exact hp

theorem edits_onSetCfg (h : Edits I) (k : SetNo) (f : SetConfig → SetConfig)
    (hf : (setCfg p k).fits → (f (setCfg p k)).fits) (hp : I p) : I (onSetCfg k f p) :=
  h.config p _ (onSetCfg_fits p k f hf) hp

theorem edits_changeMode (h : Edits I) (k : SetNo) (m : Mode) (hp : I p) : I (changeMode k m p).part := by
  have hw := edits_onSetCfg h k (fun c => { c with mode := m }) (fun hc => mode_fits _ m hc) hp
  have hl : I (toLocal k (onSetCfg k (fun c => { c with mode := m }) p)).part := by
    have := units_withdrawSet h.toUnits k (units_stopSetTimer h.toUnits k hw)
    exact h.seqFree _ _ (h.seqFree _ _ (h.seqFree _ _ this))
  simp only [changeMode]
  split
  · exact hp
  · split
    · exact hw
    · split
      · exact hl
      · exact opening_deriveSet h.toOpening k hw
      · exact hw

/-- What a request is served with keeps the condition. -/
theorem keeps_answered (code : ResultCode) (hp : I p) : I (answered code p).part := hp

theorem keeps_doneOr (b : Bool) (hp : I p) : I (doneOr b p).part := hp

theorem edits_writeSet (h : Edits I) (n : Byte) (m : Masked) (hp : I p) : I (writeSet n m p).part := by
  unfold writeSet
  split
  · exact hp
  · rename_i k _
    extract_lets old w written stationed moved
    split
    · exact hp
    · have hw : I written := edits_onSetCfg h k _ (fun hc => writtenSet_fits m _ hc) hp
      have hs : I stationed := units_handOn h.toUnits _ (edits_setStationWritten h k _ hw)
      clear_value stationed
      have hm : I moved := by
        dsimp only [moved]
        split
        · exact hs
        · exact calm_rebuildSection h.toCalm _ (calm_rebuildSection h.toCalm _ hs)
      clear_value moved
      exact keeps_doneOr _ (units_handOn h.toUnits _ (edits_changeMode h k _ hm))

/-! ### The shed list -/

theorem edits_configureConsumer (h : Edits I) (c : ConsumerNo) (hp : I p) : I (configureConsumer c p) := by
  have hf : I (onConsumerImage c (fun _ => ConsumerImage.reset) p) := h.consumerImages p _ hp
  simp only [configureConsumer]
  split
  · exact calm_deriveEntry h.toCalm c hf
  · exact hf

theorem edits_withdrawOrders (h : Edits I) (c : ConsumerNo) (hp : I p) : I (withdrawOrders c p) := by
  unfold withdrawOrders
  extract_lets queued awaited
  have hq : I queued := by
    dsimp only [queued]
    split
    · rename_i a _ _
      exact calm_orderOutcome h.toCalm c a .withdrawn (h.dropped p c hp)
    · exact hp
  clear_value queued
  have ha : I awaited := by
    dsimp only [awaited]
    split
    · rename_i a _ _ _
      exact calm_orderOutcome h.toCalm c a .withdrawn (plant_dropFeedback h.toPlant c hq)
    · exact hq
  exact plant_markWithdrawn h.toPlant _ ha

theorem edits_unconfigureConsumer (h : Edits I) (c : ConsumerNo) (hp : I p) : I (unconfigureConsumer c p) := by
  unfold unconfigureConsumer
  extract_lets left
  have hl : I left := h.consumerImages (onEntry c (fun _ => EntryRecord.reset) (removeRecord c p)) _
    (calm_onEntry h.toCalm c _ (calm_removeRecord h.toCalm c hp))
  clear_value left
  exact edits_withdrawOrders h c (handing_forgetHeavy h.toHanding c hl)

theorem calm_collided (h : Calm I) (c : ConsumerNo) (hp : I p) : I (collided c p).part := h.occurs _ _ _ hp

theorem edits_addEntry (h : Edits I) (c : ConsumerNo) (position : Byte) (fields : List Word) (hp : I p) :
    I (addEntry c position fields p).part := by
  unfold addEntry
  extract_lets w place listed configured
  split
  · exact hp
  · rename_i hd
    split
    · exact hp
    · rename_i hl
      split
      · exact calm_collided h.toCalm c hp
      · have hi : I listed := by
          refine h.config p _ (fun hc => ?_) hp
          refine insertEntry_fits _ _ _ _ hc hc.2.1 hc.2.2.2.2.1 (Nat.lt_of_not_le hl)
            (writtenEntry_fits _ _ (blank_fits c)) ?_
          rw [writtenEntry_consumer]
          exact entryCfg_none (c := c) (by simpa using hd)
        clear_value listed
        have hg : I configured := by
          dsimp only [configured]
          split
          · exact edits_configureConsumer h c hi
          · exact hi
        exact keeps_doneOr _ (calm_rebuildSection h.toCalm _ hg)

theorem edits_moveEntry (h : Edits I) (c : ConsumerNo) (position : Byte) (hp : I p) :
    I (moveEntry c position p).part := by
  unfold moveEntry
  split
  · exact hp
  · rename_i e he
    obtain ⟨hc, hm⟩ := entryCfg_some he
    split
    · exact calm_collided h.toCalm c hp
    · refine keeps_doneOr _ (calm_rebuildSection h.toCalm _ (h.config p _ (fun hf => ?_) hp))
      have hsub : ∀ d ∈ p.cfg.shedList.filter (fun d => d.consumer != c), d ∈ p.cfg.shedList ∧ d.consumer ≠ c := by
        intro d hd
        simpa using hd
      refine insertEntry_fits _ _ _ _ hf (fun d hd => hf.2.1 d (hsub d hd).1) (hf.2.2.2.2.1.filter _) ?_
        (hf.2.1 e hm) (fun d hd => by rw [hc]; exact (hsub d hd).2)
      exact lt_of_lt_of_le (filter_shorter _ c e hm hc) hf.2.2.2.1

theorem edits_placeConsumer (h : Edits I) (n position : Byte) (move : Bool) (fields : List Word) (hp : I p) :
    I (placeConsumer n position move fields p).part := by
  simp only [placeConsumer]
  split
  · exact hp
  · split
    · exact edits_moveEntry h _ position hp
    · exact edits_addEntry h _ position fields hp

theorem edits_removeConsumer (h : Edits I) (n : Byte) (hp : I p) : I (removeConsumer n p).part := by
  unfold removeConsumer
  split
  · exact hp
  · split
    · exact hp
    · split
      · exact calm_collided h.toCalm _ hp
      · rename_i c _ _ e _ _
        extract_lets gone
        have hg : I gone := edits_unconfigureConsumer h c hp
        clear_value gone
        refine keeps_answered _ (calm_rebuildSection h.toCalm _ (h.config gone _ ?_ hg))
        exact fun hf => filter_fits _ _ _ hf hf.2.2.2.1 hf.2.1 hf.2.2.2.2.1

theorem edits_entryStationWritten (h : Edits I) (c : ConsumerNo) (old new : Nat) (hp : I p) :
    I (entryStationWritten c old new p) := by
  simp only [entryStationWritten]
  split
  · exact hp
  · split
    · exact edits_configureConsumer h c hp
    · split
      · exact edits_unconfigureConsumer h c hp
      · exact plant_remap h.toPlant _ hp

theorem calm_moveRecord (h : Calm I) (c : ConsumerNo) (src dst : IslandNo) (hp : I p) : I (moveRecord c src dst p) := by
  simp only [moveRecord]
  split
  · exact calm_onIsland_queue h dst _ (fun _ => rfl) (calm_onIsland_queue h src _ (fun _ => rfl) hp)
  · exact hp

theorem handing_entrySectionWritten (h : Handing I) (c : ConsumerNo) (old new : SectionNo) (hp : I p) :
    I (entrySectionWritten c old new p) := by
  simp only [entrySectionWritten]
  split
  · split
    · exact hp
    · exact calm_rebuild h.toCalm _ (handing_moveHeavy h c _ _ (calm_moveRecord h.toCalm c _ _ hp))
  · exact hp

theorem edits_entryWritten (h : Edits I) (old new : EntryConfig) (clearTrip : Bool) (hp : I p) :
    I (entryWritten old new clearTrip p) := by
  unfold entryWritten
  extract_lets c stationed moved kinded cleared
  have hs : I stationed := edits_entryStationWritten h c _ _ hp
  clear_value stationed
  have hm : I moved := handing_entrySectionWritten h.toHanding c _ _ hs
  clear_value moved
  have hk : I kinded := by
    dsimp only [kinded]
    split
    · exact hm
    · exact h.consumerImages _ _ hm
  clear_value kinded
  have hc : I cleared := by
    dsimp only [cleared]
    split
    · exact calm_onEntry h.toCalm c _ hk
    · exact hk
  exact calm_rebuildSection h.toCalm _ hc

theorem edits_writeConsumer (h : Edits I) (n : Byte) (m : Masked) (hp : I p) : I (writeConsumer n m p).part := by
  unfold writeConsumer
  split
  · exact hp
  · rename_i old ho
    extract_lets w
    split
    · exact calm_collided h.toCalm _ hp
    · split
      · exact hp
      · refine keeps_doneOr _ (edits_entryWritten h _ _ _ (h.config p _ ?_ hp))
        obtain ⟨c, -, hc⟩ := Option.bind_eq_some_iff.mp ho
        refine fun hf => onEntryCfg_fits p old.consumer _ (fun _ _ => writtenEntry_consumer m old) ?_ hf
        exact fun _ _ _ => writtenEntry_fits m old (hf.2.1 old (entryCfg_some hc).2)

/-! ### Plant settings and the standby order -/

theorem edits_onTieImage (h : Edits I) (t : TieNo) (f : TieImage → TieImage) (hp : I p) : I (onTieImage t f p) :=
  h.ties p _ hp

theorem edits_tieWritten (h : Edits I) (old : PlantConfig) (t : TieNo) (hp : I p) : I (tieWritten old p t) := by
  have hr := edits_onTieImage h t (fun _ => TieImage.reset) hp
  simp only [tieWritten]
  split
  · exact hr
  · split
    · exact topo_tieChanged h.toTopo t false hr
    · exact hr
  · split
    · exact hp
    · exact plant_remap h.toPlant _ hp
  · exact hp

theorem edits_meterWritten (h : Edits I) (old : PlantConfig) (s : SectionNo) (hp : I p) : I (meterWritten old p s) := by
  simp only [meterWritten]
  split
  · split
    · exact hp
    · exact plant_remap h.toPlant _ hp
  · exact hp
  · exact h.meterImages p _ hp

theorem calm_releaseHeld (h : Calm I) (hp : I p) : I (releaseHeld p) :=
  fold_keeps _ _ (fun _ i hq => calm_onRestore h i _ hq) hp

theorem edits_writePlant (h : Edits I) (m : Masked) (hp : I p) : I (writePlant m p).part := by
  unfold writePlant
  extract_lets old w src written tied metered tabled held
  have hw : I written := by
    refine h.config p _ (fun hf => ?_) hp
    exact ⟨hf.1, hf.2.1, writtenPlant_fits m _ hf.2.2.1, hf.2.2.2⟩
  have ht : I tied := fold_keeps _ _ (fun _ t hq => edits_tieWritten h old t hq) hw
  clear_value tied
  have hm : I metered := fold_keeps _ _ (fun _ s hq => edits_meterWritten h old s hq) ht
  clear_value metered
  have hb : I tabled := by
    dsimp only [tabled]
    split
    · exact hm
    · exact fold_keeps _ _ (fun _ i hq => calm_rebuild h.toCalm i hq) hm
  clear_value tabled
  have hh : I held := by
    dsimp only [held]
    split
    · exact calm_releaseHeld h.toCalm hb
    · exact hb
  exact keeps_doneOr _ (handing_testAll h.toHanding hh)

theorem edits_writeStandbyOrder (h : Edits I) (sets : List Byte) (hp : I p) : I (writeStandbyOrder sets p).part := by
  unfold writeStandbyOrder
  split
  · exact hp
  · rename_i order ho
    split
    · exact hp
    · rename_i hr
      split
      · exact hp
      · rename_i hl
        refine handing_testAll h.toHanding (h.config p _ (fun hf => ?_) hp)
        exact ⟨hf.1, hf.2.1, hf.2.2.1, hf.2.2.2.1, hf.2.2.2.2.1, Nat.le_of_not_lt hl,
          hasRepeat_nodup order (by simpa using hr)⟩

/-! ### Commands and serving -/

theorem edits_serveSetMode (h : Edits I) (n : Byte) (m : Mode) (hp : I p) : I (serveSetMode n m p).part := by
  simp only [serveSetMode]
  split
  · exact units_handOn h.toUnits _ (edits_changeMode h _ m hp)
  · exact hp

theorem units_serveCommandSet (h : Units I) (n : Byte) (a : SetAction) (hp : I p) : I (serveCommandSet n a p).part := by
  simp only [serveCommandSet]
  split
  · exact hp
  · split
    · exact hp
    · exact units_handOn h _ (units_setAction h a _ hp)

theorem handing_serveShed (h : Handing I) (n : Byte) (hp : I p) : I (serveShed n p).part := by
  simp only [serveShed]
  split
  · exact hp
  · split
    · exact hp
    · split
      · exact hp
      · exact handing_manualShed h _ hp

theorem calm_serveRelease (h : Calm I) (n : Byte) (hp : I p) : I (serveRelease n p).part := by
  simp only [serveRelease]
  split
  · exact hp
  · exact calm_manualRelease h _ hp

theorem calm_serveRestoreStep (h : Calm I) (code : Byte) (hp : I p) : I (serveRestoreStep code p).part := by
  simp only [serveRestoreStep]
  split
  · exact hp
  · exact calm_commandRestoreStep h _ hp

theorem keeps_serveReadSet (n : Byte) (hp : I p) : I (serveReadSet n p).part := by
  unfold serveReadSet
  split <;> exact hp

theorem keeps_serveReadConsumer (n : Byte) (hp : I p) : I (serveReadConsumer n p).part := by
  unfold serveReadConsumer
  split <;> exact hp

theorem calm_serveReadIsland (h : Calm I) (code first : Byte) (hp : I p) : I (serveReadIsland code first p).part := by
  unfold serveReadIsland
  split
  · exact calm_takeFigures h _ hp
  · exact hp

theorem keeps_serveReadContingency (code n first : Byte) (hp : I p) : I (serveReadContingency code n first p).part := by
  unfold serveReadContingency
  split
  · exact hp
  · split
    · exact hp
    · split
      · unfold readSelection
        split <;> exact hp
      · exact hp

theorem keeps_serveReadHistory (code first : Byte) (hp : I p) : I (serveReadHistory code first p).part := by
  unfold serveReadHistory
  split <;> exact hp

/-- A condition that every edit keeps, and that a mask, an allowance, a SAVE begun and a RESTART served keep, is kept by
serving any request. -/
theorem edits_serveOwn (h : Edits I) (hraw : ∀ q (v : BitVec 26), I q → I { q with rawFlags := v })
    (hall : ∀ q n, n ≤ Config.countMax → I q → I { q with allowance := n })
    (hsave : ∀ q serial, I q → I (beginSave serial q)) (hres : ∀ q (n : Nat), I q → I { q with restarting := some n })
    (r : Request) (serial : Nat) (hp : I p) : I (serveOwn r serial p).part := by
  cases r with
  | identify => exact hp
  | readSet n => exact keeps_serveReadSet n hp
  | readConsumer n => exact keeps_serveReadConsumer n hp
  | readIsland s first => exact calm_serveReadIsland h.toCalm s first hp
  | readContingency s n first => exact keeps_serveReadContingency s n first hp
  | readHistory s first => exact keeps_serveReadHistory s first hp
  | readFlags => exact hp
  | readPlant => exact hp
  | writeSet n mask fields => exact edits_writeSet h n _ hp
  | writeConsumer n mask fields => exact edits_writeConsumer h n _ hp
  | writePlant mask fields => exact edits_writePlant h _ hp
  | placeConsumer n position move fields => exact edits_placeConsumer h n position move fields hp
  | removeConsumer n => exact edits_removeConsumer h n hp
  | writeStandbyOrder sets => exact edits_writeStandbyOrder h sets hp
  | setMode n m => exact edits_serveSetMode h n m hp
  | commandSet n a => exact units_serveCommandSet h.toUnits n a hp
  | shedConsumer n => exact handing_serveShed h.toHanding n hp
  | releaseConsumer n => exact calm_serveRelease h.toCalm n hp
  | restoreStep s => exact calm_serveRestoreStep h.toCalm s hp
  | clearFlags mask => exact hraw p _ hp
  | enableFlags mask => exact h.config p _ (fun hf => hf) hp
  | grantReports n => exact hall p _ (Nat.min_le_left _ _) hp
  | save => exact hsave p serial hp
  | restart => exact hres p serial hp

end Sys2Proof.Machine
end

