-- ==== Sys2Proof/Laws/Frames.lean ====
section
/-! SUPPORT. What each group of operations leaves alone: the supervisor's desk, the settings and the island map, the object
records and the clock, and the sets' sequencer records. -/

namespace Sys2Proof.Machine

/-! ### The primitive updates -/

/-- A report that leaves changes the report queue, the allowance and the supervisor transmitter (R183). -/
theorem sendReport_eq (p : Part) : ∃ r t n, sendReport p = { p with reports := r, supTx := t, allowance := n } := by
  unfold sendReport
  split
  · split
    · exact ⟨_, _, _, rfl⟩
    · exact ⟨p.reports, p.supTx, p.allowance, rfl⟩
  · exact ⟨p.reports, p.supTx, p.allowance, rfl⟩

/-- An event changes the raw flags, the report queue, and what a report that leaves changes (R182, R183). -/
theorem occur_eq (k : EventKind) (o : EventObject) (p : Part) :
    ∃ f r t n, occur k o p = { p with rawFlags := f, reports := r, supTx := t, allowance := n } := by
  unfold occur
  extract_lets flagged
  split
  · exact ⟨_, p.reports, p.supTx, p.allowance, rfl⟩
  · unfold queueReport
    split
    · exact ⟨_, _, p.supTx, p.allowance, rfl⟩
    · split
      · obtain ⟨r, t, n, h⟩ := sendReport_eq
          { flagged with
            reports := flagged.reports ++ [{ kind := k, object := o, time := flagged.clock, count := 1 }] }
        exact ⟨_, r, t, n, h⟩
      · exact ⟨_, p.reports, p.supTx, p.allowance, rfl⟩

/-- The order arbiter changes the queues and the transmitter alone (R32). -/
theorem arbitrate_eq (p : Part) : ∃ t x y, arbitrate p = { p with fieldTx := t, urgent := x, normal := y } := by
  unfold arbitrate
  split
  · split
    · exact ⟨_, _, p.normal, by unfold beginOrder; rfl⟩
    · exact ⟨_, p.urgent, _, by unfold beginOrder; rfl⟩
    · exact ⟨p.fieldTx, p.urgent, p.normal, rfl⟩
  · exact ⟨p.fieldTx, p.urgent, p.normal, rfl⟩

/-- An order that joins its queue changes the order queues and what an event changes (R28, R29). -/
theorem joinQueues_eq (b : OrderBody) (u : Bool) (p : Part) :
    ∃ x y n f r t m, (joinQueues b u p).part =
      { p with urgent := x, normal := y, nextOrder := n, rawFlags := f, reports := r, supTx := t, allowance := m } := by
  have hq : ∃ f r t m, (queueFull b p).part = { p with rawFlags := f, reports := r, supTx := t, allowance := m } :=
    occur_eq _ _ _
  unfold joinQueues
  extract_lets o
  split
  · exact ⟨p.urgent, p.normal, p.nextOrder, p.rawFlags, p.reports, p.supTx, p.allowance, rfl⟩
  · split
    · unfold replaceOrder
      extract_lets next swap
      split
      · exact ⟨_, _, _, p.rawFlags, p.reports, p.supTx, p.allowance, rfl⟩
      · split
        · exact ⟨_, _, _, p.rawFlags, p.reports, p.supTx, p.allowance, rfl⟩
        · split
          · exact ⟨_, _, _, p.rawFlags, p.reports, p.supTx, p.allowance, rfl⟩
          · obtain ⟨f, r, t, m, h⟩ := hq
            exact ⟨p.urgent, p.normal, p.nextOrder, f, r, t, m, h⟩
    · split
      · exact ⟨_, p.normal, _, p.rawFlags, p.reports, p.supTx, p.allowance, rfl⟩
      · split
        · exact ⟨p.urgent, _, _, p.rawFlags, p.reports, p.supTx, p.allowance, rfl⟩
        · obtain ⟨f, r, t, m, h⟩ := hq
          exact ⟨p.urgent, p.normal, p.nextOrder, f, r, t, m, h⟩

/-- An order handed over changes besides the field transmitter (R32). -/
theorem handOver_eq (b : OrderBody) (u : Bool) (p : Part) :
    ∃ x y n f r t m v, (handOver b u p).part =
      { p with urgent := x, normal := y, nextOrder := n, rawFlags := f, reports := r, supTx := t, allowance := m,
               fieldTx := v } := by
  obtain ⟨x, y, n, f, r, t, m, h⟩ := joinQueues_eq b u p
  unfold handOver
  extract_lets g
  split
  · obtain ⟨v, x', y', e⟩ := arbitrate_eq (joinQueues b u p).part
    refine ⟨x', y', n, f, r, t, m, v, e.trans ?_⟩
    rw [h]
  · exact ⟨x, y, n, f, r, t, m, p.fieldTx, h⟩

/-! ### What is left alone -/

/-- The supervisor line but for its transmitter, the store and the supply: what no record, timer or edit changes. -/
def Part.desk (p : Part) :=
  (p.powered, p.resetAsserted, p.store, p.rate, p.supRx, p.requests, p.busyList, p.replies, p.restarting,
    p.nextRequest)

/-- The working configuration, the plant phase and the island map: what no record but a tie's changes. -/
def Part.settings (p : Part) := (p.cfg, p.phase, p.acquireAt, p.tieJoins, p.islandMap)

/-- The clock, the object records, the field receiver and the feedback timers: what no unit changes of its own accord. -/
def Part.seen (p : Part) :=
  (p.clock, p.fieldRx, p.feedback, p.setImage, p.consumerImage, p.meterImage, p.tieImage)

/-- Three groups in one. -/
def Part.aside (p : Part) := (p.desk, p.settings, p.seen)

theorem occur_aside (k : EventKind) (o : EventObject) (p : Part) : (occur k o p).aside = p.aside := by
  obtain ⟨f, r, t, n, h⟩ := occur_eq k o p
  rw [h]
  rfl

theorem handOver_aside (b : OrderBody) (u : Bool) (p : Part) : (handOver b u p).part.aside = p.aside := by
  obtain ⟨x, y, n, f, r, t, m, v, h⟩ := handOver_eq b u p
  rw [h]
  rfl

theorem joinQueues_aside (b : OrderBody) (u : Bool) (p : Part) : (joinQueues b u p).part.aside = p.aside := by
  obtain ⟨x, y, n, f, r, t, m, h⟩ := joinQueues_eq b u p
  rw [h]
  rfl

theorem handOver_seqs (b : OrderBody) (u : Bool) (p : Part) : (handOver b u p).part.seq = p.seq := handOver_seq b u

/-- The units change nothing of the three groups. -/
theorem units_aside (x) : Units (fun p => p.aside = x) where
  share _ _ h := h
  gov _ _ _ h := h
  selection _ _ h := h
  entry _ _ h := h
  inFlight _ _ h := h
  islands _ _ _ _ h := h
  occurs p k o h := (occur_aside k o p).trans h
  handed p c a u _ h := (handOver_aside (.consumer c a) u p).trans h
  dropped _ _ h := h
  setHanded p k a h := (handOver_aside (.set k a) false p).trans h
  setJoined p k a h := (joinQueues_aside (.set k a) false p).trans h
  setDropped _ _ h := h
  seqs _ _ _ h := h

theorem arbitrate_desk (p : Part) : (arbitrate p).desk = p.desk ∧ (arbitrate p).settings = p.settings := by
  obtain ⟨t, x, y, h⟩ := arbitrate_eq p
  rw [h]
  exact ⟨rfl, rfl⟩

/-- Records, timers and order frames change neither the desk nor the settings. -/
theorem plant_deskSettings (x) : Plant (fun p => (p.desk, p.settings) = x) where
  share _ _ h := h
  gov _ _ _ h := h
  selection _ _ h := h
  entry _ _ h := h
  inFlight _ _ h := h
  islands _ _ _ _ h := h
  occurs p k o h := by
    have := occur_aside k o p
    simp only [Part.aside, Prod.mk.injEq] at this
    rw [this.1, this.2.1]
    exact h
  handed p c a u _ h := by
    have := handOver_aside (.consumer c a) u p
    simp only [Part.aside, Prod.mk.injEq] at this
    rw [this.1, this.2.1]
    exact h
  dropped _ _ h := h
  setHanded p k a h := by
    have := handOver_aside (.set k a) false p
    simp only [Part.aside, Prod.mk.injEq] at this
    rw [this.1, this.2.1]
    exact h
  setJoined p k a h := by
    have := joinQueues_aside (.set k a) false p
    simp only [Part.aside, Prod.mk.injEq] at this
    rw [this.1, this.2.1]
    exact h
  setDropped _ _ h := h
  seqs _ _ _ h := h
  clocked _ _ h := h
  setImages _ _ h := h
  consumerImages _ _ h := h
  meterImages _ _ h := h
  tieImages _ _ _ h := h
  transmits _ _ h := h
  feedbacks _ _ h := h
  receives _ _ h := h
  arbitrates p h := by
    rw [(arbitrate_desk p).1, (arbitrate_desk p).2]
    exact h

/-- The edits change nothing of the desk, and so nothing read from it. -/
theorem edits_ofDesk {α : Type} (g : _ → α) (x : α) : Edits (fun p => g p.desk = x) where
  share _ _ h := h
  gov _ _ _ h := h
  selection _ _ h := h
  entry _ _ h := h
  inFlight _ _ h := h
  islands _ _ _ _ h := h
  occurs p k o h := by
    have := occur_aside k o p
    simp only [Part.aside, Prod.mk.injEq] at this
    rw [this.1]
    exact h
  handed p c a u _ h := by
    have := handOver_aside (.consumer c a) u p
    simp only [Part.aside, Prod.mk.injEq] at this
    rw [this.1]
    exact h
  dropped _ _ h := h
  setHanded p k a h := by
    have := handOver_aside (.set k a) false p
    simp only [Part.aside, Prod.mk.injEq] at this
    rw [this.1]
    exact h
  setJoined p k a h := by
    have := joinQueues_aside (.set k a) false p
    simp only [Part.aside, Prod.mk.injEq] at this
    rw [this.1]
    exact h
  setDropped _ _ h := h
  seqs _ _ _ h := h
  clocked _ _ h := h
  setImages _ _ h := h
  consumerImages _ _ h := h
  meterImages _ _ h := h
  tieImages _ _ _ h := h
  transmits _ _ h := h
  feedbacks _ _ h := h
  receives _ _ h := h
  arbitrates p h := by
    rw [(arbitrate_desk p).1]
    exact h
  ties _ _ h := h
  mapped _ _ _ _ _ h := h
  seqFree _ _ h := h
  phased _ h := h
  config _ _ _ h := h

theorem edits_desk (x) : Edits (fun p => p.desk = x) := edits_ofDesk id x

/-- No unit but the Set Sequencer changes a sequencer record. -/
theorem calm_seq (x) : Calm (fun p => p.seq = x) where
  share _ _ h := h
  gov _ _ _ h := h
  selection _ _ h := h
  entry _ _ h := h
  inFlight _ _ h := h
  islands _ _ _ _ h := h
  occurs p k o h := by
    obtain ⟨f, r, t, n, e⟩ := occur_eq k o p
    rw [e]
    exact h
  handed p c a u _ h := by rw [handOver_seq]; exact h
  dropped _ _ h := h

/-! ### Sets that the Reserve Unit's requests do not concern -/

/-- A set that is neither in STANDBY nor in RAMP_OUT of origin automatic (R45, R52). -/
def SeqRecord.quiet (r : SeqRecord) : Prop :=
  r.state ≠ some .standby ∧ ¬(r.state = some .rampOut ∧ r.origin = some .automatic)

/-- Sequencer records of the other sets. -/
theorem onSeq_other (j k : SetNo) (f : SeqRecord → SeqRecord) (p : Part) (h : j ≠ k) :
    (onSeq j f p).seq[k] = p.seq[k] := by
  simpa using modifyAt_other p.seq j k f h

theorem handSet_other (j k : SetNo) (a : SetOrder) (p : Part) (h : j ≠ k) :
    (handSet j a p).1.seq[k] = p.seq[k] := by
  have hn : (noteReplaced j (handOver (.set j a) false p).replaced (handOver (.set j a) false p).part).seq[k]
      = p.seq[k] := by
    unfold noteReplaced
    split
    · refine (onSeq_other j k _ _ h).trans ?_
      simp only [handOver_seq]
    · simp only [handOver_seq]
  simp only [handSet, noteHanded]
  split
  · exact hn
  · exact (onSeq_other j k _ _ h).trans hn

/-- The hand-on changes no sequencer record of a quiet set. -/
theorem handing_quiet (k : SetNo) (r : SeqRecord) (hr : r.quiet) : Handing (fun p => p.seq[k] = r) where
  share _ _ h := h
  gov _ _ _ h := h
  selection _ _ h := h
  entry _ _ h := h
  inFlight _ _ h := h
  islands _ _ _ _ h := h
  occurs p e o h := by
    have := occur_seq (p := p) e o
    simp only [this]
    exact h
  handed p c a u _ h := by
    have := handOver_seq (p := p) (.consumer c a) u
    simp only [this]
    exact h
  dropped _ _ h := h
  starts p j h := by
    simp only [startRequest]
    split
    · rename_i hc
      simp only [Bool.and_eq_true, setStateIs, beq_iff_eq] at hc
      have hj : j ≠ k := by
        rintro rfl
        exact hr.1 (by rw [← h]; exact hc.2)
      have he : ∀ (o : Sequenced) (st : SetState), (o.enter j st).part.seq[k] = o.part.seq[k] :=
        fun o st => onSeq_other j k _ _ hj
      have hs : (handSet j .start (((sequenced p).on (stopSetTimer j)).enter j .starting).part).1.seq[k] = r := by
        rw [handSet_other _ _ _ _ hj, he]
        simp only [Sequenced.on, sequenced, stopSetTimer]
        rw [onSeq_other _ _ _ _ hj]
        exact h
      split
      · exact hs
      · rw [he]
        exact hs
    · exact h
  abandons p j h := by
    simp only [abandonRequest]
    split
    · rename_i hc
      simp only [Bool.and_eq_true, setStateIs, beq_iff_eq] at hc
      have hj : j ≠ k := by
        rintro rfl
        exact hr.2 (by rw [← h]; exact hc)
      simp only [Sequenced.enter, Sequenced.on, sequenced, setOrigin, clearSlow]
      rw [onSeq_other _ _ _ _ hj, onSeq_other _ _ _ _ hj, onSeq_other _ _ _ _ hj]
      exact h
    · exact h

/-- A quiet set's record after the hand-on of an operation's changes is that before it (R44). -/
theorem handOn_quiet (o : Sequenced) (k : SetNo) (h : o.part.seq[k].quiet) : o.handOn.seq[k] = o.part.seq[k] :=
  handing_handOn (handing_quiet k _ h) o rfl

/-- The hand-on leaves the three groups alone. -/
theorem handOn_aside (o : Sequenced) : o.handOn.aside = o.part.aside := units_handOn (units_aside _) o rfl

end Sys2Proof.Machine
end

