-- ==== Sys2Proof/Laws/Whole.lean ====
section
/-! SUPPORT. A condition that the shared operations keep is kept by every command, and so by every step. -/

namespace Sys2Proof.Machine

/-- Kept by the records, the timers, the end of ACQUIRE, the serving of requests and the supervisor line, and held by a
part that has just been reset or is without power. -/
structure Whole (I : Part → Prop) : Prop extends Plant I where
  records : ∀ p station bytes, I p → I (takeRecord station bytes p)
  owns : ∀ p r serial, I p → I (serveOwn r serial p).part
  opens : ∀ p, p.phase = .acquire → I p → I (endAcquire p)
  numbers : ∀ p v, I p → I { p with nextRequest := v }
  hears : ∀ p v, I p → I { p with supRx := v }
  joins : ∀ p serial kind tag payload c, p.requests.length < Config.requestMax → I p →
    I (joinRequests serial kind tag payload c p)
  lists : ∀ p b, p.busyList.length < Config.requestMax → I p → I { p with busyList := p.busyList ++ [b] }
  forms : ∀ p serial kind tag code data, I p → I (formReply serial kind tag code data p)
  sends : ∀ p, I p → I (sendNext p)
  idles : ∀ p, I p → I { p with supTx := none }
  ends : ∀ p serial, I p → I (replySent serial p)
  answers : ∀ p (f : QueuedRequest → QueuedRequest), I p → I { p with requests := p.requests.map f }
  stores : ∀ p v, (v.contents = p.store.contents ∨ v.contents = p.cfg) → I p → I { p with store := v }
  starts : ∀ p store cfg rate asserted, store.contents = p.store.contents →
    (cfg = p.cfg ∨ cfg = p.store.contents ∨ cfg = Configuration.default) → I p →
    I { Part.acquiring store cfg rate with resetAsserted := asserted }
  unpowers : ∀ p, I p → I (Part.unpowered p.store p.resetAsserted)
  holds : ∀ p, I p → I (heldInReset p)
  pins : ∀ p v, I p → I { p with resetAsserted := v }

variable {I : Part → Prop} {p : Part}

/-! ### What follows every event -/

theorem whole_checkAcquire (h : Whole I) (hp : I p) : I (checkAcquire p) := by
  simp only [checkAcquire]
  split
  · rename_i hc
    simp only [Bool.and_eq_true, beq_iff_eq] at hc
    exact h.opens p hc.1 hp
  · exact hp

theorem whole_kick (h : Whole I) (hp : I p) : I (kick p) :=
  h.sends _ (h.arbitrates _ (whole_checkAcquire h hp))

theorem whole_whileRunning (h : Whole I) (f : Part → Part) (hf : ∀ q, I q → I (f q)) (hp : I p) :
    I (whileRunning f p) := by
  simp only [whileRunning]
  split
  · exact whole_kick h (hf p hp)
  · exact hp

/-! ### Supply, reset and ACQUIRE -/

theorem whole_coldStart (h : Whole I) (strap1 strap2 : Bool) (hp : I p) : I (coldStart strap1 strap2 p) := by
  refine whole_kick h (h.starts p p.store.cutOff _ _ _ rfl ?_ hp)
  unfold loadedConfiguration
  split
  · exact .inr (.inl rfl)
  · exact .inr (.inr rfl)

theorem whole_restartTaken (h : Whole I) (hp : I p) : I (restartTaken p) :=
  whole_kick h (h.starts p p.store _ _ _ rfl (.inl rfl) hp)

theorem whole_assertReset (h : Whole I) (hp : I p) : I (assertReset p) := by
  simp only [assertReset]
  split
  · exact h.holds p hp
  · exact h.pins p _ hp

theorem whole_releaseReset (h : Whole I) (strap1 strap2 : Bool) (hp : I p) : I (releaseReset strap1 strap2 p) := by
  simp only [releaseReset]
  split
  · exact whole_coldStart h strap1 strap2 (h.pins p _ hp)
  · exact h.pins p _ hp

theorem whole_acquireExpired (h : Whole I) (hp : I p) : I (acquireExpired p) := by
  unfold acquireExpired
  split
  · rename_i ha _
    exact h.opens _ ha (plant_reach h.toPlant _ hp)
  · exact hp

/-! ### The field line -/

theorem whole_fieldFrameArrived (h : Whole I) (frame : List Byte) (hp : I p) : I (fieldFrameArrived frame p) := by
  simp only [fieldFrameArrived]
  split
  · split
    · exact fold_keeps _ _ (fun _ _ hq => whole_kick h (h.records _ _ _ hq)) hp
    · exact h.occurs _ _ _ hp
  · exact h.occurs _ _ _ hp

theorem whole_fieldBytes (h : Whole I) (fuel : Nat) (bytes : List Byte) (hp : I p) : I (fieldBytes fuel bytes p) := by
  induction fuel generalizing bytes p with
  | zero => exact hp
  | succ n ih =>
    cases bytes with
    | nil => exact hp
    | cons b rest =>
      simp only [fieldBytes]
      split
      · exact ih _ (plant_fieldBuffer h.toPlant _ hp)
      · exact ih _ (h.occurs _ _ _ (plant_fieldBuffer h.toPlant _ hp))
      · exact ih _ (whole_fieldFrameArrived h _ (plant_fieldBuffer h.toPlant _ hp))

theorem whole_fieldFrameTaken (h : Whole I) (frame : List Byte) (hp : I p) : I (fieldFrameTaken frame p) := by
  have hb := plant_fieldBuffer h.toPlant [] hp
  simp only [fieldFrameTaken]
  split
  · exact whole_fieldFrameArrived h frame hb
  · exact h.occurs _ _ _ hb

theorem whole_fieldHeaderRejected (h : Whole I) (bytes : List Byte) (hp : I p) : I (fieldHeaderRejected bytes p) :=
  whole_fieldBytes h _ bytes (plant_fieldBuffer h.toPlant [] hp)

theorem whole_fieldByte (h : Whole I) (b : Byte) (hp : I p) : I (fieldByte b p) := whole_fieldBytes h _ _ hp

/-! ### The supervisor line -/

/-- Serving a request leaves the request queue, the busy list and the reply order as they are. -/
theorem serveOwn_queues (r : Request) (serial : Nat) (p : Part) :
    ((serveOwn r serial p).part.requests, (serveOwn r serial p).part.busyList, (serveOwn r serial p).part.replies)
      = (p.requests, p.busyList, p.replies) := by
  refine edits_serveOwn (I := fun q => (q.requests, q.busyList, q.replies) = (p.requests, p.busyList, p.replies))
    (edits_ofDesk (fun d => (d.2.2.2.2.2.1, d.2.2.2.2.2.2.1, d.2.2.2.2.2.2.2.1)) _) ?_ ?_ ?_ ?_ r serial rfl
  · exact fun _ _ h => h
  · exact fun _ _ _ h => h
  · exact fun _ _ h => h
  · exact fun _ _ h => h

/-- The same of the whole of serving (R167). -/
theorem serve_requests (kind : Byte) (payload : List Byte) (serial : Nat) (p : Part) :
    (serve kind payload serial p).1.part.requests = p.requests := by
  unfold serve
  split
  · rfl
  · split
    · rfl
    · exact congrArg (fun t => t.1) (serveOwn_queues _ serial p)

theorem whole_serve (h : Whole I) (kind : Byte) (payload : List Byte) (serial : Nat) (hp : I p) :
    I (serve kind payload serial p).1.part := by
  unfold serve
  split
  · exact hp
  · split
    · exact hp
    · exact h.owns p _ serial hp

theorem whole_serveAccepted (h : Whole I) (serial : Nat) (kind tag : Byte) (payload : List Byte)
    (hl : p.requests.length < Config.requestMax) (hp : I p) : I (serveAccepted serial kind tag payload p) := by
  have hs := whole_serve h kind payload serial hp
  have hr : (serve kind payload serial p).1.part.requests.length < Config.requestMax := by
    rw [serve_requests]
    exact hl
  simp only [serveAccepted]
  split
  · exact h.joins _ _ _ _ _ _ hr hs
  · exact h.forms _ _ _ _ _ _ (h.joins _ _ _ _ _ _ hr hs)

theorem whole_acceptRequest (h : Whole I) (kind tag : Byte) (payload : List Byte) (hp : I p) :
    I (acceptRequest kind tag payload p) := by
  have hn := h.numbers p (p.nextRequest + 1) hp
  simp only [acceptRequest]
  split
  · rename_i hl
    split
    · exact h.joins _ _ _ _ _ _ hl hn
    · exact whole_serveAccepted h _ kind tag payload hl hn
  · split
    · rename_i hl
      have ht := h.lists { p with nextRequest := p.nextRequest + 1 }
        { serial := p.nextRequest, kind := kind, tag := tag, sending := false } hl hn
      simp only [turnAway]
      split
      · exact ht
      · exact h.forms _ _ _ _ _ _ ht
    · exact hp

theorem whole_supervisorFrameArrived (h : Whole I) (frame : List Byte) (hp : I p) :
    I (supervisorFrameArrived frame p) := by
  simp only [supervisorFrameArrived]
  split
  · exact whole_acceptRequest h _ _ _ hp
  · exact hp

theorem whole_supervisorBytes (h : Whole I) (fuel : Nat) (bytes : List Byte) (hp : I p) :
    I (supervisorBytes fuel bytes p) := by
  induction fuel generalizing bytes p with
  | zero => exact hp
  | succ n ih =>
    cases bytes with
    | nil => exact hp
    | cons b rest =>
      simp only [supervisorBytes]
      split
      · exact ih _ (h.hears _ _ hp)
      · exact ih _ (h.hears _ _ hp)
      · exact ih _ (whole_kick h (whole_supervisorFrameArrived h _ (h.hears _ _ hp)))

theorem whole_supervisorFrameTaken (h : Whole I) (frame : List Byte) (hp : I p) : I (supervisorFrameTaken frame p) := by
  have hb : I (supervisorBuffer [] p) := h.hears _ _ hp
  simp only [supervisorFrameTaken]
  split
  · exact whole_supervisorFrameArrived h frame hb
  · exact hb

theorem whole_supervisorHeaderRejected (h : Whole I) (bytes : List Byte) (hp : I p) :
    I (supervisorHeaderRejected bytes p) := whole_supervisorBytes h _ bytes (h.hears _ _ hp)

theorem whole_supervisorByte (h : Whole I) (b : Byte) (hp : I p) : I (supervisorByte b p) :=
  whole_supervisorBytes h _ _ hp

theorem whole_supervisorGapPassed (h : Whole I) (hp : I p) : I (supervisorGapPassed p) := by
  simp only [supervisorGapPassed]
  split
  · exact hp
  · exact h.hears _ _ (plant_reach h.toPlant _ hp)

theorem whole_supervisorSent (h : Whole I) (hp : I p) : I (supervisorSent p) := by
  have hi := h.idles p hp
  simp only [supervisorSent]
  split
  · exact hp
  · split
    · exact hi
    · split
      · exact whole_restartTaken h hi
      · exact h.ends _ _ hi

theorem whole_saveReply (h : Whole I) (serial : Nat) (code : ResultCode) (hp : I p) : I (saveReply serial code p) := by
  simp only [saveReply]
  split
  · exact h.forms _ _ _ _ _ _ (h.answers _ _ hp)
  · exact hp

theorem whole_saveFails (h : Whole I) (s : SaveInProgress) (hp : I p) : I (saveFails s p) :=
  whole_saveReply h _ _ (h.stores p _ (.inl rfl) hp)

theorem whole_saveCompared (h : Whole I) (b : Bool) (hp : I p) : I (saveCompared b p) := by
  simp only [saveCompared]
  split
  · exact hp
  · split
    · exact whole_saveReply h _ _ (h.stores p _ (.inr rfl) hp)
    · exact whole_saveFails h _ hp

theorem whole_saveTimedOut (h : Whole I) (hp : I p) : I (saveTimedOut p) := by
  simp only [saveTimedOut]
  split
  · exact hp
  · exact whole_saveFails h _ (plant_reach h.toPlant _ hp)

/-! ### Every command and every step -/

/-- Every command answers a next state with the same waiting commands. -/
theorem exec_next (c : Instr) (s : State) : ∃ q, exec c s = .next { s with part := q } := by
  cases c <;> exact ⟨_, rfl⟩

/-- A command that acts while the part runs. -/
theorem whole_running (h : Whole I) {s t : State} (f : Part → Part) (hf : ∀ q, I q → I (f q)) (hs : I s.part)
    (ht : running f s = .next t) : I t.part := by
  simp only [running, onPart, Host.Outcome.next.injEq] at ht
  subst ht
  exact whole_whileRunning h f hf hs

/-- A command that acts at any time. -/
theorem whole_onPart {s t : State} (f : Part → Part) (hf : I (f s.part)) (ht : onPart f s = .next t) : I t.part := by
  simp only [onPart, Host.Outcome.next.injEq] at ht
  subst ht
  exact hf

/-- Every command keeps the condition. -/
theorem whole_exec (h : Whole I) (c : Instr) {s t : State} (hs : I s.part) (ht : exec c s = .next t) : I t.part := by
  have hp := h.toPlant
  have hreq : ∀ kind tag payload, request kind tag payload s = .next t → I t.part := fun kind tag payload hr =>
    whole_running h _ (fun _ hq => whole_acceptRequest h _ _ _ hq) hs hr
  cases c with
  | powerOn a b => exact whole_onPart _ (whole_coldStart h a b hs) ht
  | resetAssert => exact whole_onPart _ (whole_assertReset h hs) ht
  | resetRelease a b => exact whole_onPart _ (whole_releaseReset h a b hs) ht
  | powerLoss => exact whole_onPart _ (h.unpowers _ hs) ht
  | acquireTimerExpiry => exact whole_running h _ (fun _ hq => whole_acquireExpired h hq) hs ht
  | fieldFrameHeaderReject bytes => exact whole_running h _ (fun _ hq => whole_fieldHeaderRejected h _ hq) hs ht
  | fieldFrameGapTimeout => exact whole_running h _ (fun _ hq => plant_fieldGapPassed hp hq) hs ht
  | fieldFrameReceived frame => exact whole_running h _ (fun _ hq => whole_fieldFrameTaken h _ hq) hs ht
  | fieldByteReceived b => exact whole_running h _ (fun _ hq => whole_fieldByte h _ hq) hs ht
  | staleTimerExpiry o => exact whole_running h _ (fun _ hq => plant_staleExpired hp o hq) hs ht
  | orderFrameSent => exact whole_running h _ (fun _ hq => plant_orderSent hp hq) hs ht
  | feedbackTimeout c => exact whole_running h _ (fun _ hq => plant_feedbackExpired hp c hq) hs ht
  | startTimerExpiry k => exact whole_running h _ (fun _ hq => plant_startTimer hp k hq) hs ht
  | syncTimerExpiry k => exact whole_running h _ (fun _ hq => plant_syncTimer hp k hq) hs ht
  | openTimerExpiry k => exact whole_running h _ (fun _ hq => plant_openTimer hp k hq) hs ht
  | stopTimerExpiry k => exact whole_running h _ (fun _ hq => plant_stopTimer hp k hq) hs ht
  | sharePeriod i => exact whole_running h _ (fun _ hq => plant_sharePeriodDue hp i hq) hs ht
  | subPulseStart k => exact whole_running h _ (fun _ hq => plant_beginSubPulse hp k hq) hs ht
  | subPulseEnd k => exact whole_running h _ (fun _ hq => plant_endSubPulse hp k hq) hs ht
  | startConfirmExpiry i => exact whole_running h _ (fun _ hq => plant_startConfirm hp i hq) hs ht
  | stopDelayExpiry i => exact whole_running h _ (fun _ hq => plant_stopDelay hp i hq) hs ht
  | headDeadlineExpiry i => exact whole_running h _ (fun _ hq => plant_headDeadlinePassed hp i hq) hs ht
  | holdDeadlineExpiry c => exact whole_running h _ (fun _ hq => plant_holdDeadlinePassed hp c hq) hs ht
  | checkTimerExpiry i => exact whole_running h _ (fun _ hq => plant_checkPassed hp i hq) hs ht
  | confirmTimerExpiry i => exact whole_running h _ (fun _ hq => plant_pacerPassed hp _ i hq) hs ht
  | settleTimerExpiry i => exact whole_running h _ (fun _ hq => plant_pacerPassed hp _ i hq) hs ht
  | restoreTimerExpiry i => exact whole_running h _ (fun _ hq => plant_restorePassed hp i hq) hs ht
  | supervisorHeaderReject bytes => exact whole_running h _ (fun _ hq => whole_supervisorHeaderRejected h _ hq) hs ht
  | supervisorGapTimeout => exact whole_running h _ (fun _ hq => whole_supervisorGapPassed h hq) hs ht
  | supervisorFrameReceived frame => exact whole_running h _ (fun _ hq => whole_supervisorFrameTaken h _ hq) hs ht
  | supervisorByteReceived b => exact whole_running h _ (fun _ hq => whole_supervisorByte h _ hq) hs ht
  | supervisorFrameSent => exact whole_running h _ (fun _ hq => whole_supervisorSent h hq) hs ht
  | saveComplete b => exact whole_running h _ (fun _ hq => whole_saveCompared h b hq) hs ht
  | saveTimeout => exact whole_running h _ (fun _ hq => whole_saveTimedOut h hq) hs ht
  | identify tag => exact hreq _ _ _ ht
  | readPlant tag => exact hreq _ _ _ ht
  | readFlags tag => exact hreq _ _ _ ht
  | readSet tag n => exact hreq _ _ _ ht
  | readConsumer tag n => exact hreq _ _ _ ht
  | readIsland tag a b => exact hreq _ _ _ ht
  | readContingency tag a b d => exact hreq _ _ _ ht
  | readHistory tag a b => exact hreq _ _ _ ht
  | writeSet tag n m f => exact hreq _ _ _ ht
  | writeConsumer tag n m f => exact hreq _ _ _ ht
  | writePlant tag m f => exact hreq _ _ _ ht
  | placeConsumer tag n b f => exact hreq _ _ _ ht
  | placeConsumerMove tag n b f => exact hreq _ _ _ ht
  | removeConsumer tag n => exact hreq _ _ _ ht
  | writeStandbyOrder tag l => exact hreq _ _ _ ht
  | setMode tag n m => exact hreq _ _ _ ht
  | commandSetStart tag n => exact hreq _ _ _ ht
  | commandSetStop tag n => exact hreq _ _ _ ht
  | commandSetBlock tag n => exact hreq _ _ _ ht
  | commandSetReset tag n => exact hreq _ _ _ ht
  | shedConsumer tag n => exact hreq _ _ _ ht
  | releaseConsumer tag n => exact hreq _ _ _ ht
  | restoreStep tag n => exact hreq _ _ _ ht
  | clearFlags tag m => exact hreq _ _ _ ht
  | enableFlags tag m => exact hreq _ _ _ ht
  | grantReports tag n => exact hreq _ _ _ ht
  | save tag => exact hreq _ _ _ ht
  | restart tag => exact hreq _ _ _ ht

/-- Every step keeps the condition. -/
theorem whole_step (h : Whole I) {s t : State} (hs : I s.part) (ht : step s = .next t) : I t.part := by
  simp only [step] at ht
  split at ht
  · simp only [Host.Outcome.next.injEq] at ht
    subst ht
    simp only [tick]
    split
    · exact h.clocked _ _ hs
    · exact hs
  · rename_i rest _
    exact whole_exec h _ (s := { s with pending := rest }) hs ht

end Sys2Proof.Machine
end

