-- ==== Sys2Proof/WellFormed.lean ====
section
/-! DEFINITION. Which terms of `Instr` stand for something that can reach the part: the fields of a masked write are as
many as its list has (R170 to R173), a carried list fits a frame (R163), and the bytes of a frame command are a complete
frame or a frame rejected at its last byte (R23, R24, R164). A command that is not well formed still has a meaning. -/

namespace Sys2Proof

open Sys2Proof.Machine

/-- The set numbers a WRITE STANDBY ORDER frame can carry: its payload is at most 248 bytes (R163, R177). -/
def standbyCarryMax : Nat := 247

/-- Well-formedness of a command. -/
def Instr.wf : Instr → Bool
  | .fieldFrameReceived frame => fieldHeaderGood frame
  | .fieldFrameHeaderReject bytes =>
    bytes.head? == some Config.fieldMark && rejectedAtLast fieldHeaderBad bytes
  | .supervisorFrameReceived frame => supervisorHeaderGood frame
  | .supervisorHeaderReject bytes =>
    bytes.head? == some Config.supervisorMark && rejectedAtLast supervisorHeaderBad bytes
  | .writeSet _ _ _ fields => fields.length == 11
  | .writeConsumer _ _ _ fields => fields.length == 10
  | .writePlant _ _ fields => fields.length == 34
  | .placeConsumer _ _ _ fields => fields.length == 9
  | .placeConsumerMove _ _ _ fields => fields.length == 9
  | .writeStandbyOrder _ sets => sets.length ≤ standbyCarryMax
  | .powerOn _ _ | .resetAssert | .resetRelease _ _ | .acquireTimerExpiry | .fieldFrameGapTimeout
  | .staleTimerExpiry _ | .orderFrameSent | .feedbackTimeout _ | .startTimerExpiry _ | .syncTimerExpiry _
  | .openTimerExpiry _ | .stopTimerExpiry _ | .sharePeriod _ | .subPulseStart _ | .subPulseEnd _
  | .startConfirmExpiry _ | .stopDelayExpiry _ | .headDeadlineExpiry _ | .holdDeadlineExpiry _
  | .checkTimerExpiry _ | .confirmTimerExpiry _ | .settleTimerExpiry _ | .restoreTimerExpiry _
  | .supervisorGapTimeout | .identify _ | .readPlant _ | .readFlags _ | .readSet _ _ | .readConsumer _ _
  | .readIsland _ _ _ | .readContingency _ _ _ _ | .readHistory _ _ _ | .removeConsumer _ _ | .setMode _ _ _
  | .commandSetStart _ _ | .commandSetStop _ _ | .commandSetBlock _ _ | .commandSetReset _ _
  | .shedConsumer _ _ | .releaseConsumer _ _ | .restoreStep _ _ | .clearFlags _ _ | .enableFlags _ _
  | .grantReports _ _ | .save _ | .saveComplete _ | .saveTimeout | .restart _ | .supervisorFrameSent
  | .fieldByteReceived _ | .supervisorByteReceived _ | .powerLoss => true

end Sys2Proof
end

