-- ==== Sys2Proof/Tests/Slice0.lean ====
section
/-! SUPPORT. Tests of the model on the manual's worked cases and tables, a term that each check of well-formedness refuses,
and for each statement with hypotheses a theorem `wit_…` that shows a part and operands meeting them, clause by clause. -/

namespace Sys2Proof.Tests

open Sys2Proof Sys2Proof.Machine Sys2Proof.Claims

/-! ### A small plant -/

/-- A set of section A at station 11, by the worked cases of chapter 4 (R = 11,520, Pmin = 1,152). -/
def setA : SetConfig :=
  { sect := 0, rated := 11520, pmin := 1152, weight := 100, fixedOut := 4000, rampRate := 500, deadband := 10, gain := 24,
    startTime := 20, mode := .auto, station := 11 }

/-- An entry of section A at station 31. -/
def entryA (c : ConsumerNo) (kind : EntryKind) (floor : Nat) : EntryConfig :=
  { consumer := c, sect := 0, kind := kind, guarded := false, autoRestore := true, askFirst := true, floor := floor,
    estimate := 0, inhibit := false, station := 31 }

/-- Eight sets of section A, a BREAKER entry and a LIMITABLE one, tie 1 at station 20 and meter A at station 21. -/
def plantCfg : Configuration :=
  { sets := Vector.replicate 8 setA
    shedList := [entryA 0 .breaker 0, entryA 1 .limitable 400]
    standby := [4, 5]
    plant :=
      { PlantConfig.default with
        tiePresent := #v[true, false, false, false], tieStation := #v[20, 0, 0, 0], meterStation := #v[21, 0, 0, 0] }
    enable := BitVec.allOnes 26 }

/-- A QUALIFIED freshness record. -/
def fresh : Fresh := { state := .qualified, counted := false, staleAt := some 1300 }

/-- The plant in RUN at 1,000 ms: sets 1 and 2 on the bus of island A at 3,000 kW each, the others in STANDBY, both
consumers CONNECTED and drawing 1,000 kW. -/
def plant : Part :=
  { Part.acquiring Store.blank plantCfg .r115200 with
    clock := 1000
    phase := .run
    acquireAt := none
    islandMap := some #v[0, 1, 2, 3]
    islands := Vector.replicate 4 (some Island.fresh)
    setImage := Vector.ofFn fun k =>
      if k.val < 2 then { running := true, closed := true, kw := 3000, trip := false, fresh := fresh }
      else { SetImage.reset with fresh := fresh }
    consumerImage := Vector.replicate 48 { closed := true, kw := 1000, limit := none, fresh := fresh }
    meterImage := Vector.replicate 4 { voltage := true, freq := some 60000, fresh := fresh }
    tieImage := Vector.replicate 4 { closed := false, fresh := fresh }
    seq := Vector.ofFn fun k => { SeqRecord.reset with state := some (if k.val < 2 then .onBus else .standby) }
    entry := Vector.replicate 48 { EntryRecord.reset with state := some .connected } }

/-- Set 3 of the plant with these values of the Set Sequencer. -/
def withSeq (r : SeqRecord) : Part := { plant with seq := plant.seq.set 2 r }

/-- Set 3 in this state. -/
def inState (st : SetState) : Part := withSeq { SeqRecord.reset with state := some st }

/-- Set 3 in this state, its timer running as `t` until 2,000 ms. -/
def timed (st : SetState) (t : SetTimer) (slow : Bool) : Part :=
  withSeq { SeqRecord.reset with state := some st, timer := some (t, 2000), slow := slow }

/-- Consumer 1 in this entry state. -/
def withEntry (st : EntryState) (cause : Option ShedCause) : Part :=
  { plant with entry := plant.entry.set 0 { EntryRecord.reset with state := some st, cause := cause } }

/-- Island A of the plant changed. -/
def withIsland (f : Island → Island) : Part := { plant with islands := plant.islands.set 0 (some (f Island.fresh)) }

/-- The plant sending this order. -/
def sending (b : OrderBody) : Part :=
  { plant with fieldTx := some { order := { serial := 0, body := b, urgent := false }, station := 11, frame := [],
                                 withdrawn := false } }

/-- The states of a set. -/
def allStates : List SetState :=
  [.standby, .starting, .synchronising, .rampIn, .onBus, .rampOut, .opening, .stopping, .tripped, .blocked, .localRun]

/-- Island A with a restore timer running and consumer 1 SHED, its record offering `kw`. -/
def restoring (st : RestoreState) (history : List HistoryRecord) : Part :=
  { (withIsland fun r =>
      { r with restore := { RestoreContext.fresh with state := st, timer := some 2000 }, history := history }) with
    entry := plant.entry.set 0 { EntryRecord.reset with state := some .shed } }

/-- A history record of consumer 1. -/
def aRecord (kw : Nat) : HistoryRecord := { consumer := 0, time := 900, cause := .paced, offered := kw }

/-- Island A with a request of consumer 1 at the head of its queue, and grants of consumer 2. -/
def requested : Part :=
  withIsland fun r =>
    { r with reserve :=
        { r.reserve with
          queue := [{ consumer := 0, kw := 1, arrival := 0, deadline := some 2000 }]
          grants := [{ consumer := 1, kw := 5000, hold := some 3000, serial := 0 }] } }

/-- Island A in a shed state with its timers running, the two sets carrying `kw` each. -/
def shedding (st : ShedState) (saved : Option PacedPhase) (kw : Nat) (list : List EntryConfig) : Part :=
  { (withIsland fun r =>
      { r with shed := { ShedContext.fresh with state := st, checkTimer := some 2000, pacerTimer := some 2000, saved := saved } }) with
    cfg := { plantCfg with shedList := list }
    setImage := plant.setImage.map fun r => { r with kw := kw } }

/-- The plant while a SAVE is in progress, its request in service. -/
def saving : Part :=
  { plant with
    store := { plant.store with saving := some { serial := 3, started := 900 } }
    requests := [{ serial := 3, kind := 23#8, tag := 7#8, payload := [], condition := some .inService }]
    nextRequest := 4 }

/-- Four requests wait for their replies, and as many of the busy list as given. -/
def crowded (busy : Nat) : Part :=
  { plant with
    requests := List.replicate 4 { serial := 0, kind := 8#8, tag := 1#8, payload := [], condition := some .answered }
    busyList := List.replicate busy { serial := 0, kind := 8#8, tag := 1#8, sending := false } }

theorem plantCfg_fits : plantCfg.fits := by
  unfold Configuration.fits SetConfig.fits EntryConfig.fits PlantConfig.fits
  decide

/-! ### Well-formedness: one ill-formed term for each check -/

theorem wf_refuses_field_frame : (Instr.fieldFrameReceived [165#8, 63#8, 1#8, 254#8, 0#8, 0#8, 0#8]).wf = false := by decide

theorem wf_refuses_field_reject_mark : (Instr.fieldFrameHeaderReject [164#8, 63#8]).wf = false := by decide

theorem wf_refuses_field_reject_good : (Instr.fieldFrameHeaderReject [165#8, 62#8]).wf = false := by decide

theorem wf_refuses_supervisor_frame : (Instr.supervisorFrameReceived [90#8, 2#8, 253#8, 1#8, 1#8, 0#8]).wf = false := by decide

theorem wf_refuses_supervisor_reject_mark : (Instr.supervisorHeaderReject [91#8, 1#8]).wf = false := by decide

theorem wf_refuses_supervisor_reject_good : (Instr.supervisorHeaderReject [90#8, 2#8]).wf = false := by decide

theorem wf_refuses_write_set : (Instr.writeSet 1 1 0 (List.replicate 10 0)).wf = false := by decide

theorem wf_refuses_write_consumer : (Instr.writeConsumer 1 1 0 (List.replicate 11 0)).wf = false := by decide

theorem wf_refuses_write_plant : (Instr.writePlant 1 0 (List.replicate 33 0)).wf = false := by decide

theorem wf_refuses_place : (Instr.placeConsumer 1 1 1 (List.replicate 8 0)).wf = false := by decide

theorem wf_refuses_place_move : (Instr.placeConsumerMove 1 1 1 (List.replicate 10 0)).wf = false := by decide

theorem wf_refuses_standby_order : (Instr.writeStandbyOrder 1 (List.replicate 248 1)).wf = false := by decide +kernel

/-! ### The manual's worked cases and tables -/

/-- Sets 1, 2 and 3 of the worked cases of chapter 4, set 3 with the given share weight. -/
def sharers (w3 : Int) : List ShareItem :=
  [{ set := 0, weight := 1152000, lo := 1152, hi := 11520 }, { set := 1, weight := 1152000, lo := 1152, hi := 11520 },
    { set := 2, weight := w3 * 7680, lo := 768, hi := 7680 }]

/-- 4.4, an even division. -/
theorem test_even_division :
    (∀ x ∈ [((0 : SetNo), (8437 : Int)), (1, 8438), (2, 5625)], x ∈ (divideRemainder (sharers 100) 22500).targets)
      ∧ (divideRemainder (sharers 100) 22500).residual = 0 := by decide

/-- 4.4, a light load pinned low. -/
theorem test_pinned_low :
    (∀ x ∈ [((0 : SetNo), (1152 : Int)), (1, 1152), (2, 768)], x ∈ (divideRemainder (sharers 100) 2000).targets)
      ∧ (divideRemainder (sharers 100) 2000).residual = -1072 := by decide

/-- 4.4, two passes. -/
theorem test_two_passes :
    (∀ x ∈ [((0 : SetNo), (11160 : Int)), (1, 11160), (2, 7680)], x ∈ (divideRemainder (sharers 255) 30000).targets)
      ∧ (divideRemainder (sharers 255) 30000).residual = 0 := by decide

/-- 5.7, the share terms and the trim of one period. -/
theorem test_terms :
    shareTermOf setA 8437 9000 = -72 ∧ shareTermOf setA 8438 8200 = 30
      ∧ shareTermOf { setA with rated := 7680 } 5625 5300 = 63 ∧ trimTermOf plantCfg.plant (some 59950) = 25 := by decide

/-- 5.7, the plans of set 1 and set 3, and the saturated plan. -/
theorem test_plans :
    (planOf 600000 .shareAndTrim (-72) 25).lengths = #v[12, 12, 12, 11]
      ∧ (planOf 600000 .shareAndTrim (-72) 25).line = .lower
      ∧ (planOf 600000 .shareAndTrim 63 25).lengths = #v[22, 22, 22, 22]
      ∧ (planOf 600000 .shareAndTrim 780 25).lengths = #v[48, 48, 48, 48]
      ∧ (planOf 600000 .shareAndTrim 780 25).saturated = true := by decide

/-- R97: the end of an island's period cuts the plans that the period has made, whatever island their sets now lie in. -/
theorem test_period_ends_its_plans :
    let p : Part :=
      { withIsland fun r => { r with periodAt := some 900 } with
        gov := Vector.ofFn fun k =>
          { GovRecord.reset with
            madeBy := if k.val % 2 = 0 then some 0 else some 1
            plan := { PulsePlan.none with origin := some 900, inProgress := true } } }
    ((stopPlans 0 p).gov.toList.map fun g => (g.plan.inProgress, g.plan.cutShort)).take 3
      = [(false, true), (true, false), (false, true)] := by decide

/-- R140, R161: what changes no entry rebuilds no table: an outcome for an entry that is no longer RESTORE_PENDING, and a fast
shed that queues no order. -/
theorem test_no_rebuild :
    (restoreOutcome 0 .timedOut plant).islands = plant.islands
      ∧ (island (fastShed 0 .fastOverload [] plant) 0).rebuiltAt = none
      ∧ (island (fastShed 0 .fastOverload [⟨0, .trip⟩] plant) 0).rebuiltAt = some 1000 := by decide +kernel

/-- R27, R40, R129: the order of an action whose limit is above 20,000 kW carries 20,000, and its relief is counted from that. -/
theorem test_limit_within_range :
    let p : Part :=
      { plant with consumerImage := plant.consumerImage.set 1 { plant.consumerImage[(1 : ConsumerNo)] with kw := 22000 } }
    let q := fastShed 0 .contingency [⟨1, .limit 21000⟩] p
    (q.fieldTx.map fun x => x.order.body) = some (.consumer 1 (.limit 20000))
      ∧ q.entry[(1 : ConsumerNo)].relief = 2000 := by decide +kernel

/-- 1.6, rows of the table of island maps. -/
theorem test_island_maps :
    islandMapOf #v[false, false, false, true] = #v[0, 1, 2, 0] ∧ islandMapOf #v[true, false, true, false] = #v[0, 0, 2, 2]
      ∧ islandMapOf #v[false, true, true, false] = #v[0, 1, 1, 1] ∧ islandMapOf #v[false, false, true, true] = #v[0, 1, 0, 0]
      ∧ islandMapOf #v[true, false, true, true] = #v[0, 0, 0, 0] := by decide

/-- The shed list of 7.5 in one island, with consumer 3 drawing `kw`; consumer 29 is inhibited, 8 lies in section C, 40 is
protected. -/
def shedPlant (kw : Nat) : Part :=
  { plant with
    cfg :=
      { plantCfg with
        shedList := [entryA 13 .breaker 0, entryA 21 .breaker 0, { entryA 28 .breaker 0 with inhibit := true },
          { entryA 7 .breaker 0 with sect := 2 }, entryA 16 .breaker 0, entryA 2 .limitable 4000,
          { entryA 39 .breaker 0 with guarded := true }] }
    consumerImage := (((((plant.consumerImage.set 13 { ConsumerImage.reset with kw := 1400 }).set 21
      { ConsumerImage.reset with kw := 900 }).set 16 { ConsumerImage.reset with kw := 3200 }).set 2
      { ConsumerImage.reset with kw := kw })) }

/-- 7.5, the selection for a deficit of 5,280 kW. -/
theorem test_selection_breakers : selectionFor (shedPlant 9000) 0 0 5280 =
    { set := 0, deficit := 5280, actions := [⟨13, .trip⟩, ⟨21, .trip⟩, ⟨16, .trip⟩], covered := 5500, insufficient := false } := by
  decide

/-- 7.5, the selections that end with a LIMIT of consumer 3, sufficient and insufficient. -/
theorem test_selection_limits :
    selectionFor (shedPlant 9000) 0 0 9280 =
      { set := 0, deficit := 9280, actions := [⟨13, .trip⟩, ⟨21, .trip⟩, ⟨16, .trip⟩, ⟨2, .limit 5220⟩], covered := 9280,
        insufficient := false }
    ∧ selectionFor (shedPlant 7000) 0 0 10280 =
      { set := 0, deficit := 10280, actions := [⟨13, .trip⟩, ⟨21, .trip⟩, ⟨16, .trip⟩, ⟨2, .limit 4000⟩], covered := 8500,
        insufficient := true } := by
  decide

/-- R40: the frame of a TRIP of consumer 7 and of a SYNC of set 5 with dead-bus permitted, summed by hand. -/
theorem test_order_frames :
    orderFrame 31 (.consumer 6 .trip) = [165#8, 31#8, 4#8, 251#8, 1#8, 7#8, 0#8, 0#8, 1#8, 203#8]
      ∧ orderFrame 11 (.set 4 (.sync true)) = [165#8, 11#8, 4#8, 251#8, 8#8, 5#8, 0#8, 1#8, 1#8, 189#8] := by decide

/-- R40: SET STATUS of set 2 at 9,000 kW, and METER STATUS of section A at 59,950 mHz. -/
theorem test_records :
    decodeRecord plant [1#8, 2#8, 3#8, 35#8, 40#8] = some (.set 1 true true 9000 false)
      ∧ decodeRecord plant [3#8, 1#8, 1#8, 0#8, 234#8, 46#8] = some (.meter 0 true (some 59950)) := by decide

/-- R180, R191: the reply DONE to the SAVE of tag 7, summed by hand. -/
theorem test_reply_frame :
    replyFrame { serial := 3, kind := 23#8, tag := 7#8, code := .done, data := [] }
      = [90#8, 3#8, 252#8, 151#8, 7#8, 0#8, 1#8, 247#8] := by decide

/-- What the supervisor transmitter sends after a command. -/
def sent (c : Instr) (p : Part) : List Byte :=
  match exec c { part := p, pending := [] } with
  | .next t => (t.part.supTx.map SupervisorTransmission.frame).getD []
  | _ => []

/-- R174: IDENTIFY right after reset answers 4260, revision 1, 115,200 bit/s, RUN, plant time 0 and an invalid store. -/
theorem test_identify : (sent (.identify 9#8) State.reset.part).take 23 =
    [90#8, 21#8, 234#8, 129#8, 9#8, 0#8, 0#8, 0#8, 16#8, 164#8, 0#8, 0#8, 0#8, 1#8, 0#8, 1#8, 194#8, 0#8, 1#8, 0#8, 0#8, 0#8,
      0#8] := by decide

/-- 9.8: a WRITE SET during a SAVE is answered STORE_BUSY, a READ PLANT with the request queue full BUSY. -/
theorem test_busy :
    (sent (.writeSet 8#8 1#8 0 (1#32 :: List.replicate 10 0#32)) saving).take 6 = [90#8, 3#8, 252#8, 137#8, 8#8, 8#8]
      ∧ (sent (.readPlant 11#8) (crowded 0)).take 6 = [90#8, 3#8, 252#8, 136#8, 11#8, 10#8] := by decide

/-- R36, R144: an opened breaker confirms the TRIP of consumer 1, whose entry is then SHED with a history record. -/
theorem test_trip_confirmed :
    let p : Part :=
      { withEntry .shedPending (some .paced) with
        feedback := plant.feedback.set 0 (some { order := { serial := 0, body := .consumer 0 .trip, urgent := true },
                                                 deadline := 1400 }) }
    let q := deliverRecord (.consumer 0 false 0 none) p
    q.entry[(0 : ConsumerNo)].state = some .shed ∧ q.feedback[(0 : ConsumerNo)] = none
      ∧ (island q 0).history.map HistoryRecord.cause = [.paced] := by decide

/-- R181: bits of the event mask, from the first kind to the last. -/
theorem test_event_bits :
    EventKind.setLoss.index = 0 ∧ EventKind.deadIsland.index = 12 ∧ EventKind.editCollision.index = 23
      ∧ EventKind.reportOverflow.index = 25 := by decide

/-! ### Witnesses: time, power and the transmitters -/

theorem wit_IdleAndHeldParts :
    Awake plant ∧ ¬Awake { plant with powered := false } ∧ ¬Awake { plant with resetAsserted := true }
      ∧ (∀ a b, Instr.save 1#8 ≠ .powerOn a b) ∧ (∀ a b, Instr.save 1#8 ≠ .resetRelease a b)
      ∧ Instr.save 1#8 ≠ .resetAssert ∧ Instr.save 1#8 ≠ .powerLoss := by decide

/-- The plant with its configuration saved. -/
def saved : Part := { plant with store := { valid := true, contents := plantCfg, saving := none } }

theorem wit_ColdStart_configured : ∃ o, objectConfigured (coldPart true true saved) o = true := ⟨.set 7, by decide⟩

theorem wit_ColdStart_empty : ∀ o, objectConfigured (coldPart true false plant) o = false
  | .set k => (by decide : ∀ k, objectConfigured (coldPart true false plant) (.set k) = false) k
  | .consumer c => (by decide : ∀ c, objectConfigured (coldPart true false plant) (.consumer c) = false) c
  | .meter s => (by decide : ∀ s, objectConfigured (coldPart true false plant) (.meter s) = false) s
  | .tie t => (by decide : ∀ t, objectConfigured (coldPart true false plant) (.tie t) = false) t

theorem wit_ColdStart_released : { plant with resetAsserted := true }.powered = true
    ∧ { plant with resetAsserted := true }.resetAsserted = true := by decide

theorem wit_ResetInput : plant.powered = true ∧ plant.resetAsserted = false ∧ { plant with powered := false }.powered = false := by
  decide

/-- The plant's configuration in ACQUIRE, set 1 held closed and consumer 2 already QUALIFIED. -/
def acquiring : Part :=
  { Part.acquiring Store.blank plantCfg .r115200 with
    setImage := (Vector.replicate 8 SetImage.reset).set 0 { SetImage.reset with closed := true }
    consumerImage := (Vector.replicate 48 ConsumerImage.reset).set 1 { ConsumerImage.reset with fresh := fresh } }

theorem wit_AcquireTimerEndsAcquire :
    Awake acquiring ∧ acquiring.phase = .acquire ∧ acquiring.acquireAt = some 3000
      ∧ (objectConfigured acquiring (.set 0) = true ∧ (freshOf acquiring (.set 0)).state = .unqualified)
      ∧ (objectConfigured acquiring (.consumer 1) = true ∧ (freshOf acquiring (.consumer 1)).state ≠ .unqualified)
      ∧ setConfigured acquiring 0 = true ∧ derived acquiring 0 ≠ .standby ∧ derived acquiring 1 = .standby
      ∧ (consumerConfigured acquiring 1 = true ∧ acquiring.consumerImage[(1 : ConsumerNo)].closed = false)
      ∧ { acquiring with consumerImage := plant.consumerImage }.consumerImage[(1 : ConsumerNo)].closed = true
      ∧ Running plant := by decide

/-- An order for set 3. -/
def anOrder : Order := { serial := 0, body := .set 2 .stop, urgent := false }

/-- A part whose normal queue is full of orders that are not for set 3. -/
def full (p : Part) : Part :=
  { p with normal := List.replicate 32 { serial := 0, body := .consumer 9 .deny, urgent := false } }

/-- A reply and a report. -/
def aReply : Reply := { serial := 0, kind := 8#8, tag := 1#8, code := .done, data := List.replicate 247 0#8 }

/-- A report of a set loss. -/
def aReport : Report := { kind := .setLoss, object := .set 7, time := 4294967295, count := 255 }

theorem wit_TransmittersChoose_orders :
    let u : Part := { plant with urgent := [anOrder], normal := [anOrder] }
    let n : Part := { plant with normal := [anOrder] }
    (u.phase = .run ∧ u.fieldTx = none ∧ u.urgent = anOrder :: []) ∧ (n.phase = .run ∧ n.urgent = [] ∧ n.normal = anOrder :: [])
      ∧ acquiring.phase = .acquire ∧ (sending (.set 0 .stop)).fieldTx.isSome = true ∧ plant.urgent = [] ∧ plant.normal = [] := by
  decide

theorem wit_TransmittersChoose_handOver :
    (objectConfigured plant (.set 0) = true ∧ plant.phase = .run ∧ plant.fieldTx = none ∧ plant.urgent = [] ∧ plant.normal = [])
      ∧ acquiring.phase = .acquire ∧ objectConfigured acquiring (.consumer 0) = true
      ∧ queuedFor acquiring (.consumer 0) = none ∧ Room acquiring
      ∧ (let p := sending (.set 0 .stop)
        p.fieldTx.isSome = true ∧ objectConfigured p (.consumer 0) = true ∧ queuedFor p (.consumer 0) = none ∧ Room p) := by decide

theorem wit_TransmittersChoose_frames :
    let r : Part := { plant with replies := [aReply], reports := [aReport] }
    let q : Part := { plant with reports := [aReport], allowance := 1 }
    let b : Part := { plant with supTx := some { what := .report, frame := [] } }
    (r.supTx = none ∧ r.replies = aReply :: []) ∧ (q.supTx = none ∧ q.replies = [] ∧ q.reports = aReport :: [] ∧ 0 < q.allowance)
      ∧ b.supTx.isSome = true ∧ (plant.replies = [] ∧ plant.reports = []) ∧ { q with allowance := 0 }.allowance = 0 := by decide +kernel

theorem wit_TransmittersChoose_acquire : ∃ o, objectConfigured acquiring o = true ∧ (freshOf acquiring o).state ≠ .qualified :=
  ⟨.set 0, by decide⟩

/-- A part in ACQUIRE with no configured object. -/
def bare : Part := Part.acquiring Store.blank Configuration.default .r115200

theorem wit_TransmittersChoose_ends : bare.phase = .acquire ∧
    ∀ o, objectConfigured bare o = true → (freshOf bare o).state = .qualified :=
  ⟨rfl, fun o => match o with
    | .set k => (by decide : ∀ k, objectConfigured bare (.set k) = true → (freshOf bare (.set k)).state = .qualified) k
    | .consumer c =>
      (by decide : ∀ c, objectConfigured bare (.consumer c) = true → (freshOf bare (.consumer c)).state = .qualified) c
    | .meter s => (by decide : ∀ s, objectConfigured bare (.meter s) = true → (freshOf bare (.meter s)).state = .qualified) s
    | .tie t => (by decide : ∀ t, objectConfigured bare (.tie t) = true → (freshOf bare (.tie t)).state = .qualified) t⟩

theorem wit_OutboundFramesAreGood : (∀ n ∈ [1, 62], 1 ≤ n ∧ n ≤ 62) ∧ aReply.data.length ≤ 247 := by decide +kernel

/-! ### Witnesses: the field line -/

/-- The record area of forty-eight SET STATUS records. -/
def fullArea : List (List Byte) := List.replicate 48 [1#8, 1#8, 0#8, 0#8, 0#8]

theorem wit_FieldFrameReceived_good :
    Awake plant ∧ fullArea ≠ [] ∧ (∀ r ∈ fullArea, ∃ k ∈ r.head?, recordSize k.toNat = some r.length)
      ∧ fullArea.flatten.length = 240 := by decide +kernel

theorem wit_FieldFrameReceived_bad :
    fieldHeaderGood [165#8, 63#8, 3#8, 252#8, 4#8, 1#8, 0#8, 1#8, 227#8] = false
      ∧ (let f : List Byte := [165#8, 62#8, 3#8, 252#8, 4#8, 1#8, 0#8, 1#8, 226#8]
        fieldHeaderGood f = true ∧ sumHolds f = false ∧ areaRecords (fieldArea f) ≠ none)
      ∧ (let f := fieldFrame 1 [6#8]
        fieldHeaderGood f = true ∧ sumHolds f = true ∧ areaRecords (fieldArea f) = none) := by decide

theorem wit_StationRecordsDecode :
    (97#8).toNat * 256 + (168#8).toNat = 25000 ∧ 25000 < (97#8).toNat * 256 + (169#8).toNat
      ∧ (∀ k : SetNo, (byteOf (k.val + 1)).toNat = k.val + 1) ∧ 8 < (9#8).toNat
      ∧ (∀ k : ConsumerNo, (byteOf (k.val + 1)).toNat = k.val + 1) ∧ 48 < (49#8).toNat
      ∧ (∀ k : SectionNo, (byteOf (k.val + 1)).toNat = k.val + 1) ∧ 4 < (5#8).toNat
      ∧ isLimitable plant 1 = true ∧ isLimitable plant 0 = false
      ∧ (78#8).toNat * 256 + (32#8).toNat = 20000 ∧ (0#8).toNat * 65536 + (156#8).toNat * 256 + (64#8).toNat = 40000
      ∧ (1#8).toNat * 65536 + (17#8).toNat * 256 + (112#8).toNat = 70000 := by decide

theorem wit_RecordTests :
    decodeRecord plant [1#8, 9#8, 0#8, 0#8, 0#8] = none
      ∧ (∃ r, decodeRecord plant [2#8, 3#8, 0#8, 0#8, 0#8, 0#8, 0#8] = some r ∧ objectConfigured plant r.object = false)
      ∧ (∃ r, decodeRecord plant [1#8, 1#8, 0#8, 0#8, 0#8] = some r ∧ objectConfigured plant r.object = true
          ∧ objectStation plant r.object = 11) :=
  ⟨by decide, ⟨.consumer 2 false 0 none, by decide⟩, ⟨.set 0 false false 0 false, by decide⟩⟩

theorem wit_StaleTimerExpires :
    Awake plant ∧ (freshOf bare (.set 0)).staleAt = none
      ∧ ((freshOf plant (.set 0)).staleAt = some 1300 ∧ (freshOf plant (.set 0)).state = .qualified)
      ∧ (let p := onFresh (.tie 0) (fun _ => { state := .unqualified, counted := true, staleAt := some 1 }) plant
        (freshOf p (.tie 0)).staleAt = some 1 ∧ (freshOf p (.tie 0)).state ≠ .qualified) := by decide

theorem wit_StaleTimerExpires_kinds :
    (∀ o ∈ [ObjectRef.set 7, .consumer 1, .meter 0, .tie 0],
      (freshOf plant o).staleAt = some 1300 ∧ (freshOf plant o).state = .qualified ∧ o ≠ .set 0)
    ∧ ∀ b ∈ [true, false],
      let p : Part :=
        { plant with
          gov := plant.gov.set 7
            { GovRecord.reset with plan := { PulsePlan.none with cls := .shareOnly, line := .raise, inProgress := b } } }
      (freshOf p (.set 7)).state = .qualified ∧ p.gov[(7 : SetNo)].plan.inProgress = b := by decide

theorem wit_SetRecordMovesSet : ∀ st ∈ allStates, ∀ r ∈ [(true, false, false), (true, true, false), (true, false, true)],
    let p := inState st
    Running p ∧ setConfigured p 2 = true ∧ p.seq[(2 : SetNo)].state = some st ∧ Room p
      ∧ (p.setImage[(2 : SetNo)].running ≠ r.1 ∨ p.setImage[(2 : SetNo)].closed ≠ r.2.1 ∨ p.setImage[(2 : SetNo)].trip ≠ r.2.2)
      ∧ p.setImage[(2 : SetNo)].closed = false := by decide

/-- An order whose set's breaker is held closed is lost where a record shows it open. -/
theorem wit_SetRecordMovesSet_loss : ∀ st ∈ [SetState.rampIn, .onBus],
    let p : Part := { plant with seq := plant.seq.set 0 { SeqRecord.reset with state := some st } }
    Running p ∧ setConfigured p 0 = true ∧ p.seq[(0 : SetNo)].state = some st ∧ p.setImage[(0 : SetNo)].closed = true
      ∧ st ≠ .rampOut ∧ st ≠ .opening := by decide

theorem wit_SetRecordMovesSet_full : ∀ st ∈ [SetState.starting, .opening],
    let p := full (inState st)
    Running p ∧ setConfigured p 2 = true ∧ p.seq[(2 : SetNo)].state = some st ∧ p.setImage[(2 : SetNo)].running = false
      ∧ p.setImage[(2 : SetNo)].closed = false ∧ 32 ≤ p.normal.length ∧ queuedFor p (.set 2) = none := by decide

theorem wit_SetRecordMovesSet_stopping : ∀ t ∈ [SetTimer.stop, .openBreaker],
    let p : Part :=
      { timed .stopping t false with setImage := plant.setImage.set 2 { SetImage.reset with running := true } }
    Running p ∧ setConfigured p 2 = true ∧ p.seq[(2 : SetNo)].state = some .stopping
      ∧ p.setImage[(2 : SetNo)].running = true ∧ p.seq[(2 : SetNo)].timer = some (t, 2000) := by decide

theorem wit_SetLossShedsSelection :
    let sel : Selection :=
      { set := 0, deficit := 1600, actions := [⟨0, .trip⟩, ⟨1, .limit 400⟩], covered := 1600, insufficient := false }
    let p : Part := { plant with selection := plant.selection.set 0 { last := some sel, short := false } }
    Running p ∧ p.seq[(0 : SetNo)].state = some .onBus ∧ onIslandBus p 0 0 = true ∧ onIslandBus p 0 1 = true
      ∧ p.islands[(0 : IslandNo)].isSome = true ∧ p.selection[(0 : SetNo)].last = some sel
      ∧ (sel.actions.map ShedAction.consumer).Nodup
      ∧ ∀ a ∈ sel.actions, ∃ e ∈ entryCfg p a.consumer, entryInIsland p 0 e = true ∧ p.entry[a.consumer].state = some .connected := by
  decide

/-- Set 1 alone on the bus of island A, with a plan of its period running and a request in the heavy queue; set 2 stands by
with a NONE plan that island B's period made before its section was moved. -/
def lone (standby : List SetNo) : Part :=
  { (withIsland fun r =>
      { r with
        periodAt := some 900
        reserve := { r.reserve with queue := [{ consumer := 1, kw := 1, arrival := 0, deadline := some 2000 }] } }) with
    cfg := { plantCfg with standby := standby }
    setImage := plant.setImage.set 1 { SetImage.reset with fresh := fresh }
    seq := plant.seq.set 1 { SeqRecord.reset with state := some .standby }
    gov := (plant.gov.set 0
      { GovRecord.reset with
        raise := true, madeBy := some 0
        plan := { PulsePlan.none with origin := some 900, cls := .shareOnly, line := .raise, inProgress := true } }).set 1
      { GovRecord.reset with
        madeBy := some 1, plan := { PulsePlan.none with origin := some 950, inProgress := true } } }

theorem wit_SetLossShedsSelection_dead :
    (∀ l ∈ [[4, 5], []],
      let p := lone l
      Running p ∧ p.seq[(0 : SetNo)].state = some .onBus ∧ onIslandBus p 0 0 = true
        ∧ (∀ j : SetNo, j ≠ 0 → onIslandBus p 0 j = false) ∧ p.islands[(0 : IslandNo)].isSome = true
        ∧ setConfigured p 0 = true ∧ islandOf p p.cfg.sets[(0 : SetNo)].sect = some 0
        ∧ p.gov[(0 : SetNo)].plan.inProgress = true ∧ p.gov[(0 : SetNo)].madeBy = some 0
        ∧ p.gov[(0 : SetNo)].plan.origin = (island p 0).periodAt
        ∧ p.gov[(1 : SetNo)].plan.inProgress = true ∧ p.gov[(1 : SetNo)].madeBy = some 1
        ∧ p.gov[(1 : SetNo)].plan.cls = .noPulse ∧ (∀ j : SetNo, j ≠ 0 → p.inFlight[j] = false)
        ∧ (∀ e ∈ p.cfg.shedList, entryInIsland p 0 e = true ∧ p.entry[e.consumer].state = some .connected ∧ e.guarded = false)
        ∧ (island p 0).reserve.queue ≠ [] ∧ (island p 0).reserve.low = false)
    ∧ startChoice (lone [4, 5]) 0 = some 4 ∧ setConfigured (lone [4, 5]) 4 = true
    ∧ (lone [4, 5]).normal.length + (island (lone [4, 5]) 0).reserve.queue.length ≤ 16
    ∧ startChoice (lone []) 0 = none := by decide

theorem wit_SetLossShedsSelection_dead_fits : (lone []).cfg.fits :=
  ⟨plantCfg_fits.1, plantCfg_fits.2.1, plantCfg_fits.2.2.1, plantCfg_fits.2.2.2.1, plantCfg_fits.2.2.2.2.1, Nat.zero_le _, .nil⟩

theorem wit_SetLossShedsSelection_live :
    let p : Part := { restoring .idle [aRecord 500] with setImage := Vector.replicate 8 SetImage.reset }
    Running p ∧ setConfigured p 0 = true ∧ islandOf p p.cfg.sets[(0 : SetNo)].sect = some 0
      ∧ (∀ j : SetNo, onIslandBus p 0 j = false) ∧ p.islands[(0 : IslandNo)].isSome = true
      ∧ (island p 0).restore.state ≠ .stepWait ∧ (island p 0).history ≠ [] := by decide

/-- The plant with a shed order of consumer 1 or 2 awaiting feedback. -/
def awaiting (c : ConsumerNo) (a : ConsumerOrder) (st : EntryState) : Part :=
  { plant with
    feedback := plant.feedback.set c (some { order := { serial := 0, body := .consumer c a, urgent := true }, deadline := 1400 })
    entry := plant.entry.set c { EntryRecord.reset with state := some st, cause := some .paced } }

theorem wit_ConsumerRecordAnswers :
    (∀ x ∈ [((0 : ConsumerNo), ConsumerOrder.trip), (1, .limit 400)],
      let p := awaiting x.1 x.2 .shedPending
      Running p ∧ (entryCfg p x.1).isSome = true ∧ entryIsland p x.1 = some 0 ∧ p.islands[(0 : IslandNo)].isSome = true
        ∧ (p.feedback[x.1].map fun f => f.order.body) = some (.consumer x.1 x.2) ∧ p.entry[x.1].state = some .shedPending
        ∧ p.entry[x.1].cause = some .paced)
    ∧ (plant.feedback[(0 : ConsumerNo)] = none ∧ plant.entry[(0 : ConsumerNo)].state = some .connected
        ∧ plant.consumerImage[(0 : ConsumerNo)].closed = true)
    ∧ (let p := { withEntry .openExternal none with consumerImage := Vector.replicate 48 ConsumerImage.reset }
      Running p ∧ p.feedback[(0 : ConsumerNo)] = none ∧ p.entry[(0 : ConsumerNo)].state = some .openExternal
        ∧ p.consumerImage[(0 : ConsumerNo)].closed = false) := by decide

theorem wit_ConsumerRecordAnswers_restored :
    (∀ x ∈ [((0 : ConsumerNo), ConsumerOrder.close), (1, .release)],
      let p := awaiting x.1 x.2 .restorePending
      Running p ∧ entryIsland p x.1 = some 0 ∧ (p.feedback[x.1].map fun f => f.order.body) = some (.consumer x.1 x.2)
        ∧ p.entry[x.1].state = some .restorePending)
    ∧ (∀ st ∈ [EntryState.shed, .restorePending],
      let o : Order := { serial := 0, body := .consumer 0 .close, urgent := false }
      let p : Part := { withEntry st none with consumerImage := Vector.replicate 48 ConsumerImage.reset, normal := [o] }
      Running p ∧ p.feedback[(0 : ConsumerNo)] = none ∧ p.entry[(0 : ConsumerNo)].state = some st
        ∧ p.consumerImage[(0 : ConsumerNo)].closed ≠ true ∧ queuedFor p (.consumer 0) = some o
        ∧ o.body = .consumer 0 .close)
    ∧ (entryCfg plant 1).map EntryConfig.kind = some .limitable ∧ (entryCfg plant 0).map EntryConfig.kind = some .breaker := by
  decide

theorem wit_ConsumerRecordAnswers_kept :
    (let p := withEntry .shedPending (some .paced)
     Running p ∧ p.feedback[(0 : ConsumerNo)] = none ∧ p.entry[(0 : ConsumerNo)].state = some .shedPending)
    ∧ (Running requested ∧ entryIsland requested 1 = some 0 ∧ grantIsland requested 1 = some 0
      ∧ (grantOf requested 1).map HeavyGrant.kw = some 5000 ∧ requested.consumerImage[(1 : ConsumerNo)].kw ≠ 2500
      ∧ 5000 ≤ 2 * 2500 ∧ 2 * 2499 < 5000 ∧ requested.consumerImage[(1 : ConsumerNo)].kw = 1000) := by decide

/-- Island A with a heavy queue of consumers other than 1 and 2. -/
def queued (n : Nat) : Part :=
  withIsland fun r =>
    { r with reserve := { r.reserve with queue := List.replicate n { consumer := 9, kw := 1, arrival := 0, deadline := none } } }

theorem wit_HeavyRequestIsQueuedOrDenied :
    Running plant ∧ acquiring.phase = .acquire ∧ entryIsland plant 2 = none
      ∧ (objectConfigured plant (.consumer 0) = true ∧ queuedFor plant (.consumer 0) = none ∧ Room plant)
      ∧ (∃ e ∈ entryCfg plant 0, e.askFirst = true) ∧ entryIsland plant 0 = some 0
      ∧ (∀ n ∈ [0, 7, 8], (∀ q ∈ (island (queued n) 0).reserve.queue, q.consumer ≠ 0) ∧ islandLive (queued n) 0 = true
          ∧ (island (queued n) 0).reserve.queue.length = n ∧ grantOf (queued n) 0 = none
          ∧ (queued n).islands[(0 : IslandNo)].isSome = true)
      ∧ ∃ q ∈ (island requested 0).reserve.queue, q.consumer = 0 := by decide

theorem wit_HeavyRequestIsQueuedOrDenied_denied :
    (plant.phase = .run ∧ plant.fieldTx = none ∧ plant.urgent = [] ∧ plant.normal = [])
      ∧ (let p := sending (.set 0 .stop)
        p.fieldTx.isSome = true ∧ objectConfigured p (.consumer 0) = true ∧ queuedFor p (.consumer 0) = none ∧ Room p)
      ∧ (let p : Part := { plant with cfg := { plantCfg with shedList := [{ entryA 0 .breaker 0 with askFirst := false }] } }
        ∃ e ∈ entryCfg p 0, e.askFirst = false)
      ∧ (let p : Part := { plant with setImage := Vector.replicate 8 SetImage.reset }
        islandLive p 0 = false ∧ (island p 0).reserve.queue = [] ∧ grantOf p 0 = none) := by decide

theorem wit_BytesMakeFrames :
    Awake plant ∧ kick plant = plant ∧ plant.fieldRx.buf = [] ∧ fieldHeaderGood (fieldFrame 62 [4#8, 1#8, 1#8]) = true
      ∧ plant.supRx.buf = [] ∧ supervisorHeaderGood (supervisorFrame 1#8 0#8 []) = true
      ∧ (fieldFrame 62 [4#8, 1#8, 1#8]).length = 9 ∧ (supervisorFrame 1#8 0#8 []).length = 7 := by decide

theorem wit_BytesMakeFrames_partial :
    (∀ n ∈ [0, 7], let f := fieldFrame 62 [4#8, 1#8, 1#8]
      f = f.take n ++ f.getD n 0#8 :: f.drop (n + 1) ∧ f.drop (n + 1) ≠ []
        ∧ { plant with fieldRx := { buf := f.take n, lastAt := 999 } }.fieldRx.buf = f.take n)
    ∧ ∀ n ∈ [0, 5], let f := supervisorFrame 1#8 0#8 []
      f = f.take n ++ f.getD n 0#8 :: f.drop (n + 1) ∧ f.drop (n + 1) ≠ []
        ∧ { plant with supRx := { buf := f.take n, lastAt := 999 } }.supRx.buf = f.take n := by decide

theorem wit_ReceiversDropBadFrames :
    Awake plant ∧ (0#8).toNat = 0 ∧ 62 < (63#8).toNat ∧ 62 < (165#8).toNat ∧ 1 ≤ (1#8).toNat ∧ (62#8).toNat ≤ 62
      ∧ 240 < (241#8).toNat ∧ (240#8).toNat ≤ 240 ∧ (14#8).toNat ≠ 255 - (240#8).toNat ∧ (165#8).toNat ≠ 255 - (165#8).toNat
      ∧ (1#8).toNat < 2 ∧ 250 < (251#8).toNat ∧ 2 ≤ (2#8).toNat ∧ (250#8).toNat ≤ 250 ∧ (90#8).toNat ≠ 255 - (90#8).toNat
      ∧ { plant with fieldRx := { buf := [165#8], lastAt := 999 } }.fieldRx.buf ≠ []
      ∧ { plant with supRx := { buf := [90#8], lastAt := 999 } }.supRx.buf ≠ [] := by decide

/-! ### Witnesses: orders and set timers -/

theorem wit_ConsumerOrderSent :
    Awake plant ∧ plant.fieldTx = none
      ∧ ∀ a ∈ [ConsumerOrder.trip, .release, .limit 20000, .close, .deny, .grant],
        let p := sending (.consumer 0 a)
        Awake p ∧ p.feedback[(0 : ConsumerNo)] = none
          ∧ ∃ tx ∈ p.fieldTx, tx.withdrawn = false ∧ tx.order.body = .consumer 0 a := by decide

theorem wit_ConsumerOrderSent_superseded :
    ∀ x ∈ [(ConsumerOrder.close, ConsumerOrder.trip, EntryState.shedPending), (.release, .limit 400, .shedPending),
        (.trip, .close, .restorePending), (.trip, .limit 400, .connected)],
      let p : Part := { awaiting 1 x.2.1 x.2.2 with fieldTx := (sending (.consumer 1 x.1)).fieldTx }
      Awake p ∧ p.entry[(1 : ConsumerNo)].state = some x.2.2
        ∧ (p.feedback[(1 : ConsumerNo)].map fun f => f.order.body) = some (.consumer 1 x.2.1)
        ∧ ∃ tx ∈ p.fieldTx, tx.withdrawn = false ∧ tx.order.body = .consumer 1 x.1 := by decide

theorem wit_ConsumerOrderSent_withdrawn :
    let p : Part :=
      { plant with fieldTx := some { order := anOrder, station := 11, frame := [], withdrawn := true } }
    Awake p ∧ (∃ tx ∈ p.fieldTx, tx.withdrawn = true) ∧ p.entry[(0 : ConsumerNo)].state ≠ some .restorePending := by decide

theorem wit_SetOrderSent :
    ∀ x ∈ [(SetState.starting, SetOrder.start), (.synchronising, .sync true), (.opening, .openBreaker), (.stopping, .stop),
        (.blocked, .stop), (.tripped, .stop), (.standby, .start)],
      let p : Part :=
        { sending (.set 2 x.2) with
          seq := (inState x.1).seq
          setImage := plant.setImage.set 2 { SetImage.reset with running := true } }
      Awake p ∧ p.seq[(2 : SetNo)].state = some x.1 ∧ p.seq[(2 : SetNo)].stayFrom ≤ 0 ∧ p.seq[(2 : SetNo)].timer = none
        ∧ p.setImage[(2 : SetNo)].running = true ∧ p.setImage[(2 : SetNo)].trip = false
        ∧ ∃ tx ∈ p.fieldTx, tx.withdrawn = false ∧ tx.order.body = .set 2 x.2 ∧ tx.order.serial = 0 := by decide

theorem wit_SetOrderSent_stopped : ∀ trip ∈ [true, false],
    let p : Part :=
      { sending (.set 2 .stop) with
        seq := (inState .stopping).seq, setImage := plant.setImage.set 2 { SetImage.reset with trip := trip } }
    Awake p ∧ p.seq[(2 : SetNo)].state = some .stopping ∧ p.seq[(2 : SetNo)].stayFrom ≤ 0
      ∧ p.setImage[(2 : SetNo)].running = false ∧ p.setImage[(2 : SetNo)].closed = false
      ∧ p.setImage[(2 : SetNo)].trip = trip := by decide

theorem wit_FeedbackTimesOut :
    Awake plant ∧ plant.feedback[(0 : ConsumerNo)] = none
      ∧ ∀ x ∈ [(ConsumerOrder.trip, EntryState.shedPending), (.limit 400, .shedPending), (.close, .restorePending),
          (.release, .restorePending), (.trip, .connected)],
        let p := awaiting 0 x.1 x.2
        Awake p ∧ p.entry[(0 : ConsumerNo)].state = some x.2
          ∧ ∃ f ∈ p.feedback[(0 : ConsumerNo)], f.order.body = .consumer 0 x.1 := by decide

theorem wit_SetTimersRunOut :
    (∀ x ∈ [(SetState.starting, SetTimer.start, false), (.starting, .start, true), (.synchronising, .sync, false),
        (.opening, .openBreaker, false), (.stopping, .stop, false)],
      let p := timed x.1 x.2.1 x.2.2
      Awake p ∧ setConfigured p 2 = true ∧ Room p ∧ p.seq[(2 : SetNo)].state = some x.1
        ∧ p.seq[(2 : SetNo)].timer = some (x.2.1, 2000) ∧ p.seq[(2 : SetNo)].slow = x.2.2)
    ∧ plant.seq[(2 : SetNo)].timer = none := by decide

/-! ### Witnesses: sharing and the governor lines -/

theorem wit_DivisionTakesTheRemainder :
    ((sharers 100).map ShareItem.set).Nodup ∧ (∀ a ∈ sharers 100, 0 < a.weight ∧ 0 ≤ a.lo ∧ a.lo ≤ a.hi)
      ∧ (((sharers 100).map ShareItem.lo).sum = 3072 ∧ ((sharers 100).map ShareItem.hi).sum = 30720)
      ∧ 0 < (divideRemainder (sharers 100) 30721).residual ∧ (divideRemainder (sharers 100) 3071).residual < 0 := by decide

theorem wit_PeriodSharesTheRemainder :
    plant.cfg.fits ∧ plant.islands[(0 : IslandNo)].isSome = true
      ∧ ((computePeriod 0 plant).2.roles.filter fun r => r.2 == .sharing).map Prod.fst = [0, 1] := by
  refine ⟨?_, by decide, by decide⟩
  unfold Configuration.fits SetConfig.fits EntryConfig.fits PlantConfig.fits
  decide

theorem wit_PeriodSharesTheRemainder_residual :
    let p : Part := { plant with setImage := plant.setImage.map fun r => { r with kw := 500 } }
    ((island (computePeriod 0 p).1 0).residual.map fun r => decide (r ≠ 0)) = some true := by decide +kernel

theorem wit_PeriodSharesTheRemainder_others :
    setConfigured plant 2 = true ∧ islandOf plant plant.cfg.sets[(2 : SetNo)].sect = some 0
      ∧ 2 ∉ ((computePeriod 0 plant).2.roles.filter fun r => r.2 == .sharing).map Prod.fst := by decide

theorem wit_PeriodAdvancesRamps :
    (∀ st ∈ [SetState.rampIn, .rampOut],
      let p : Part := { plant with seq := plant.seq.set 0 { SeqRecord.reset with state := some st } }
      onIslandBus p 0 0 = true ∧ p.seq[(0 : SetNo)].state = some st)
    ∧ onIslandBus plant 0 2 = false ∧ plant.seq[(0 : SetNo)].state = some .onBus := by decide

theorem wit_SharePeriodStages :
    Awake plant ∧ periodDue plant 0 = none ∧ periodDue (withIsland fun r => { r with nextPeriod := some 1200 }) 0 = some 1200 := by
  decide

theorem wit_SharePeriodStages_ramps :
    (inState .rampIn).seq[(2 : SetNo)].state = some .rampIn
      ∧ (let p := inState .rampOut
        p.seq[(2 : SetNo)].state = some .rampOut ∧ setConfigured p 2 = true ∧ Room p)
      ∧ (let p := full (inState .rampOut)
        p.seq[(2 : SetNo)].state = some .rampOut ∧ 32 ≤ p.normal.length ∧ queuedFor p (.set 2) = none
          ∧ setConfigured p 2 = true)
      ∧ plant.seq[(2 : SetNo)].state = some .standby := by decide

theorem wit_SharePeriodStages_grant :
    let p := requested
    p.islands[(0 : IslandNo)].isSome = true
      ∧ (island p 0).reserve.queue = [{ consumer := 0, kw := 1, arrival := 0, deadline := some 2000 }]
      ∧ objectConfigured p (.consumer 0) = true ∧ queuedFor p (.consumer 0) = none ∧ Room p
      ∧ (p.cfg.plant.reserve : Int) ≤ (p.cfg.plant.reserve + 1 : Int) - 1
      ∧ (p.cfg.plant.reserve : Int) - 1 < p.cfg.plant.reserve := by decide

theorem wit_SharePeriodStages_shed :
    (∀ x ∈ [(ShedState.idle, (26401 : Int), true, true), (.idle, 26400, false, true), (.idle, 24000, false, false),
        (.confirming, 24000, false, false), (.confirming, 24001, false, true), (.postCheck, 26401, false, true)],
      let p := shedding x.1 none 11520 plantCfg.shedList
      (∃ r ∈ p.islands[(0 : IslandNo)], r.shed.state = x.1)
        ∧ decide (x.1 ≠ .burst ∧ x.1 ≠ .postCheck ∧ (24000 : Int) * (p.cfg.plant.fastOverload : Int) / 100 < x.2.1) = x.2.2.1
        ∧ decide ((24000 : Int) * (p.cfg.plant.overload : Int) / 100 < x.2.1) = x.2.2.2)
    ∧ plantCfg.shedList.Pairwise (fun a b => a.consumer ≠ b.consumer)
    ∧ (selectionFor (shedding .idle none 11520 plantCfg.shedList) 0 0 500).actions ≠ [] := by decide

theorem wit_PlansLayOutPulses :
    ((setA.rated * setA.deadband / 1000 = 115) ∧ ((8437 : Int) - 8552).natAbs = 115 ∧ ((8437 : Int) - 8321).natAbs = 116)
      ∧ plantCfg.plant.freqDeadband = 20 ∧ ((60000 : Int) - 59980).natAbs = 20 ∧ ((60000 : Int) - 60021).natAbs = 21 := by decide

theorem wit_PlansLayOutPulses_classes :
    (∀ x ∈ [(SetState.onBus, Mode.fixed), (.rampIn, .auto), (.rampOut, .auto)],
      let p : Part :=
        { plant with
          cfg := { plantCfg with sets := plantCfg.sets.set 0 { setA with mode := x.2 } }
          seq := plant.seq.set 0 { SeqRecord.reset with state := some x.1 }
          share := plant.share.set 0 { ramp := none, target := some 3000, pminTime := none } }
      p.share[(0 : SetNo)].target = some 3000 ∧ p.seq[(0 : SetNo)].state = some x.1 ∧ p.cfg.sets[(0 : SetNo)].mode = x.2
        ∧ p.setImage[(0 : SetNo)].fresh.state = .qualified)
    ∧ plant.share[(0 : SetNo)].target = none ∧ plant.cfg.sets[(0 : SetNo)].mode ≠ .fixed
    ∧ plant.seq[(0 : SetNo)].state = some .onBus := by decide

/-- Set 1 with a plan of which `n` sub-pulses have begun. -/
def pulsing (n : Nat) (len : Nat) : Part :=
  { plant with
    gov := plant.gov.set 0
      { GovRecord.reset with
        raise := true
        pulseEnd := some 1012
        plan :=
          { PulsePlan.none with
            origin := some 1000, cls := .shareOnly, line := .raise, lengths := Vector.replicate 4 len, delivered := n,
            inProgress := true } } }

theorem wit_SubPulses :
    (∀ n ∈ [0, 3], ∀ len ∈ [0, 12],
      let p := pulsing n len
      Awake p ∧ p.gov[(0 : SetNo)].plan.origin = some 1000 ∧ p.gov[(0 : SetNo)].plan.inProgress = true
        ∧ p.gov[(0 : SetNo)].plan.delivered < 4 ∧ p.gov[(0 : SetNo)].pulseEnd = some 1012)
    ∧ plant.gov[(0 : SetNo)].plan.origin = none ∧ plant.gov[(0 : SetNo)].pulseEnd = none
    ∧ 4 ≤ (pulsing 4 12).gov[(0 : SetNo)].plan.delivered := by decide

/-! ### Witnesses: the Reserve and Shed Units' timers -/

/-- Island A confirming a start, with the given reserve kW asked for. -/
def confirming (reserve : Nat) (auto : Bool) : Part :=
  { (withIsland fun r => { r with reserve := { r.reserve with state := .startConfirm, timer := some 2000 } }) with
    cfg := { plantCfg with plant := { plantCfg.plant with reserve := reserve, autoStart := auto } } }

theorem wit_StartConfirmEnds :
    (∀ x ∈ [((40000 : Nat), true, true), (40000, false, true), (0, true, false)],
      let p := confirming x.1 x.2.1
      let f := figuresOf (at' 2000 p) 0
      Awake p ∧ ((p.islands[(0 : IslandNo)]).map fun r => (r.reserve.state, r.reserve.timer)) = some (.startConfirm, some 2000)
        ∧ flightIn p 0 = false ∧ startNeed (at' 2000 p) 0 f.spare = x.2.2 ∧ startChoice p 0 = some 4
        ∧ islandLive p 0 = true ∧ setConfigured p 4 = true ∧ Room p)
    ∧ flightIn { confirming 0 true with inFlight := Vector.replicate 8 true } 0 = true
    ∧ startChoice { confirming 40000 true with cfg := { plantCfg with standby := [] } } 0 = none := by decide

/-- Island A waiting to stop set 2, the last of its standby order. -/
def stopConfirming (hysteresis : Nat) : Part :=
  { (withIsland fun r => { r with reserve := { r.reserve with state := .stopConfirm, timer := some 2000 } }) with
    cfg :=
      { plantCfg with
        standby := [0, 1], plant := { plantCfg.plant with reserve := 2000, stopHysteresis := hysteresis } } }

theorem wit_StopDelayEnds :
    ∀ x ∈ [((3520 : Nat), true), (3521, false)],
      let p := stopConfirming x.1
      let f := figuresOf (at' 2000 p) 0
      Awake p ∧ ((p.islands[(0 : IslandNo)]).map fun r => (r.reserve.state, r.reserve.timer)) = some (.stopConfirm, some 2000)
        ∧ stopChoice p 0 = some 1 ∧ stopCondition (at' 2000 p) 0 f.spare p.cfg.sets[(1 : SetNo)].rated = x.2 := by decide

theorem wit_HeavyDeadlinesPass :
    Awake requested ∧ requested.islands[(0 : IslandNo)].isSome = true
      ∧ (island requested 0).reserve.queue = [{ consumer := 0, kw := 1, arrival := 0, deadline := some 2000 }]
      ∧ objectConfigured requested (.consumer 0) = true ∧ queuedFor requested (.consumer 0) = none ∧ Room requested
      ∧ grantOf requested 0 = none ∧ (island plant 0).reserve.queue = [] ∧ grantIsland requested 1 = some 0
      ∧ grantOf requested 1 = some { consumer := 1, kw := 5000, hold := some 3000, serial := 0 }
      ∧ (grantOf plant 1).bind HeavyGrant.hold = none := by decide

/-- A saved phase. -/
def aPhase (st : ShedState) (arrived : Bool) : PacedPhase :=
  { state := st, remaining := 500, stepConsumer := some 0, arrived := arrived, steps := 3, exhausted := false }

theorem wit_ShedTimersEnd :
    (∀ st ∈ [ShedState.postCheck, .confirming, .settling], ∀ x ∈ [((11520 : Nat), false), (11521, true)],
      ∀ s ∈ [none, some (aPhase .stepWait true), some (aPhase .stepWait false), some (aPhase .confirming false)],
      let p := shedding st s x.1 plantCfg.shedList
      let f := figuresOf (at' 2000 p) 0
      Awake p
        ∧ ((p.islands[(0 : IslandNo)]).map fun r => (r.shed.state, r.shed.checkTimer, r.shed.pacerTimer, r.shed.saved))
          = some (st, some 2000, some 2000, s)
        ∧ decide (f.capacity * (p.cfg.plant.overload : Int) / 100 < f.projected) = x.2
        ∧ (p.cfg.shedList.find? (eligible p 0)).isSome = true)
    ∧ (shedding .settling none 11521 []).cfg.shedList.find? (eligible (shedding .settling none 11521 []) 0) = none := by decide +kernel

theorem wit_ShedTimersEnd_exhausted : ∀ b ∈ [true, false],
    let p0 := shedding .settling none 11521 []
    let p : Part := { p0 with islands := p0.islands.map (Option.map fun r => { r with shed := { r.shed with exhausted := b } }) }
    (∃ r ∈ p.islands[(0 : IslandNo)], r.shed.state = .settling ∧ r.shed.pacerTimer = some 2000 ∧ r.shed.exhausted = b)
      ∧ p.cfg.shedList.find? (eligible p 0) = none := by decide +kernel

theorem wit_ShedTimersEnd_fits :
    (shedding .postCheck none 11521 plantCfg.shedList).cfg.fits ∧ (shedding .postCheck none 11521 []).cfg.fits :=
  ⟨plantCfg_fits, plantCfg_fits.1, fun _ h => (List.not_mem_nil h).elim, plantCfg_fits.2.2.1, Nat.zero_le _, .nil, plantCfg_fits.2.2.2.2.2⟩

theorem wit_RestoreTimerEnds :
    ∀ st ∈ [RestoreState.delay, .interval],
      Awake (restoring st []) ∧ (restoring st []).islands[(0 : IslandNo)].isSome = true
        ∧ ∀ x ∈ [((14540 : Nat), true), (14541, false)],
          let p := restoring st [aRecord x.1]
          restoreCandidate p 0 = some (aRecord x.1)
            ∧ restoreHolds (at' 2000 p) 0 (figuresOf (at' 2000 p) 0) (aRecord x.1) = x.2
            ∧ (entryCfg p 0).map (fun e => stationAssigned e.station) = some true ∧ queuedFor p (.consumer 0) = none ∧ Room p := by
  decide

/-! ### Witnesses: islands and selections -/

theorem wit_TieRecordRemakesIslands :
    (∀ x ∈ [(false, true), (true, false)],
      let p : Part :=
        { plant with
          tieImage := plant.tieImage.set 0 { closed := x.1, fresh := fresh }
          tieJoins := #v[x.1, false, false, false]
          islandMap := some (islandMapOf #v[x.1, false, false, false])
          islands := if x.1 then plant.islands.set 1 none else plant.islands }
      Running p ∧ p.tieJoins = Vector.ofFn (tieJoinsNow p) ∧ tieConfigured p 0 = true
        ∧ p.tieImage[(0 : TieNo)].closed ≠ x.2 ∧ islandMapOf (p.tieJoins.set 0 x.2) ≠ islandMapOf p.tieJoins
        ∧ (∀ i : IslandNo, p.islands[i].isSome = decide ((islandMapOf p.tieJoins)[i] = i)))
    ∧ islandMapOf ((#v[true, true, true, false] : Vector Bool 4).set 3 true) = islandMapOf #v[true, true, true, false] := by decide

/-- The plant with sections A and B in one island or two, each island with a heavy queue of five, a shed context in this state
and an automatic stop under way. -/
def tied (joined : Bool) (st : ShedState) : Part :=
  { plant with
    tieImage := plant.tieImage.set 0 { closed := joined, fresh := fresh }
    tieJoins := #v[joined, false, false, false]
    islandMap := some (islandMapOf #v[joined, false, false, false])
    seq := plant.seq.set 0 { SeqRecord.reset with state := some .rampOut, origin := some .automatic }
    islands := Vector.ofFn fun i =>
      if i = 1 ∧ joined = true then none
      else some
        { Island.fresh with
          shed := { ShedContext.fresh with state := st }
          reserve :=
            { Island.fresh.reserve with
              state := .stopping, stoppingSet := some 0
              queue := List.replicate 5 { consumer := 0, kw := 1, arrival := 0, deadline := none } } } }

theorem wit_TieRecordRemakesIslands_merge : ∀ st ∈ [ShedState.idle, .burst, .settling],
    let p := tied false st
    let old : Vector IslandNo 4 := #v[0, 1, 2, 3]
    let new := islandMapOf (p.tieJoins.set 0 true)
    Running p ∧ p.mapFollows ∧ p.islandMap = some old ∧ tieConfigured p 0 = true ∧ p.tieImage[(0 : TieNo)].closed ≠ true
      ∧ new ≠ old ∧ old[(1 : IslandNo)] = 1 ∧ new[(1 : IslandNo)] = 0
      ∧ 8 < (mergeQueues (island p 0).reserve.queue (island p 1).reserve.queue).length
      ∧ (mergeQueues (island plant 0).reserve.queue (island plant 1).reserve.queue).length ≤ 8
      ∧ (island p 0).reserve.state = .stopping ∧ (island p 0).reserve.stoppingSet = some 0
      ∧ p.seq[(0 : SetNo)].state = some .rampOut ∧ p.seq[(0 : SetNo)].origin = some .automatic
      ∧ (island p 0).shed.state = st ∧ (island p 1).shed.state = st ∧ (island p 0).shed.saved = none
      ∧ islandLive (deliverRecord (.tie 0 true) p) 0 = true
      ∧ (let d : Part := { p with setImage := Vector.replicate 8 SetImage.reset }
        Running d ∧ islandLive (deliverRecord (.tie 0 true) d) 0 = false) := by
  unfold Part.mapFollows
  decide +kernel

theorem wit_TieRecordRemakesIslands_split :
    let p := tied true .idle
    let old : Vector IslandNo 4 := #v[0, 0, 2, 3]
    let new := islandMapOf (p.tieJoins.set 0 false)
    Running p ∧ p.mapFollows ∧ p.islandMap = some old ∧ p.tieImage[(0 : TieNo)].closed ≠ false ∧ new ≠ old
      ∧ old[(1 : IslandNo)] ≠ 1 ∧ new[(1 : IslandNo)] = 1 ∧ islandLive (deliverRecord (.tie 0 false) p) 0 = true
      ∧ islandLive (deliverRecord (.tie 0 false) p) 1 = false ∧ islandLive p 0 = true
      ∧ (∃ r ∈ (island p 0).reserve.queue, (entryCfg p r.consumer).map (fun e => new[e.sect]) = some 0)
      ∧ old[(2 : IslandNo)] = 2 ∧ (∀ s : SectionNo, old[s] = 2 ↔ new[s] = 2) := by
  unfold Part.mapFollows
  decide +kernel

theorem wit_SelectionWalks :
    eligible (shedPlant 9000) 0 (entryA 13 .breaker 0) = true
      ∧ (walk (shedPlant 7000) 0 10280 (shedPlant 7000).cfg.shedList 0).2 < 10280
      ∧ ((walk (shedPlant 9000) 0 9280 (shedPlant 9000).cfg.shedList 0).1.getLast?.map ShedAction.means) = some (.limit 5220) := by
  decide

/-! ### Witnesses: the supervisor line -/

theorem wit_RequestsReadBack :
    (Request.writeSet 1#8 2047#16 (1#32 :: List.replicate 10 0#32)).wf = true
      ∧ (Request.writeStandbyOrder (List.replicate 247 1#8)).wf = true
      ∧ (Request.writePlant 0#64 (List.replicate 34 0#32)).wf = true
      ∧ (Request.placeConsumer 48#8 255#8 true (4#32 :: List.replicate 8 0#32)).wf = true := by decide +kernel

theorem wit_SupervisorFrameIsItsRequest :
    Awake plant ∧ (List.replicate 248 (0#8 : Byte)).length ≤ 248 ∧ supervisorHeaderGood [90#8, 1#8, 254#8] = false
      ∧ sumHolds [90#8, 2#8, 253#8, 1#8, 1#8, 1#8, 92#8] = false := by decide +kernel

theorem wit_RequestsAreAcceptedInOrder :
    (plant.requests.length < 4 ∧ plant.restarting = none) ∧ parseRequest 25#8 [] = none
      ∧ (∃ r, parseRequest 24#8 [] = some r ∧ storeGuarded r = true) ∧ saving.store.saving.isSome = true
      ∧ saving.requests.length < 4 ∧ { plant with restarting := some 0 }.restarting.isSome = true
      ∧ (∀ n ∈ [0, 3], 4 ≤ (crowded n).requests.length ∧ (crowded n).busyList.length < 4 ∧ (crowded n).restarting = none)
      ∧ 4 ≤ (crowded 4).busyList.length :=
  ⟨by decide, by decide, ⟨.restart, by decide⟩, by decide, by decide, by decide, by decide, by decide⟩

theorem wit_SupervisorFrameSent :
    Awake plant ∧ plant.supTx = none ∧ plant.restarting ≠ some 0
      ∧ { plant with supTx := some { what := .reply 0, frame := [] }, restarting := some 0 }.restarting = some 0 := by decide

theorem wit_ReadsAnswer :
    Free plant ∧ (∀ k : SetNo, (byteOf (k.val + 1)).toNat = k.val + 1) ∧ 8 < (9#8).toNat
      ∧ (entryCfg plant 0).isSome = true ∧ entryCfg plant 47 = none ∧ islandOf plant 3 = some 3
      ∧ islandOf acquiring 0 = none
      ∧ (let s : Selection := { set := 7, deficit := 0, actions := [], covered := 0, insufficient := false }
        (island (withIsland fun r => { r with table := [s] }) 0).table.find? (fun s => s.set == 7) = some s)
      ∧ (island plant 0).table.find? (fun s => s.set == 7) = none := by decide

/-! ### Witnesses: writes and edits -/

theorem wit_WriteSetTakesEffect :
    Free plant ∧ plant.store.saving = none ∧ fieldsDefined setForms (4#32 :: List.replicate 8 0#32 ++ [2#32, 0#32]) = true
      ∧ (∀ k : SetNo, (byteOf (k.val + 1)).toNat = k.val + 1) ∧ (0#8).toNat = 0 ∧ 8 < (9#8).toNat
      ∧ setConfigured plant 0 = true ∧ plant.phase = .run ∧ plant.setImage[(0 : SetNo)].closed = true
      ∧ plant.cfg.sets[(0 : SetNo)].sect ≠ 3 ∧ plant.setImage[(2 : SetNo)].closed = false
      ∧ plant.seq[(2 : SetNo)].state = some .standby := by decide

theorem wit_WriteSetTakesEffect_station :
    let none0 : Part := { plant with cfg := { plantCfg with sets := plantCfg.sets.set 2 { setA with station := 0 } } }
    let write (n : Nat) : Masked := { mask := 1024, fields := List.replicate 10 1#32 ++ [BitVec.ofNat 32 n] }
    (written (write 12) 10 0 62 11 = 12 ∧ written (write 0) 10 0 62 11 = 0 ∧ beyond (write 63) 10 0 62 ∧ ¬beyond (write 62) 10 0 62)
      ∧ fieldsDefined setForms (write 12).fields = true
      ∧ stationAssigned 11 = true ∧ stationAssigned 12 = true ∧ stationAssigned 0 = false
      ∧ (Free none0 ∧ none0.store.saving = none ∧ setConfigured none0 2 = false ∧ none0.phase = .run)
      ∧ (∃ tx ∈ (sending (.set 2 .start)).fieldTx, tx.order.body.object = .set 2)
      ∧ chosen { mask := 512, fields := List.replicate 9 1#32 ++ [2#32] } 9
          (fun c => if c = 0 then Mode.auto else if c = 1 then .fixed else .localRun) .auto = .localRun := by decide

theorem wit_WriteSetTakesEffect_fits : plant.cfg.fits := plantCfg_fits

theorem wit_WriteConsumerTakesEffect :
    Free plant ∧ plant.store.saving = none ∧ fieldsDefined consumerForms (4#32 :: List.replicate 9 1#32) = true
      ∧ (1#8).toNat = (0 : ConsumerNo).val + 1 ∧ (entryCfg plant 0).isSome = true ∧ entryCfg plant 47 = none
      ∧ (entryCfg plant 0).map EntryConfig.kind = some .breaker ∧ ShedRuns (shedding .settling none 0 plantCfg.shedList) 0
      ∧ ¬ShedRuns plant 0 ∧ ¬OrderRuns plant 0 ∧ OrderRuns (withEntry .restorePending none) 0
      ∧ (withEntry .shed none).entry[(0 : ConsumerNo)].state = some .shed ∧ ¬OrderRuns (withEntry .shed none) 0 := by decide

theorem wit_WriteConsumerTakesEffect_station :
    let none0 : Part := { plant with cfg := { plantCfg with shedList := [{ entryA 0 .breaker 0 with station := 0 }] } }
    let write (n : Nat) : Masked := { mask := 256, fields := List.replicate 8 1#32 ++ [BitVec.ofNat 32 n, 0#32] }
    (written (write 12) 8 0 62 31 = 12 ∧ written (write 0) 8 0 62 31 = 0 ∧ beyond (write 63) 8 0 62 ∧ ¬beyond (write 62) 8 0 62)
      ∧ fieldsDefined consumerForms (write 12).fields = true
      ∧ stationAssigned 31 = true ∧ stationAssigned 12 = true
      ∧ (Free none0 ∧ (entryCfg none0 0).map EntryConfig.station = some 0 ∧ none0.phase = .run)
      ∧ queueIsland requested 0 = some 0 ∧ grantIsland requested 1 = some 0 := by decide

theorem wit_WriteConsumerTakesEffect_moves :
    let p := restoring .idle [aRecord 500]
    Free p ∧ p.store.saving = none ∧ ¬ShedRuns p 0 ∧ ¬ShedRuns p 3 ∧ ¬OrderRuns p 0
      ∧ chosen { mask := 1, fields := [4#32] } 0 (fun c => (Fin.ofNat 4 (c - 1) : SectionNo)) 0 = 3
      ∧ islandOf p 0 = some 0 ∧ islandOf p 3 = some 3 ∧ p.islands[(3 : IslandNo)].isSome = true
      ∧ (island p 0).history.find? (fun g => g.consumer == 0) = some (aRecord 500) := by decide

theorem wit_WritePlantTakesEffect :
    Free plant ∧ plant.store.saving = none ∧ fieldsDefined plantForms (List.replicate 34 1#32) = true := by decide

theorem wit_WritePlantTakesEffect_clamped :
    let value (n : Nat) : Masked := { mask := 2, fields := [0#32, BitVec.ofNat 32 n] }
    beyond (value 79) 1 80 120 ∧ beyond (value 121) 1 80 120 ∧ ¬beyond (value 80) 1 80 120 ∧ ¬beyond (value 120) 1 80 120
      ∧ (tieConfigured plant 0 = true ∧ tieConfigured plant 1 = false)
      ∧ (meterConfigured plant 0 = true ∧ meterConfigured plant 1 = false) := by decide

theorem wit_ShedListEdits :
    Free plant ∧ plant.store.saving = none ∧ fieldsDefined placeForms (4#32 :: List.replicate 8 1#32) = true
      ∧ (48#8).toNat = (47 : ConsumerNo).val + 1 ∧ entryCfg plant 47 = none ∧ (entryCfg plant 0).isSome = true
      ∧ 48 ≤ { plantCfg with shedList := List.replicate 48 (entryA 0 .breaker 0) }.shedList.length
      ∧ plant.cfg.shedList.length < 48 ∧ ¬ShedRuns plant 3 ∧ ¬(ShedRuns plant 0 ∨ OrderRuns plant 0)
      ∧ ShedRuns (shedding .burst none 0 plantCfg.shedList) 0 ∧ OrderRuns (withEntry .shedPending none) 0 := by decide

theorem wit_ShedListEdits_positions :
    (0#8).toNat = 0 ∧ 48 < (49#8).toNat ∧ plant.cfg.shedList.length + 1 < (4#8).toNat
      ∧ ¬plant.cfg.shedList.length + 1 < (3#8).toNat ∧ plant.cfg.shedList.length < (3#8).toNat
      ∧ ¬plant.cfg.shedList.length < (2#8).toNat
      ∧ (let m : Masked := { mask := 511, fields := List.replicate 8 1#32 ++ [63#32] }
        beyond m 8 0 62 ∧ written m 8 0 62 0 = 62 ∧ stationAssigned 62 = true)
      ∧ written { mask := 511, fields := List.replicate 8 1#32 ++ [0#32] } 8 0 62 0 = 0 := by decide

theorem requested_heavyApart : requested.heavyApart := by
  intro i r h
  have hq : ∀ j : IslandNo, ∀ x ∈ requested.islands[j],
      x.reserve.consumers.Nodup ∧ ∀ c ∈ x.reserve.consumers, entryIsland requested c = some j := by decide
  exact hq i r h

theorem wit_StandbyOrderTakesEffect :
    Free plant ∧ plant.store.saving = none ∧ [1#8, 2#8, 3#8, 4#8, 5#8, 6#8, 7#8, (8#8 : Byte)].Nodup
      ∧ (∀ n ∈ [1#8, (8#8 : Byte)], 1 ≤ n.toNat ∧ n.toNat ≤ 8) ∧ ¬[8#8, (8#8 : Byte)].Nodup
      ∧ ∃ n ∈ [(9#8 : Byte)], n.toNat = 0 ∨ 8 < n.toNat := by decide

/-! ### Witnesses: commands, events and the store -/

theorem wit_SetCommandsAct :
    (∀ st ∈ allStates, Free (inState st) ∧ (3#8).toNat = (2 : SetNo).val + 1 ∧ setConfigured (inState st) 2 = true
      ∧ (inState st).phase = .run ∧ (inState st).seq[(2 : SetNo)].state = some st ∧ Room (inState st)
      ∧ (inState st).cfg.sets[(2 : SetNo)].mode ≠ .localRun ∧ (setIsland (inState st) 2).isSome = true
      ∧ (inState st).setImage[(2 : SetNo)].trip = false ∧ (inState st).store.saving = none)
    ∧ setConfigured bare 0 = false
    ∧ (let p : Part := { inState .localRun with cfg := { plantCfg with sets := Vector.replicate 8 { setA with mode := .localRun } } }
      Free p ∧ setConfigured p 2 = true ∧ p.cfg.sets[(2 : SetNo)].mode = .localRun)
    ∧ (let p : Part := { inState .tripped with setImage := Vector.replicate 8 { SetImage.reset with trip := true } }
      Free p ∧ p.setImage[(2 : SetNo)].trip = true) := by decide

theorem wit_SetCommandsAct_acquire :
    (Free acquiring ∧ setConfigured acquiring 2 = true ∧ acquiring.phase = .acquire
      ∧ acquiring.seq[(2 : SetNo)].state = none ∧ acquiring.store.saving = none)
    ∧ (let p := full (inState .standby)
      Free p ∧ p.seq[(2 : SetNo)].state = some .standby ∧ p.cfg.sets[(2 : SetNo)].mode ≠ .localRun
        ∧ 32 ≤ p.normal.length ∧ queuedFor p (.set 2) = none)
    ∧ ∀ m ∈ [0#8, 1#8, (2#8 : Byte)], m.toNat ≤ 2 := by decide

theorem wit_SetCommandsAct_stop :
    ∀ x ∈ [((12760 : Int), true), (12761, false)],
      let p : Part :=
        { (withIsland fun r =>
            { r with figures := some { load := x.1, projected := x.1, capacity := 24280, heavy := 0, spare := 0 } }) with
          seq := (inState .onBus).seq }
      let f := lastFigures p ((setIsland p 2).getD 0)
      decide (f.projected ≤ f.capacity - (p.cfg.sets[(2 : SetNo)].rated : Int)) = x.2 := by decide

theorem wit_ConsumerCommandsAct :
    (∀ st ∈ [EntryState.connected, .shed, .openExternal], let p := withEntry st none
      Free p ∧ (1#8).toNat = (0 : ConsumerNo).val + 1 ∧ (entryCfg p 0).map (fun e => stationAssigned e.station) = some true
        ∧ p.phase = .run ∧ p.entry[(0 : ConsumerNo)].state = some st ∧ queuedFor p (.consumer 0) = none ∧ Room p)
    ∧ entryCfg plant 47 = none ∧ (Free acquiring ∧ acquiring.phase = .acquire ∧ (entryCfg acquiring 0).isSome = true)
    ∧ (let p : Part := { plant with cfg := { plantCfg with shedList := [{ entryA 0 .breaker 0 with station := 0 }] } }
      Free p ∧ (entryCfg p 0).map (fun e => stationAssigned e.station) = some false)
    ∧ hasRecord plant 0 = false ∧ hasRecord (restoring .held [aRecord 0]) 0 = true
    ∧ islandOf plant 0 = some 0 ∧ islandOf acquiring 0 = none
    ∧ (island (restoring .held []) 0).restore.state = .held ∧ (island plant 0).restore.state ≠ .held := by decide

theorem wit_EventsAreFlaggedAndReported :
    plant.cfg.enable.getLsbD EventKind.setLoss.index = true
      ∧ { plantCfg with enable := 0#26 }.enable.getLsbD EventKind.setLoss.index = false
      ∧ (let p : Part := { plant with reports := [aReport] }
        ∃ r ∈ p.reports, r.kind = .setLoss ∧ r.object = .set 7)
      ∧ (∀ n ∈ [31, 32], ∀ r ∈ { plant with reports := List.replicate n aReport }.reports, ¬(r.kind = .setLoss ∧ r.object = .set 6))
      ∧ Free plant ∧ plant.store.saving = none ∧ plant.allowance + (255#8).toNat ≤ 255
      ∧ 255 < { plant with allowance := 1 }.allowance + (255#8).toNat := by decide

theorem wit_SaveAndRestart :
    Free plant ∧ plant.store.saving = none ∧ Awake saving
      ∧ saving.requests.find? (fun q => q.serial == 3)
        = some { serial := 3, kind := 23#8, tag := 7#8, payload := [], condition := some .inService }
      ∧ { saving with clock := 1700 }.clock ≤ 900 + 800 ∧ 900 + 800 < { saving with clock := 1701 }.clock := by decide

/-! ### Witnesses: invariants -/

theorem wit_StepKeepsLinesSafe : plant.linesSafe := by
  unfold Part.linesSafe GovRecord.oneLine
  decide

theorem wit_StepKeepsOrdersFit : { plant with normal := List.replicate 1 anOrder }.ordersFit := by
  unfold Part.ordersFit
  decide

theorem wit_StepKeepsQueuesFit : requested.queuesFit := by
  intro i r h
  have hq : ∀ j : IslandNo, ∀ x ∈ requested.islands[j], queueFits x.reserve.queue := by
    unfold queueFits
    decide
  exact hq i r h

/-- The plant with a state for its two entries alone, consumer 1 SHED with a record, and a request and a grant of island A. -/
def tidy : Part :=
  { (withIsland fun r =>
      { r with
        history := [aRecord 500]
        reserve :=
          { r.reserve with
            queue := [{ consumer := 0, kw := 1, arrival := 0, deadline := some 2000 }]
            grants := [{ consumer := 1, kw := 5000, hold := some 3000, serial := 0 }] } }) with
    entry :=
      ((Vector.replicate 48 EntryRecord.reset).set 0 { EntryRecord.reset with state := some .shed }).set 1
        { EntryRecord.reset with state := some .connected } }

theorem wit_StepKeepsQueuesFit_apart : tidy.mapFollows ∧ tidy.configFits ∧ tidy.heavyApart ∧ tidy.entriesExist := by
  refine ⟨?_, ⟨plantCfg_fits, ?_⟩, ?_, ?_⟩
  · unfold Part.mapFollows
    decide
  · unfold Configuration.fits SetConfig.fits EntryConfig.fits PlantConfig.fits
    decide
  · intro i r h
    have hq : ∀ j : IslandNo, ∀ x ∈ tidy.islands[j],
        x.reserve.consumers.Nodup ∧ ∀ c ∈ x.reserve.consumers, entryIsland tidy c = some j := by decide
    exact hq i r h
  · unfold Part.entriesExist
    decide

theorem wit_StepKeepsQueuesFit_histories : tidy.historiesFit := by
  intro i r h
  have hq : ∀ j : IslandNo, ∀ x ∈ tidy.islands[j],
      (x.history.map HistoryRecord.consumer).Nodup ∧ x.history.Pairwise (fun a b => b.time ≤ a.time)
      ∧ ∀ g ∈ x.history, g.time ≤ tidy.clock ∧ entryIsland tidy g.consumer = some j
        ∧ (tidy.entry[g.consumer].state = some .shed ∨ tidy.entry[g.consumer].state = some .restorePending) := by decide
  exact hq i r h

theorem wit_StepKeepsSupervisorFits : { crowded 4 with reports := [aReport], allowance := 255 }.supervisorFits := by
  unfold Part.supervisorFits
  decide

theorem wit_StepKeepsConfigFits : saved.configFits := ⟨plantCfg_fits, plantCfg_fits⟩

theorem wit_StepKeepsMapFollows : plant.mapFollows := by
  unfold Part.mapFollows
  decide

theorem wit_StepKeepsStatesExist : (timed .starting .start true).statesExist := by
  unfold Part.statesExist
  decide

theorem wit_StepKeeps_step : ∃ t, step { part := plant, pending := [.saveTimeout] } = .next t := ⟨_, rfl⟩

end Sys2Proof.Tests
end

section
/-! The island map (R12). Following `ringJoined` round the ring, one way or the other, finds exactly the sections that a
chain of joining ties reaches, and the first of these in letter order names the island. -/

namespace Sys2Proof.Proofs

open Sys2Proof.Machine

/-! ### Ties that join -/

theorem stationAssigned_iff (a : Nat) : stationAssigned a = true ↔ 1 ≤ a ∧ a ≤ 62 := by
  simp only [stationAssigned, Bool.and_eq_true, decide_eq_true_eq]
  rfl

theorem tieJoinsNow_iff (p : Part) (t : TieNo) : tieJoinsNow p t = true ↔
    p.cfg.plant.tiePresent[t] = true ∧ 1 ≤ p.cfg.plant.tieStation[t] ∧ p.cfg.plant.tieStation[t] ≤ 62
      ∧ p.tieImage[t].closed = true := by
  simp only [tieJoinsNow, tieConfigured, Bool.and_eq_true, stationAssigned_iff, and_assoc]

/-- One joining tie leads from a section to another: tie t joins section t and the next of the ring (R12). -/
def TieLeads (joins : Vector Bool 4) (s u : SectionNo) : Prop :=
  ∃ t : TieNo, joins[t] = true ∧ (s = t ∧ u = t + 1 ∨ s = t + 1 ∧ u = t)

/-- A chain of joining ties leads from a section to another (R12). -/
abbrev Chained (joins : Vector Bool 4) : SectionNo → SectionNo → Prop := Relation.ReflTransGen (TieLeads joins)

section

variable {joins : Vector Bool 4} {s t u : SectionNo}

theorem tieLeads_succ (h : joins[t] = true) : TieLeads joins t (t + 1) := ⟨t, h, .inl ⟨rfl, rfl⟩⟩

theorem TieLeads.symm (h : TieLeads joins s u) : TieLeads joins u s := by
  obtain ⟨t, ht, ⟨hs, hu⟩ | ⟨hs, hu⟩⟩ := h
  · exact ⟨t, ht, .inr ⟨hu, hs⟩⟩
  · exact ⟨t, ht, .inl ⟨hu, hs⟩⟩

theorem Chained.symm (h : Chained joins s u) : Chained joins u s := by
  induction h with
  | refl => exact .refl
  | tail _ hstep ih => exact .head hstep.symm ih

/-! ### One way round the ring -/

theorem ringJoined_succ (n : Nat) :
    ringJoined joins s (n + 1) = true ↔ joins[s] = true ∧ ringJoined joins (s + 1) n = true := by
  simp only [ringJoined, Bool.and_eq_true]

theorem succ_add_ofNat (s : SectionNo) (n : Nat) : s + 1 + Fin.ofNat 4 n = s + Fin.ofNat 4 (n + 1) := by
  ext
  simp [Fin.val_add]
  omega

theorem add_ofNat_sub (s t : SectionNo) : s + Fin.ofNat 4 (t - s).val = t := by
  decide +revert

theorem succ_sub_val (s t : SectionNo) (h : t + 1 ≠ s) : (t + 1 - s).val = (t - s).val + 1 := by
  decide +revert

theorem sub_val (s t : SectionNo) (h : t ≠ s) : (s - t).val = (s - (t + 1)).val + 1 := by
  decide +revert

/-- The way onwards, taken apart at its last tie. -/
theorem ringJoined_succ_last (n : Nat) (s : SectionNo) :
    ringJoined joins s (n + 1) = true ↔ ringJoined joins s n = true ∧ joins[s + Fin.ofNat 4 n] = true := by
  induction n generalizing s with
  | zero => simp [ringJoined]
  | succ n ih => rw [ringJoined_succ, ih, ringJoined_succ, and_assoc]; simp only [succ_add_ofNat]

theorem chained_of_ringJoined (n : Nat) (s : SectionNo) (h : ringJoined joins s n = true) :
    Chained joins s (s + Fin.ofNat 4 n) := by
  induction n generalizing s with
  | zero => simpa using Relation.ReflTransGen.refl
  | succ n ih =>
    obtain ⟨hs, hrest⟩ := (ringJoined_succ n).mp h
    exact succ_add_ofNat s n ▸ (ih (s + 1) hrest).head (tieLeads_succ hs)

theorem chained_of_ringJoined_sub (h : ringJoined joins s (t - s).val = true) : Chained joins s t := by
  simpa only [add_ofNat_sub] using chained_of_ringJoined _ s h

/-- The way onwards from `s` to the section after `t` is the way to `t` and then tie `t`. -/
theorem ringJoined_to_succ (h : t + 1 ≠ s) :
    ringJoined joins s (t + 1 - s).val = true ↔ ringJoined joins s (t - s).val = true ∧ joins[t] = true := by
  rw [succ_sub_val s t h, ringJoined_succ_last]
  simp only [add_ofNat_sub]

/-- The way onwards from `t` to `s` is tie `t` and then the way from the section after `t`. -/
theorem ringJoined_from (h : t ≠ s) :
    ringJoined joins t (s - t).val = true ↔ joins[t] = true ∧ ringJoined joins (t + 1) (s - (t + 1)).val = true := by
  rw [sub_val s t h, ringJoined_succ]

/-! ### Both ways round the ring -/

theorem sectionsJoined_iff : sectionsJoined joins s t = true ↔
    ringJoined joins s (t - s).val = true ∨ ringJoined joins t (s - t).val = true := by
  simp only [sectionsJoined, Bool.or_eq_true]

theorem sectionsJoined_comm : sectionsJoined joins s t = true ↔ sectionsJoined joins t s = true := by
  rw [sectionsJoined_iff, sectionsJoined_iff, or_comm]

theorem sectionsJoined_refl (s : SectionNo) : sectionsJoined joins s s = true := by
  simp [sectionsJoined_iff, ringJoined]

theorem sectionsJoined_tie (ht : joins[t] = true) : sectionsJoined joins t (t + 1) = true :=
  sectionsJoined_iff.mpr (.inl ((ringJoined_to_succ (by decide +revert)).mpr ⟨by simp [ringJoined], ht⟩))

/-- The two ends of a joining tie are joined to the same sections: of the two ways between such a section and the tie, one
runs through the tie and the other does not. -/
theorem sectionsJoined_succ_iff (ht : joins[t] = true) :
    sectionsJoined joins s (t + 1) = true ↔ sectionsJoined joins s t = true := by
  by_cases hfirst : t = s
  · subst hfirst
    simp only [sectionsJoined_tie ht, sectionsJoined_refl]
  by_cases hlast : t + 1 = s
  · subst hlast
    simp only [sectionsJoined_refl, sectionsJoined_comm.mp (sectionsJoined_tie ht)]
  · simp only [sectionsJoined_iff, ringJoined_to_succ hlast, ringJoined_from hfirst, ht, true_and, and_true]

theorem sectionsJoined_iff_chained : sectionsJoined joins s u = true ↔ Chained joins s u := by
  constructor
  · intro h
    rcases sectionsJoined_iff.mp h with hfrom | hto
    · exact chained_of_ringJoined_sub hfrom
    · exact (chained_of_ringJoined_sub hto).symm
  · intro h
    induction h with
    | refl => exact sectionsJoined_refl s
    | tail _ hstep ih =>
      obtain ⟨t, ht, ⟨rfl, rfl⟩ | ⟨rfl, rfl⟩⟩ := hstep
      · exact (sectionsJoined_succ_iff ht).mpr ih
      · exact (sectionsJoined_succ_iff ht).mp ih

/-! ### Names of islands -/

theorem mem_allSections (s : SectionNo) : s ∈ allSections := by
  decide +revert

theorem allSections_sorted : allSections.Pairwise (· ≤ ·) := by
  decide

/-- The search for an island's name ends, at the latest at the section itself. -/
theorem find?_sectionsJoined (joins : Vector Bool 4) (s : SectionNo) :
    allSections.find? (sectionsJoined joins s) = some (islandName joins s) := by
  obtain ⟨name, hname⟩ := Option.isSome_iff_exists.mp
    (List.find?_isSome.mpr ⟨s, mem_allSections s, sectionsJoined_refl (joins := joins) s⟩)
  rw [islandName, hname, Option.getD_some]

theorem chained_islandName (joins : Vector Bool 4) (s : SectionNo) : Chained joins s (islandName joins s) :=
  sectionsJoined_iff_chained.mp (List.find?_some (find?_sectionsJoined joins s))

theorem islandName_le (h : Chained joins s u) : islandName joins s ≤ u := by
  obtain ⟨-, before, after, hsplit, hbefore⟩ := List.find?_eq_some_iff_append.mp (find?_sectionsJoined joins s)
  have hjoined : sectionsJoined joins s u = true := sectionsJoined_iff_chained.mpr h
  obtain ⟨-, hsorted, -⟩ := List.pairwise_append.mp (hsplit ▸ allSections_sorted)
  rcases List.mem_append.mp (hsplit ▸ mem_allSections u) with hu | hu
  · exact absurd hjoined (by simpa using hbefore u hu)
  · rcases List.mem_cons.mp hu with rfl | hu
    · exact le_rfl
    · exact List.rel_of_pairwise_cons hsorted hu

theorem islandName_eq_iff : islandName joins s = islandName joins u ↔ Chained joins s u := by
  constructor
  · intro h
    exact (chained_islandName joins s).trans (h ▸ (chained_islandName joins u).symm)
  · intro h
    exact le_antisymm (islandName_le (h.trans (chained_islandName joins u)))
      (islandName_le (h.symm.trans (chained_islandName joins s)))

theorem islandMapOf_getElem (joins : Vector Bool 4) (s : SectionNo) : (islandMapOf joins)[s] = islandName joins s := by
  simp [islandMapOf]

end

/-- Settles O36: the ways round the ring are the chains of joining ties, and a chain's first section names its island. -/
theorem islandsAreChainsOfTies : Obligations.IslandsAreChainsOfTies := by
  refine ⟨tieJoinsNow_iff, fun joins => ?_⟩
  simp only [islandMapOf_getElem]
  refine ⟨fun s u => islandName_eq_iff, fun s => ?_, fun s u h => ?_⟩
  · exact islandName_eq_iff.mpr (chained_islandName joins s).symm
  · exact islandName_le (islandName_eq_iff.mp h.symm)

end Sys2Proof.Proofs
end

section
/-! Pulse plans (R87 to R91, R93): the two terms, the net pulse and its line, the four sub-pulse lengths, and the class
that says which terms a set's plan is made of. -/

namespace Sys2Proof.Proofs

open Sys2Proof.Machine

/-! ### Magnitudes with the sign of a deviation -/

theorem signed_eq_sign_mul {d : Int} (hd : d ≠ 0) (m : Nat) : signed (d < 0) m = d.sign * m := by
  unfold signed
  rcases lt_or_gt_of_ne hd with hneg | hpos
  · simp [hneg, Int.sign_eq_neg_one_of_neg hneg]
  · simp [not_lt.mpr hpos.le, Int.sign_eq_one_of_pos hpos]

@[simp] theorem natAbs_signed (negative : Bool) (m : Nat) : (signed negative m).natAbs = m := by
  cases negative <;> simp [signed]

/-! ### The share and trim terms (R89, R90) -/

section

variable {target measured : Nat}

theorem shareTermOf_inside (c : SetConfig) (h : ((target : Int) - measured).natAbs ≤ deadbandKw c) :
    shareTermOf c target measured = 0 := if_pos h

theorem shareTermOf_beyond (c : SetConfig) (h : deadbandKw c < ((target : Int) - measured).natAbs) :
    shareTermOf c target measured = ((target : Int) - measured).sign
      * (((target : Int) - measured).natAbs * 1000 / c.rated * c.gain / 16 : Nat) :=
  (if_neg (not_le.mpr h)).trans (signed_eq_sign_mul (Int.natAbs_pos.mp (Nat.zero_lt_of_lt h)) _)

end

section

variable {f : Nat}

theorem trimTermOf_inside (c : PlantConfig) (h : ((c.nominal : Int) - f).natAbs ≤ c.freqDeadband) :
    trimTermOf c (some f) = 0 := if_pos h

theorem trimTermOf_beyond (c : PlantConfig) (h : c.freqDeadband < ((c.nominal : Int) - f).natAbs) :
    trimTermOf c (some f) = ((c.nominal : Int) - f).sign
      * (min c.trimMax (((c.nominal : Int) - f).natAbs * c.trimGain / 64) : Nat) :=
  (if_neg (not_le.mpr h)).trans (signed_eq_sign_mul (Int.natAbs_pos.mp (Nat.zero_lt_of_lt h)) _)

theorem natAbs_trimTermOf_le (c : PlantConfig) (f : Nat) : (trimTermOf c (some f)).natAbs ≤ c.trimMax := by
  unfold trimTermOf
  dsimp only
  split
  case isTrue => exact Nat.zero_le _
  case isFalse => exact (natAbs_signed _ _).le.trans (min_le_left _ _)

end

/-! ### The net pulse (R91) -/

theorem netPulse_eq_clamp (q : Int) : netPulse q = max (-192) (min 192 q) := by
  unfold netPulse signed Config.pulseMax
  rcases lt_or_ge q 0 with hneg | hpos
  · simp only [hneg, decide_true, if_true]
    omega
  · simp only [not_lt.mpr hpos, decide_false, Bool.false_eq_true, if_false]
    omega

theorem natAbs_netPulse_le (q : Int) : (netPulse q).natAbs ≤ 192 :=
  (natAbs_signed _ _).le.trans (min_le_left _ _)

theorem pulseSaturated_eq (q : Int) : pulseSaturated q = decide (q < -192 ∨ 192 < q) := by
  unfold pulseSaturated Config.pulseMax
  exact decide_eq_decide.mpr (by omega)

/-! ### The four sub-pulses (R93) -/

/-- The quarters of a magnitude with the remainder given to the first sub-pulses: each is the magnitude, with 3, 2, 1 or 0
added, over 4. -/
theorem toList_pulseLengths (m : Nat) :
    (pulseLengths m).toList = [(m + 3) / 4, (m + 2) / 4, (m + 1) / 4, m / 4] := by
  have hquarter (j : Nat) (hj : j < 4) : (if j < m % 4 then m / 4 + 1 else m / 4) = (m + (3 - j)) / 4 := by
    split <;> omega
  simp [pulseLengths, hquarter]

theorem sum_pulseLengths (m : Nat) : (pulseLengths m).toList.sum = m := by
  simp only [toList_pulseLengths, List.sum_cons, List.sum_nil]
  omega

theorem pairwise_pulseLengths (m : Nat) : (pulseLengths m).toList.Pairwise fun a b => b ≤ a ∧ a ≤ b + 1 := by
  simp only [toList_pulseLengths, List.pairwise_cons, List.forall_mem_cons, List.Pairwise.nil, List.not_mem_nil,
    false_imp_iff, implies_true, and_true]
  omega

theorem pulseLengths_le {m n : Nat} (h : m ≤ 4 * n) : ∀ l ∈ (pulseLengths m).toList, l ≤ n := by
  simp only [toList_pulseLengths, List.forall_mem_cons, List.not_mem_nil, false_imp_iff, implies_true, and_true]
  omega

/-! ### The class of a set's plan (R88) -/

/-- The state, mode and record that class SHARE_ONLY asks of a set of role fixed, beside its target (R88). -/
def FixedPlanned (p : Part) (k : SetNo) : Prop :=
  (p.seq[k].state = some .onBus ∧ p.cfg.sets[k].mode = .fixed ∨ p.seq[k].state = some .rampIn
    ∨ p.seq[k].state = some .rampOut) ∧ p.setImage[k].fresh.state = .qualified

section

variable {p : Part} {k : SetNo} {role : ShareRole}

theorem planClass_sharing (ht : p.share[k].target.isSome) : planClass p k .sharing = .shareAndTrim := if_pos ht

theorem planClass_fixed (h : FixedPlanned p k) (ht : p.share[k].target.isSome) : planClass p k .fixed = .shareOnly := by
  obtain ⟨hasked, hfresh⟩ := h
  refine if_pos ?_
  simpa only [setCfg, Bool.and_eq_true, Bool.or_eq_true, beq_iff_eq, or_assoc] using ⟨⟨hasked, hfresh⟩, ht⟩

theorem planClass_not_fixed (h : ¬ FixedPlanned p k) : planClass p k .fixed = .noPulse := by
  refine if_neg fun hclass => h ?_
  simp only [setCfg, Bool.and_eq_true, Bool.or_eq_true, beq_iff_eq, or_assoc] at hclass
  exact hclass.1

theorem planClass_noTarget (h : p.share[k].target = none) : planClass p k role = .noPulse := by
  cases role with
  | sharing => exact if_neg (by simp only [h, Option.isSome_none, Bool.false_eq_true, not_false_eq_true])
  | fixed => exact if_neg (by simp only [h, Option.isSome_none, Bool.and_false, Bool.false_eq_true, not_false_eq_true])

theorem planFor_shareAndTrim (origin : Nat) (freq : Option Nat) {t : Nat} (ht : p.share[k].target = some t)
    (hcls : planClass p k role = .shareAndTrim) :
    planFor p origin freq k role =
      planOf origin .shareAndTrim (shareTermOf p.cfg.sets[k] t p.setImage[k].kw) (trimTermOf p.cfg.plant freq) := by
  simp only [planFor, hcls, ht, Option.getD_some, setCfg]

theorem planFor_shareOnly (origin : Nat) (freq : Option Nat) {t : Nat} (ht : p.share[k].target = some t)
    (hcls : planClass p k role = .shareOnly) :
    planFor p origin freq k role = planOf origin .shareOnly (shareTermOf p.cfg.sets[k] t p.setImage[k].kw) 0 := by
  simp only [planFor, hcls, ht, Option.getD_some, setCfg]

theorem planFor_noPulse (origin : Nat) (freq : Option Nat) (hcls : planClass p k role = .noPulse) :
    planFor p origin freq k role = planOf origin .noPulse 0 0 := by
  simp only [planFor, hcls]

end

/-- Settles O29: the terms with the sign of their deviation, the net pulse and its quarters, and a plan for each class. -/
theorem plansLayOutPulses : Obligations.PlansLayOutPulses := by
  refine ⟨fun c target measured => ⟨shareTermOf_inside c, shareTermOf_beyond c⟩,
    fun c f => ⟨rfl, trimTermOf_inside c, trimTermOf_beyond c, natAbs_trimTermOf_le c f⟩,
    fun origin cls qs qf => ?layout, fun p origin freq k role => ⟨?sharing, ?fixed, ?neither⟩⟩
  case layout =>
    exact ⟨netPulse_eq_clamp _, pulseSaturated_eq _, rfl, sum_pulseLengths _, pairwise_pulseLengths _,
      pulseLengths_le (natAbs_netPulse_le _), rfl, rfl, rfl⟩
  case sharing =>
    rintro t ht rfl
    exact planFor_shareAndTrim origin freq ht (planClass_sharing (Option.isSome_of_eq_some ht))
  case fixed =>
    rintro t ht rfl hasked hfresh
    exact planFor_shareOnly origin freq ht (planClass_fixed ⟨hasked, hfresh⟩ (Option.isSome_of_eq_some ht))
  case neither =>
    rintro (hnone | ⟨rfl, hnot⟩)
    · exact planFor_noPulse origin freq (planClass_noTarget hnone)
    · exact planFor_noPulse origin freq (planClass_not_fixed hnot)

end Sys2Proof.Proofs
end

section
/-! The selection walk (R130, R138). An eligible entry's action takes off what the walk adds to its running total, and each
action of a walk is that of an eligible entry for the kW still needed before it; the last of them gives the total's bounds. -/

namespace Sys2Proof.Proofs

open Sys2Proof.Machine

/-! ### Eligible entries (R129, R130) -/

section

variable {p : Part} {i : IslandNo} {e : EntryConfig}

theorem entryInIsland_iff :
    entryInIsland p i e = true ↔ (1 ≤ e.station ∧ e.station ≤ 62) ∧ islandOf p e.sect = some i := by
  simp only [entryInIsland, inIsland, Bool.and_eq_true, stationAssigned_iff, beq_iff_eq]

theorem offeredKw_breaker (h : p.entry[e.consumer].state = some .connected) (hkind : e.kind = .breaker) :
    offeredKw p e = p.consumerImage[e.consumer].kw := by
  simp only [offeredKw, h, hkind, Option.some.injEq, reduceCtorEq, if_false]

theorem offeredKw_limitable (h : p.entry[e.consumer].state = some .connected) (hkind : e.kind = .limitable) :
    offeredKw p e = p.consumerImage[e.consumer].kw - e.floor := by
  simp only [offeredKw, h, hkind, Option.some.injEq, reduceCtorEq, if_false]

theorem eligible_iff : eligible p i e = true ↔
    1 ≤ e.station ∧ e.station ≤ 62 ∧ islandOf p e.sect = some i ∧ p.entry[e.consumer].state = some .connected
      ∧ e.guarded = false ∧ e.inhibit = false ∧ p.entry[e.consumer].tripFailed = false ∧ 0 < offeredKw p e := by
  simp only [eligible, Bool.and_eq_true, entryInIsland_iff, beq_iff_eq, Bool.not_eq_true', decide_eq_true_eq, and_assoc]

theorem connected_of_eligible (h : eligible p i e = true) : p.entry[e.consumer].state = some .connected := by
  obtain ⟨-, -, -, hconnected, -⟩ := eligible_iff.mp h
  exact hconnected

/-! ### The action of an eligible entry (R138) -/

/-- The kW that an action takes off its consumer. -/
def reliefOf (p : Part) (a : ShedAction) : Nat :=
  match a.means with
  | .trip => p.consumerImage[a.consumer].kw
  | .limit kw => p.consumerImage[a.consumer].kw - kw

/-- The kW that actions take off together. -/
def relieved (p : Part) (actions : List ShedAction) : Nat := (actions.map (reliefOf p)).sum

@[simp] theorem relieved_cons (a : ShedAction) (actions : List ShedAction) :
    relieved p (a :: actions) = reliefOf p a + relieved p actions := by
  simp [relieved]

@[simp] theorem relieved_concat (a : ShedAction) (actions : List ShedAction) :
    relieved p (actions ++ [a]) = relieved p actions + reliefOf p a := by
  simp [relieved]

variable {needed : Nat}

@[simp] theorem entryAction_consumer : (entryAction p e needed).1.consumer = e.consumer := by
  unfold entryAction
  split
  case h_1 => rfl
  case h_2 => split <;> rfl

theorem entryAction_breaker (h : eligible p i e = true) (hkind : e.kind = .breaker) :
    entryAction p e needed = ({ consumer := e.consumer, means := .trip }, p.consumerImage[e.consumer].kw) := by
  simp only [entryAction, offeredKw_breaker (connected_of_eligible h) hkind, hkind]

theorem offered_pos_of_limitable (h : eligible p i e = true) (hkind : e.kind = .limitable) :
    0 < p.consumerImage[e.consumer].kw - e.floor := by
  obtain ⟨-, -, -, hconnected, -, -, -, hoffered⟩ := eligible_iff.mp h
  exact offeredKw_limitable hconnected hkind ▸ hoffered

/-- The new limit stands at the floor or above it, whichever the need leaves, and the kW added are those above it. -/
theorem entryAction_limitable (h : eligible p i e = true) (hkind : e.kind = .limitable) :
    let held := p.consumerImage[e.consumer].kw
    entryAction p e needed =
      ({ consumer := e.consumer, means := .limit (if needed + e.floor ≤ held then held - needed else e.floor) },
        min needed (held - e.floor)) := by
  have hoffered := offered_pos_of_limitable h hkind
  simp only [entryAction, offeredKw_limitable (connected_of_eligible h) hkind, hkind]
  by_cases hneed : needed ≤ p.consumerImage[e.consumer].kw - e.floor
  · rw [if_pos hneed, if_pos (by omega), min_eq_left hneed]
  · rw [if_neg hneed, if_neg (by omega), min_eq_right (by omega)]

/-- What the walk adds for an eligible entry is what its action takes off. -/
theorem entryAction_kw (h : eligible p i e = true) :
    (entryAction p e needed).2 = reliefOf p (entryAction p e needed).1 := by
  cases hkind : e.kind with
  | breaker => simp only [entryAction_breaker h hkind, reliefOf]
  | limitable =>
    have hoffered := offered_pos_of_limitable h hkind
    simp only [entryAction_limitable h hkind, reliefOf]
    split <;> omega

/-- A LIMIT takes off no more than is still needed. -/
theorem reliefOf_entryAction_le (h : eligible p i e = true) (hlimit : (entryAction p e needed).1.means ≠ .trip) :
    reliefOf p (entryAction p e needed).1 ≤ needed := by
  rw [← entryAction_kw h]
  cases hkind : e.kind with
  | breaker => simp only [entryAction_breaker h hkind, ne_eq, not_true_eq_false] at hlimit
  | limitable => simp only [entryAction_limitable h hkind, min_le_left]

end

/-! ### The walk down the list (R138) -/

section

variable {p : Part} {i : IslandNo} {d : Nat} {l : List EntryConfig} {total : Nat}

theorem walk_consumers_prefix :
    (walk p i d l total).1.map ShedAction.consumer <+: (l.filter (eligible p i)).map EntryConfig.consumer := by
  fun_induction walk p i d l total with
  | case1 => exact List.nil_prefix
  | case2 => exact List.nil_prefix
  | case3 e rest total _ helig a _ ih => simpa [helig, a] using ih
  | case4 e rest total _ hnot ih => simpa [hnot] using ih

/-- A walk that does not cover its deficit has gone down the whole list. -/
theorem walk_consumers_of_short (h : (walk p i d l total).2 < d) :
    (walk p i d l total).1.map ShedAction.consumer = (l.filter (eligible p i)).map EntryConfig.consumer := by
  fun_induction walk p i d l total with
  | case1 => rfl
  | case2 e rest total hcovered => exact absurd h (not_lt.mpr hcovered)
  | case3 e rest total _ helig a _ ih => simpa [helig, a] using ih h
  | case4 e rest total _ hnot ih => simpa [hnot] using ih h

theorem walk_total : (walk p i d l total).2 = total + relieved p (walk p i d l total).1 := by
  fun_induction walk p i d l total with
  | case1 => rfl
  | case2 => rfl
  | case3 e rest total _ helig a tail ih =>
    simp only [relieved_cons, ← Nat.add_assoc, tail, a, ← entryAction_kw helig, ← ih]
  | case4 e rest total _ hnot ih => exact ih

/-- Each action of a walk is an eligible entry's, taken while the deficit is not covered, for the kW still needed then. -/
theorem walk_getElem? {n : Nat} {a : ShedAction} (h : (walk p i d l total).1[n]? = some a) :
    total + relieved p ((walk p i d l total).1.take n) < d ∧ ∃ e ∈ l, eligible p i e = true
      ∧ a = (entryAction p e (d - (total + relieved p ((walk p i d l total).1.take n)))).1 := by
  fun_induction walk p i d l total generalizing n
  case case1 => simp at h
  case case2 => simp at h
  case case3 e rest total hnot helig act tail ih =>
    cases n with
    | zero =>
      obtain rfl : act.1 = a := by simpa using h
      exact ⟨not_le.mp hnot, e, List.mem_cons_self, helig, rfl⟩
    | succ n =>
      obtain ⟨hshort, e', hmem, helig', ha⟩ := ih h
      simp only [List.take_succ_cons, relieved_cons, ← Nat.add_assoc, act, ← entryAction_kw helig]
      exact ⟨hshort, e', List.mem_cons_of_mem e hmem, helig', ha⟩
  case case4 e rest total _ _ ih =>
    obtain ⟨hshort, e', hmem, helig', ha⟩ := ih h
    exact ⟨hshort, e', List.mem_cons_of_mem e hmem, helig', ha⟩

/-- The last action of a walk: without it the deficit is not covered, and it is an eligible entry's for what is missing. -/
theorem walk_getLast? {a : ShedAction} (h : (walk p i d l total).1.getLast? = some a) :
    let before := total + relieved p (walk p i d l total).1.dropLast
    before < d ∧ (∃ e ∈ l, eligible p i e = true ∧ a = (entryAction p e (d - before)).1)
      ∧ (walk p i d l total).2 = before + reliefOf p a := by
  obtain ⟨hshort, hentry⟩ := walk_getElem? (List.getLast?_eq_getElem? ▸ h)
  rw [← List.dropLast_eq_take] at hshort hentry
  refine ⟨hshort, hentry, ?_⟩
  conv_lhs => rw [walk_total, ← List.dropLast_append_getLast? a h]
  rw [relieved_concat, Nat.add_assoc]

theorem walk_dropLast_short (h : (walk p i d l total).1 ≠ []) :
    total + relieved p (walk p i d l total).1.dropLast < d :=
  (walk_getLast? (List.getLast?_eq_some_getLast h)).1

/-- A walk that ends with a LIMIT meets its deficit at most. -/
theorem walk_le_of_last_limit {a : ShedAction} (h : (walk p i d l total).1.getLast? = some a) (hlimit : a.means ≠ .trip) :
    (walk p i d l total).2 ≤ d := by
  obtain ⟨hshort, ⟨e, -, helig, rfl⟩, htotal⟩ := walk_getLast? h
  have hrelief := reliefOf_entryAction_le helig hlimit
  omega

end

/-- Settles O38: eligibility clause by clause, and a walk's order, total and actions by induction along the list. -/
theorem selectionWalks : Obligations.SelectionWalks := by
  refine ⟨fun p i e => ?eligible, fun p i d l => ⟨walk_consumers_prefix, walk_consumers_of_short, ?total, fun hne => ?short,
      fun a ha => walk_le_of_last_limit ha, fun n a ha => ?action⟩⟩
  case eligible =>
    rw [eligible_iff]
    refine and_congr_right fun _ => and_congr_right fun _ => and_congr_right fun _ => and_congr_right fun hconnected => ?_
    cases hkind : e.kind with
    | breaker => rw [offeredKw_breaker hconnected hkind]
    | limitable => rw [offeredKw_limitable hconnected hkind]
  case total => exact walk_total.trans (Nat.zero_add _)
  case short => exact (Nat.zero_add _).symm.trans_lt (walk_dropLast_short hne)
  case action =>
    obtain ⟨-, e, hmem, helig, rfl⟩ := walk_getElem? ha
    rw [Nat.zero_add]
    refine ⟨e, hmem, entryAction_consumer.symm, helig, fun hkind => ?_, fun hkind => ?_⟩
    · rw [entryAction_breaker helig hkind]
    · rw [entryAction_limitable helig hkind]
      rfl

end Sys2Proof.Proofs
end

section
/-! Invariants of every step: for each condition, that the primitive updates keep it (`Edits`), and that the supervisor
line, resets and the loss of power do (`Whole`). -/

namespace Sys2Proof.Proofs

open Sys2Proof.Machine

/-! ### What the supervisor transmitter changes -/

/-- The supervisor transmitter's choice changes the supervisor line and the report queue alone (R168, R183). -/
theorem sendNext_eq (p : Part) : ∃ rq b rp r t n, sendNext p =
    { p with requests := rq, busyList := b, replies := rp, reports := r, supTx := t, allowance := n } := by
  unfold sendNext
  split
  · exact ⟨p.requests, p.busyList, p.replies, p.reports, p.supTx, p.allowance, rfl⟩
  · split
    · exact ⟨_, _, _, p.reports, _, p.allowance, by unfold beginReply; rfl⟩
    · obtain ⟨r, t, n, h⟩ := sendReport_eq p
      exact ⟨p.requests, p.busyList, p.replies, r, t, n, h⟩

/-- A reading of the part that changes with none of the fields that events, orders and frames change is the same after them. -/
structure Apart {α : Sort*} (g : Part → α) : Prop where
  event : ∀ p f r t n, g { p with rawFlags := f, reports := r, supTx := t, allowance := n } = g p
  order : ∀ p x y n t, g { p with urgent := x, normal := y, nextOrder := n, fieldTx := t } = g p
  desk : ∀ p rq b rp, g { p with requests := rq, busyList := b, replies := rp } = g p

section

variable {α : Sort*} {g : Part → α}

theorem Apart.occur (h : Apart g) (k : EventKind) (o : EventObject) (p : Part) : g (occur k o p) = g p := by
  obtain ⟨f, r, t, n, e⟩ := occur_eq k o p
  rw [e, h.event]

theorem Apart.handOver (h : Apart g) (b : OrderBody) (u : Bool) (p : Part) : g (handOver b u p).part = g p := by
  obtain ⟨x, y, n, f, r, t, m, v, e⟩ := handOver_eq b u p
  rw [e]
  exact (h.event { p with urgent := x, normal := y, nextOrder := n, fieldTx := v } f r t m).trans (h.order p x y n v)

theorem Apart.joinQueues (h : Apart g) (b : OrderBody) (u : Bool) (p : Part) : g (joinQueues b u p).part = g p := by
  obtain ⟨x, y, n, f, r, t, m, e⟩ := joinQueues_eq b u p
  rw [e]
  exact (h.event { p with urgent := x, normal := y, nextOrder := n } f r t m).trans (h.order p x y n p.fieldTx)

theorem Apart.arbitrate (h : Apart g) (p : Part) : g (arbitrate p) = g p := by
  obtain ⟨t, x, y, e⟩ := arbitrate_eq p
  rw [e]
  exact h.order p x y p.nextOrder t

theorem Apart.sendNext (h : Apart g) (p : Part) : g (sendNext p) = g p := by
  obtain ⟨rq, b, rp, r, t, n, e⟩ := sendNext_eq p
  rw [e]
  exact (h.event { p with requests := rq, busyList := b, replies := rp } p.rawFlags r t n).trans (h.desk p rq b rp)

end

/-! ### Conditions that do not read the supervisor line -/

/-- Kept by records, timers and order frames, by every change of the supervisor line and the store, and held by a part that has
just been reset, is without power or is held in reset. -/
structure Rests (I : Part → Prop) : Prop extends Plant I where
  desk : ∀ p pin rx rq b rp t rs n f r al, I p →
    I { p with resetAsserted := pin, supRx := rx, requests := rq, busyList := b, replies := rp, supTx := t, restarting := rs,
               nextRequest := n, rawFlags := f, reports := r, allowance := al }
  stores : ∀ p v, (v.contents = p.store.contents ∨ v.contents = p.cfg) → I p → I { p with store := v }
  starts : ∀ p store cfg rate asserted, store.contents = p.store.contents →
    (cfg = p.cfg ∨ cfg = p.store.contents ∨ cfg = Configuration.default) → I p →
    I { Part.acquiring store cfg rate with resetAsserted := asserted }
  unpowers : ∀ p, I p → I (Part.unpowered p.store p.resetAsserted)
  holds : ∀ p, I p → I (heldInReset p)

section

variable {I : Part → Prop}

/-- With the three operations that change the configuration, the island map or the phase, such a condition is kept by every
command. -/
theorem Rests.whole (h : Rests I) (records : ∀ p station bytes, I p → I (takeRecord station bytes p))
    (owns : ∀ p r serial, I p → I (serveOwn r serial p).part) (opens : ∀ p, p.phase = .acquire → I p → I (endAcquire p)) :
    Whole I where
  toPlant := h.toPlant
  records := records
  owns := owns
  opens := opens
  numbers p v hp := h.desk p _ _ _ _ _ _ _ v _ _ _ hp
  hears p v hp := h.desk p _ v _ _ _ _ _ _ _ _ _ hp
  joins p serial kind tag payload c _ hp := h.desk p _ _ _ _ _ _ _ _ _ _ _ hp
  lists p b _ hp := h.desk p _ _ _ _ _ _ _ _ _ _ _ hp
  forms p serial kind tag code data hp := h.desk p _ _ _ _ _ _ _ _ _ _ _ hp
  sends p hp := by
    obtain ⟨rq, b, rp, r, t, n, e⟩ := sendNext_eq p
    rw [e]
    exact h.desk p _ _ _ _ _ _ _ _ _ _ _ hp
  idles p hp := h.desk p _ _ _ _ _ _ _ _ _ _ _ hp
  ends p serial hp := h.desk p _ _ _ _ _ _ _ _ _ _ _ hp
  answers p f hp := h.desk p _ _ _ _ _ _ _ _ _ _ _ hp
  stores := h.stores
  starts := h.starts
  unpowers := h.unpowers
  holds := h.holds
  pins p v hp := h.desk p v _ _ _ _ _ _ _ _ _ _ hp

/-- The same for a condition that the edits keep. -/
theorem Rests.wholeOfEdits (h : Rests I) (he : Edits I) : Whole I :=
  h.whole (fun _ station bytes hp => topo_takeRecord he.toTopo station bytes hp)
    (fun _ r serial hp => edits_serveOwn he (fun q _ hq => h.desk q _ _ _ _ _ _ _ _ _ _ _ hq)
      (fun q _ _ hq => h.desk q _ _ _ _ _ _ _ _ _ _ _ hq) (fun q _ hq => h.stores q _ (.inl rfl) hq)
      (fun q _ hq => h.desk q _ _ _ _ _ _ _ _ _ _ _ hq) r serial hp)
    (fun _ _ hp => opening_endAcquire he.toOpening hp)

end

/-! ### Governor lines (R86) -/

theorem apart_gov : Apart Part.linesSafe := ⟨fun _ _ _ _ _ => rfl, fun _ _ _ _ _ => rfl, fun _ _ _ _ => rfl⟩

theorem edits_linesSafe : Edits Part.linesSafe where
  share _ _ h := h
  gov _ _ hv h := hv h
  selection _ _ h := h
  entry _ _ h := h
  inFlight _ _ h := h
  islands _ _ _ _ h := h
  occurs p k o h := (apart_gov.occur k o p).mpr h
  handed p c a u _ h := (apart_gov.handOver (.consumer c a) u p).mpr h
  dropped _ _ h := h
  setHanded p k a h := (apart_gov.handOver (.set k a) false p).mpr h
  setJoined p k a h := (apart_gov.joinQueues (.set k a) false p).mpr h
  setDropped _ _ h := h
  seqs _ _ _ h := h
  clocked _ _ h := h
  setImages _ _ h := h
  consumerImages _ _ h := h
  meterImages _ _ h := h
  tieImages _ _ _ h := h
  transmits _ _ h := h
  feedbacks _ _ h := h
  receives _ _ h := h
  arbitrates p h := (apart_gov.arbitrate p).mpr h
  ties _ _ h := h
  mapped _ _ _ _ _ h := h
  seqFree _ _ h := h
  phased _ h := h
  config _ _ _ h := h

theorem linesSafe_acquiring (store : Store) (cfg : Configuration) (rate : LineRate) :
    (Part.acquiring store cfg rate).linesSafe := by
  intro k
  simp [Part.acquiring, GovRecord.oneLine, GovRecord.reset]

theorem rests_linesSafe : Rests Part.linesSafe where
  toPlant := edits_linesSafe.toPlant
  desk _ _ _ _ _ _ _ _ _ _ _ _ h := h
  stores _ _ _ h := h
  starts _ store cfg rate _ _ _ _ := linesSafe_acquiring store cfg rate
  unpowers p _ := linesSafe_acquiring p.store.cutOff Configuration.default .r115200
  holds p _ := by
    intro k
    simp only [heldInReset, Fin.getElem_fin, Vector.getElem_map]
    exact linesOff_oneLine _

/-- Settles O53: every update of a governor record makes one line active at most. -/
theorem stepKeepsLinesSafe : Obligations.StepKeepsLinesSafe := fun _ _ hs ht =>
  whole_step (rests_linesSafe.wholeOfEdits edits_linesSafe) hs ht

end Sys2Proof.Proofs
end

section
/-! The order queues (R27 to R32): one order for each object in the two queues together, urgent orders only TRIP and LIMIT,
and neither queue too long. -/

namespace Sys2Proof.Proofs

open Sys2Proof.Machine

/-- The condition of the order queues, of the two queues alone (R27, R28). -/
def QueuesHold (u n : List Order) : Prop :=
  (u ++ n).Pairwise (fun a b => a.body.object ≠ b.body.object)
    ∧ (∀ o ∈ u, o.urgent = true ∧ isShedOrder o.body = true) ∧ (∀ o ∈ n, o.urgent = false)
    ∧ u.length ≤ Config.shedListMax ∧ n.length ≤ Config.normalMax

theorem ordersFit_iff (p : Part) : p.ordersFit ↔ QueuesHold p.urgent p.normal := Iff.rfl

section

variable {u n u' n' : List Order} {o : Order}

@[simp] theorem isFor_iff (q : Order) (x : ObjectRef) : q.isFor x = true ↔ q.body.object = x := by
  simp [Order.isFor]

/-- Orders for different consumers are no more than there are consumers. -/
theorem length_le_of_shed (hd : u.Pairwise (fun a b => a.body.object ≠ b.body.object))
    (hs : ∀ o ∈ u, isShedOrder o.body = true) : u.length ≤ Config.shedListMax := by
  have hnodup : (u.map fun o => o.body.object).Nodup := List.pairwise_map.mpr hd
  have hsub : (u.map fun o => o.body.object) ⊆ allConsumers.map ObjectRef.consumer := by
    intro x hx
    obtain ⟨o, ho, rfl⟩ := List.mem_map.mp hx
    have hshed := hs o ho
    cases hb : o.body with
    | consumer c a => exact List.mem_map.mpr ⟨c, List.mem_finRange c, rfl⟩
    | set k a => simp [hb, isShedOrder] at hshed
  simpa [allConsumers, Config.shedListMax] using (hnodup.subperm hsub).length_le

/-- Orders taken out of the queues. -/
theorem QueuesHold.sublist (h : QueuesHold u n) (hu : u'.Sublist u) (hn : n'.Sublist n) : QueuesHold u' n' := by
  obtain ⟨hd, hurgent, hnormal, hul, hnl⟩ := h
  exact ⟨hd.sublist (hu.append hn), fun o ho => hurgent o (hu.subset ho), fun o ho => hnormal o (hn.subset ho),
    hu.length_le.trans hul, hn.length_le.trans hnl⟩

/-- An order for an object that has none joins the urgent queue. -/
theorem QueuesHold.pushUrgent (h : QueuesHold u n) (ho : o.urgent = true) (hs : isShedOrder o.body = true)
    (hnew : ∀ q ∈ u ++ n, q.body.object ≠ o.body.object) : QueuesHold (u ++ [o]) n := by
  obtain ⟨hd, hurgent, hnormal, -, hnl⟩ := h
  have hd' : (u ++ [o] ++ n).Pairwise (fun a b => a.body.object ≠ b.body.object) := by
    refine (List.Perm.pairwise_iff (fun h => h.symm) ?_).mp (List.pairwise_cons.mpr ⟨fun q hq => (hnew q hq).symm, hd⟩)
    exact List.append_assoc u [o] n ▸ List.perm_middle.symm
  have hurgent' : ∀ q ∈ u ++ [o], q.urgent = true ∧ isShedOrder q.body = true := by
    simp only [List.forall_mem_append, List.forall_mem_singleton]
    exact ⟨hurgent, ho, hs⟩
  exact ⟨hd', hurgent', hnormal,
    length_le_of_shed (hd'.sublist (List.sublist_append_left _ _)) fun q hq => (hurgent' q hq).2, hnl⟩

/-- An order for an object that has none joins the normal queue where it has room. -/
theorem QueuesHold.pushNormal (h : QueuesHold u n) (ho : o.urgent = false) (hroom : n.length < Config.normalMax)
    (hnew : ∀ q ∈ u ++ n, q.body.object ≠ o.body.object) : QueuesHold u (n ++ [o]) := by
  obtain ⟨hd, hurgent, hnormal, hul, -⟩ := h
  refine ⟨?_, hurgent, ?_, hul, by simpa using hroom⟩
  · rw [← List.append_assoc]
    refine List.pairwise_append.mpr ⟨hd, List.pairwise_singleton _ _, ?_⟩
    simpa using hnew
  · simp only [List.forall_mem_append, List.forall_mem_singleton]
    exact ⟨hnormal, ho⟩

/-- An order takes the place of its object's order, which has the same class. -/
theorem QueuesHold.swap (h : QueuesHold u n) (hu : ∀ q ∈ u, q.body.object = o.body.object → o.urgent = true)
    (hn : ∀ q ∈ n, q.body.object = o.body.object → o.urgent = false)
    (hs : o.urgent = true → isShedOrder o.body = true) :
    QueuesHold (u.map fun q => if q.isFor o.body.object then o else q)
      (n.map fun q => if q.isFor o.body.object then o else q) := by
  obtain ⟨hd, hurgent, hnormal, hul, hnl⟩ := h
  have hobject (q : Order) : (if q.isFor o.body.object then o else q).body.object = q.body.object := by
    split
    case isTrue hq => exact ((isFor_iff q _).mp hq).symm
    case isFalse => rfl
  refine ⟨?_, ?_, ?_, by simpa using hul, by simpa using hnl⟩
  · rw [← List.map_append, List.pairwise_map]
    simpa only [hobject] using hd
  · refine List.forall_mem_map.mpr fun q hq => ?_
    split
    case isTrue hfor =>
      have ho := hu q hq ((isFor_iff q _).mp hfor)
      exact ⟨ho, hs ho⟩
    case isFalse => exact hurgent q hq
  · refine List.forall_mem_map.mpr fun q hq => ?_
    split
    case isTrue hfor => exact hn q hq ((isFor_iff q _).mp hfor)
    case isFalse => exact hnormal q hq

/-- Of the two queues, an object's order stands in that of its class. -/
theorem QueuesHold.class_of_found (h : QueuesHold u n) {x : ObjectRef} {old : Order}
    (hf : (u ++ n).find? (Order.isFor x) = some old) :
    (∀ q ∈ u, q.body.object = x → old.urgent = true) ∧ (∀ q ∈ n, q.body.object = x → old.urgent = false) := by
  obtain ⟨hd, hurgent, hnormal, -, -⟩ := h
  have hmem := List.mem_of_find?_eq_some hf
  have hold : old.body.object = x := (isFor_iff old x).mp (List.find?_some hf)
  obtain ⟨-, -, hcross⟩ := List.pairwise_append.mp hd
  refine ⟨fun q hq hx => ?_, fun q hq hx => ?_⟩
  · rcases List.mem_append.mp hmem with hu | hn
    · exact (hurgent old hu).1
    · exact absurd (hx.trans hold.symm) (hcross q hq old hn)
  · rcases List.mem_append.mp hmem with hu | hn
    · exact absurd (hold.trans hx.symm) (hcross old hu q hq)
    · exact hnormal old hn

end

/-! ### Orders handed over (R28, R29, R32) -/

section

variable {p : Part}

theorem apart_ordersFit_event (k : EventKind) (x : EventObject) (p : Part) (h : p.ordersFit) : (occur k x p).ordersFit := by
  obtain ⟨f, r, t, n, e⟩ := occur_eq k x p
  rw [e]
  exact h

theorem mem_filter_not_isFor {l : List Order} {x : ObjectRef} {q : Order} (h : q ∈ l.filter fun q => !q.isFor x) :
    q.body.object ≠ x := by
  simpa [Order.isFor] using (List.mem_filter.mp h).2

theorem replaceOrder_ordersFit (o old : Order) (hs : o.urgent = true → isShedOrder o.body = true)
    (hf : queuedFor p o.body.object = some old) (h : p.ordersFit) : (replaceOrder o old p).part.ordersFit := by
  obtain ⟨hu, hn⟩ := QueuesHold.class_of_found h hf
  unfold replaceOrder
  extract_lets next swap
  split
  case isTrue hclass =>
    rw [beq_iff_eq.mp hclass] at hu hn
    exact QueuesHold.swap h hu hn hs
  case isFalse hclass =>
    split
    case isTrue ho =>
      have hold : old.urgent = false := by simpa [ho] using hclass
      refine QueuesHold.pushUrgent (QueuesHold.sublist h (List.Sublist.refl _) List.filter_sublist) ho (hs ho) ?_
      refine List.forall_mem_append.mpr ⟨fun q hq hx => ?_, fun q hq => mem_filter_not_isFor hq⟩
      exact Bool.false_ne_true (hold.symm.trans (hu q hq hx))
    case isFalse ho =>
      have hold : old.urgent = true := by simpa [Bool.eq_false_iff.mpr ho] using hclass
      split
      case isTrue hroom =>
        refine QueuesHold.pushNormal (QueuesHold.sublist h List.filter_sublist (List.Sublist.refl _))
          (Bool.eq_false_iff.mpr ho) hroom ?_
        refine List.forall_mem_append.mpr ⟨fun q hq => mem_filter_not_isFor hq, fun q hq hx => ?_⟩
        exact Bool.false_ne_true ((hn q hq hx).symm.trans hold)
      case isFalse => exact apart_ordersFit_event _ _ p h

theorem joinQueues_ordersFit (b : OrderBody) (u : Bool) (hs : u = true → isShedOrder b = true) (h : p.ordersFit) :
    (joinQueues b u p).part.ordersFit := by
  unfold joinQueues
  extract_lets o
  split
  case isTrue => exact h
  case isFalse =>
    split
    case h_1 old hf => exact replaceOrder_ordersFit o old hs hf h
    case h_2 hf =>
      have hnew : ∀ q ∈ p.urgent ++ p.normal, q.body.object ≠ o.body.object := fun q hq hx =>
        List.find?_eq_none.mp hf q hq ((isFor_iff q _).mpr hx)
      split
      case isTrue hu => exact QueuesHold.pushUrgent h hu (hs hu) hnew
      case isFalse hu =>
        split
        case isTrue hroom => exact QueuesHold.pushNormal h (Bool.eq_false_iff.mpr hu) hroom hnew
        case isFalse => exact apart_ordersFit_event _ _ p h

theorem arbitrate_ordersFit (h : p.ordersFit) : (arbitrate p).ordersFit := by
  rw [ordersFit_iff] at h
  unfold arbitrate
  split
  · split
    case h_1 _ o rest hu => exact QueuesHold.sublist (hu ▸ h) (List.sublist_cons_self o rest) (List.Sublist.refl _)
    case h_2 o rest hu hn =>
      exact QueuesHold.sublist (hn ▸ h) (List.Sublist.refl _) (List.sublist_cons_self o rest)
    case h_3 => exact h
  · exact h

theorem handOver_ordersFit (b : OrderBody) (u : Bool) (hs : u = true → isShedOrder b = true) (h : p.ordersFit) :
    (handOver b u p).part.ordersFit := by
  have hj := joinQueues_ordersFit b u hs h
  unfold handOver
  extract_lets g
  split
  · exact arbitrate_ordersFit hj
  · exact hj

end

theorem edits_ordersFit : Edits Part.ordersFit where
  share _ _ h := h
  gov _ _ _ h := h
  selection _ _ h := h
  entry _ _ h := h
  inFlight _ _ h := h
  islands _ _ _ _ h := h
  occurs p k o h := apart_ordersFit_event k o p h
  handed _ c a u hs h := handOver_ordersFit (.consumer c a) u hs h
  dropped _ _ h := QueuesHold.sublist h List.filter_sublist List.filter_sublist
  setHanded _ k a h := handOver_ordersFit (.set k a) false (by simp) h
  setJoined _ k a h := joinQueues_ordersFit (.set k a) false (by simp) h
  setDropped _ _ h := QueuesHold.sublist h List.filter_sublist List.filter_sublist
  seqs _ _ _ h := h
  clocked _ _ h := h
  setImages _ _ h := h
  consumerImages _ _ h := h
  meterImages _ _ h := h
  tieImages _ _ _ h := h
  transmits _ _ h := h
  feedbacks _ _ h := h
  receives _ _ h := h
  arbitrates _ h := arbitrate_ordersFit h
  ties _ _ h := h
  mapped _ _ _ _ _ h := h
  seqFree _ _ h := h
  phased _ h := h
  config _ _ _ h := h

theorem ordersFit_empty : QueuesHold [] [] := by simp [QueuesHold]

theorem rests_ordersFit : Rests Part.ordersFit where
  toPlant := edits_ordersFit.toPlant
  desk _ _ _ _ _ _ _ _ _ _ _ _ h := h
  stores _ _ _ h := h
  starts _ _ _ _ _ _ _ _ := ordersFit_empty
  unpowers _ _ := ordersFit_empty
  holds _ h := h

/-- Settles O54: an order joins, replaces or leaves with the condition of the two queues kept. -/
theorem stepKeepsOrdersFit : Obligations.StepKeepsOrdersFit := fun _ _ hs ht =>
  whole_step (rests_ordersFit.wholeOfEdits edits_ordersFit) hs ht

end Sys2Proof.Proofs
end

section
/-! The supervisor line and the configurations: queue lengths, reports and allowance (R165, R182 to R184), and the ranges of the
working configuration and of the store's (R190). -/

namespace Sys2Proof.Proofs

open Sys2Proof.Machine

/-! ### Orders handed over, for a condition that reads no order -/

section

variable {I : Part → Prop} {p : Part}

/-- Events apart, an order that joins its queue changes the order queues alone. -/
theorem joinQueues_keeps (hord : ∀ q x y n t, I q → I { q with urgent := x, normal := y, nextOrder := n, fieldTx := t })
    (hocc : ∀ q k o, I q → I (occur k o q)) (b : OrderBody) (u : Bool) (h : I p) : I (joinQueues b u p).part := by
  have hkeep (x y : List Order) (n : Nat) : I { p with urgent := x, normal := y, nextOrder := n } := hord p x y n p.fieldTx h
  unfold joinQueues
  extract_lets o
  split
  · exact h
  · split
    · unfold replaceOrder
      extract_lets next swap
      split
      · exact hkeep _ _ _
      · split
        · exact hkeep _ _ _
        · split
          · exact hkeep _ _ _
          · exact hocc _ _ _ h
    · split
      · exact hkeep _ _ _
      · split
        · exact hkeep _ _ _
        · exact hocc _ _ _ h

theorem handOver_keeps (hord : ∀ q x y n t, I q → I { q with urgent := x, normal := y, nextOrder := n, fieldTx := t })
    (hocc : ∀ q k o, I q → I (occur k o q)) (b : OrderBody) (u : Bool) (h : I p) : I (handOver b u p).part := by
  have hj := joinQueues_keeps hord hocc b u h
  unfold handOver
  extract_lets g
  split
  · obtain ⟨t, x, y, e⟩ := arbitrate_eq g.part
    exact e ▸ hord g.part x y g.part.nextOrder t hj
  · exact hj

end

/-! ### The report queue (R182, R183) -/

/-- Reports of different kind or object, with counts of 1 to 255 (R182, R183). -/
def ReportsHold (rs : List Report) : Prop :=
  rs.Pairwise (fun a b => a.kind ≠ b.kind ∨ a.object ≠ b.object) ∧ ∀ r ∈ rs, 1 ≤ r.count ∧ r.count ≤ Config.countMax

section

variable {p : Part} {rs : List Report}

theorem ReportsHold.tail {r : Report} (h : ReportsHold (r :: rs)) : ReportsHold rs :=
  ⟨h.1.tail, fun q hq => h.2 q (List.mem_cons_of_mem r hq)⟩

theorem ReportsHold.coalesce (h : ReportsHold rs) (k : EventKind) (o : EventObject) (now : Nat) :
    ReportsHold (rs.map fun r => if Report.concerns k o r then r.coalesce now else r) := by
  obtain ⟨hpair, hcount⟩ := h
  refine ⟨List.pairwise_map.mpr (hpair.imp ?_), List.forall_mem_map.mpr fun r hr => ?_⟩
  · intro a b hab
    split <;> split <;> exact hab
  · have := hcount r hr
    unfold Config.countMax at this ⊢
    split
    · simp only [Report.coalesce, Config.countMax]
      omega
    · exact this

/-- An occurrence that no queued report concerns is queued as a new one. -/
theorem ReportsHold.push (h : ReportsHold rs) {k : EventKind} {o : EventObject} (hnew : rs.any (Report.concerns k o) = false)
    (now : Nat) : ReportsHold (rs ++ [{ kind := k, object := o, time := now, count := 1 }]) := by
  obtain ⟨hpair, hcount⟩ := h
  refine ⟨List.pairwise_append.mpr ⟨hpair, List.pairwise_singleton _ _, ?_⟩, ?_⟩
  · intro a ha b hb
    obtain rfl := List.mem_singleton.mp hb
    have hdiff := List.any_eq_false.mp hnew a ha
    simpa only [Report.concerns, Bool.and_eq_true, beq_iff_eq, not_and_or] using hdiff
  · simp only [List.forall_mem_append, List.forall_mem_singleton]
    exact ⟨hcount, Nat.le_refl 1, by decide⟩

theorem supervisorFits_iff (p : Part) : p.supervisorFits ↔ p.requests.length ≤ Config.requestMax
    ∧ p.busyList.length ≤ Config.requestMax ∧ p.reports.length ≤ Config.reportMax ∧ p.allowance ≤ Config.countMax
    ∧ ReportsHold p.reports := Iff.rfl

theorem sendReport_supervisorFits (h : p.supervisorFits) : (sendReport p).supervisorFits := by
  unfold sendReport
  split
  · split
    case h_1 r rest hr =>
      obtain ⟨hrq, hb, hlen, hall, hold⟩ := (supervisorFits_iff p).mp h
      rw [hr] at hlen hold
      exact (supervisorFits_iff _).mpr
        ⟨hrq, hb, (Nat.le_succ _).trans hlen, (Nat.sub_le _ _).trans hall, hold.tail⟩
    case h_2 => exact h
  · exact h

theorem occur_supervisorFits (k : EventKind) (o : EventObject) (h : p.supervisorFits) : (occur k o p).supervisorFits := by
  obtain ⟨hrq, hb, hlen, hall, hold⟩ := (supervisorFits_iff p).mp h
  unfold occur
  extract_lets flagged
  split
  · exact h
  · unfold queueReport
    split
    case isTrue =>
      exact (supervisorFits_iff _).mpr ⟨hrq, hb, by simpa using hlen, hall, hold.coalesce k o p.clock⟩
    case isFalse hnew =>
      split
      case isTrue hroom =>
        refine sendReport_supervisorFits ((supervisorFits_iff _).mpr ⟨hrq, hb, ?_, hall, ?_⟩)
        · simpa using hroom
        · exact hold.push (Bool.eq_false_iff.mpr hnew) p.clock
      case isFalse => exact h

theorem beginReply_supervisorFits (r : Reply) (h : p.supervisorFits) : (beginReply r p).supervisorFits := by
  obtain ⟨hrq, hb, hrest⟩ := (supervisorFits_iff p).mp h
  exact (supervisorFits_iff _).mpr ⟨by simpa [beginReply] using hrq, by simpa [beginReply] using hb, hrest⟩

theorem sendNext_supervisorFits (h : p.supervisorFits) : (sendNext p).supervisorFits := by
  unfold sendNext
  split
  · exact h
  · split
    · exact beginReply_supervisorFits _ h
    · exact sendReport_supervisorFits h

end

theorem edits_supervisorFits : Edits Part.supervisorFits where
  share _ _ h := h
  gov _ _ _ h := h
  selection _ _ h := h
  entry _ _ h := h
  inFlight _ _ h := h
  islands _ _ _ _ h := h
  occurs _ k o h := occur_supervisorFits k o h
  handed _ c a u _ h := handOver_keeps (fun _ _ _ _ _ hq => hq) (fun _ k o hq => occur_supervisorFits k o hq) _ _ h
  dropped _ _ h := h
  setHanded _ k a h := handOver_keeps (fun _ _ _ _ _ hq => hq) (fun _ k o hq => occur_supervisorFits k o hq) _ _ h
  setJoined _ k a h := joinQueues_keeps (fun _ _ _ _ _ hq => hq) (fun _ k o hq => occur_supervisorFits k o hq) _ _ h
  setDropped _ _ h := h
  seqs _ _ _ h := h
  clocked _ _ h := h
  setImages _ _ h := h
  consumerImages _ _ h := h
  meterImages _ _ h := h
  tieImages _ _ _ h := h
  transmits _ _ h := h
  feedbacks _ _ h := h
  receives _ _ h := h
  arbitrates p h := by
    obtain ⟨t, x, y, e⟩ := arbitrate_eq p
    exact e ▸ h
  ties _ _ h := h
  mapped _ _ _ _ _ h := h
  seqFree _ _ h := h
  phased _ h := h
  config _ _ _ h := h

theorem acquiring_supervisorFits (store : Store) (cfg : Configuration) (rate : LineRate) :
    (Part.acquiring store cfg rate).supervisorFits := by
  simp [supervisorFits_iff, Part.acquiring, ReportsHold]

theorem whole_supervisorFits : Whole Part.supervisorFits where
  toPlant := edits_supervisorFits.toPlant
  records _ station bytes h := topo_takeRecord edits_supervisorFits.toTopo station bytes h
  owns p r serial h := by
    refine edits_serveOwn edits_supervisorFits (fun _ _ hq => hq) (fun q n hn hq => ?_) (fun _ _ hq => hq)
      (fun _ _ hq => hq) r serial h
    obtain ⟨hrq, hb, hlen, -, hold⟩ := (supervisorFits_iff q).mp hq
    exact (supervisorFits_iff _).mpr ⟨hrq, hb, hlen, hn, hold⟩
  opens _ _ h := opening_endAcquire edits_supervisorFits.toOpening h
  numbers _ _ h := h
  hears _ _ h := h
  joins p serial kind tag payload c hl h := by
    obtain ⟨-, hrest⟩ := (supervisorFits_iff p).mp h
    exact (supervisorFits_iff _).mpr ⟨by simpa [joinRequests] using hl, hrest⟩
  lists p b hl h := by
    obtain ⟨hrq, -, hrest⟩ := (supervisorFits_iff p).mp h
    exact (supervisorFits_iff _).mpr ⟨hrq, by simpa using hl, hrest⟩
  forms _ _ _ _ _ _ h := h
  sends _ h := sendNext_supervisorFits h
  idles _ h := h
  ends p serial h := by
    obtain ⟨hrq, hb, hrest⟩ := (supervisorFits_iff p).mp h
    exact (supervisorFits_iff _).mpr
      ⟨(List.length_filter_le _ _).trans hrq, (List.length_filter_le _ _).trans hb, hrest⟩
  answers p f h := by
    obtain ⟨hrq, hrest⟩ := (supervisorFits_iff p).mp h
    exact (supervisorFits_iff _).mpr ⟨by simpa using hrq, hrest⟩
  stores _ _ _ h := h
  starts _ store cfg rate _ _ _ _ := acquiring_supervisorFits store cfg rate
  unpowers p _ := acquiring_supervisorFits p.store.cutOff Configuration.default .r115200
  holds _ h := h
  pins _ _ h := h

/-- Settles O56: requests, replies and reports join their queues only where there is room, and a report only where no queued one
concerns its kind and object. -/
theorem stepKeepsSupervisorFits : Obligations.StepKeepsSupervisorFits := fun _ _ hs ht =>
  whole_step whole_supervisorFits hs ht

/-! ### The configurations (R190) -/

theorem apart_configFits : Apart Part.configFits := ⟨fun _ _ _ _ _ => rfl, fun _ _ _ _ _ => rfl, fun _ _ _ _ => rfl⟩

theorem edits_configFits : Edits Part.configFits where
  share _ _ h := h
  gov _ _ _ h := h
  selection _ _ h := h
  entry _ _ h := h
  inFlight _ _ h := h
  islands _ _ _ _ h := h
  occurs p k o h := (apart_configFits.occur k o p).mpr h
  handed p c a u _ h := (apart_configFits.handOver (.consumer c a) u p).mpr h
  dropped _ _ h := h
  setHanded p k a h := (apart_configFits.handOver (.set k a) false p).mpr h
  setJoined p k a h := (apart_configFits.joinQueues (.set k a) false p).mpr h
  setDropped _ _ h := h
  seqs _ _ _ h := h
  clocked _ _ h := h
  setImages _ _ h := h
  consumerImages _ _ h := h
  meterImages _ _ h := h
  tieImages _ _ _ h := h
  transmits _ _ h := h
  feedbacks _ _ h := h
  receives _ _ h := h
  arbitrates p h := (apart_configFits.arbitrate p).mpr h
  ties _ _ h := h
  mapped _ _ _ _ _ h := h
  seqFree _ _ h := h
  phased _ h := h
  config _ _ hc h := ⟨hc h.1, h.2⟩

theorem rests_configFits : Rests Part.configFits where
  toPlant := edits_configFits.toPlant
  desk _ _ _ _ _ _ _ _ _ _ _ _ h := h
  stores p v hv h := by
    refine ⟨h.1, ?_⟩
    rcases hv with hv | hv
    · exact hv.symm ▸ h.2
    · exact hv.symm ▸ h.1
  starts p store cfg rate _ hstore hcfg h := by
    refine ⟨?_, hstore.symm ▸ h.2⟩
    rcases hcfg with rfl | rfl | rfl
    · exact h.1
    · exact h.2
    · exact default_fits
  unpowers _ h := ⟨default_fits, h.2⟩
  holds _ h := h

theorem whole_configFits : Whole Part.configFits := rests_configFits.wholeOfEdits edits_configFits

/-- Settles O57: every edit brings its values into their ranges, and a SAVE stores the working configuration. -/
theorem stepKeepsConfigFits : Obligations.StepKeepsConfigFits := fun _ _ hs ht => whole_step whole_configFits hs ht

end Sys2Proof.Proofs
end

section
/-! What the edits of the configuration keep, for a condition that reads a part of it: those of the shed list, the standby order
and the enable mask (R101, R131 to R135, R186), and those of a set (R62, R171). -/

namespace Sys2Proof.Proofs

open Sys2Proof.Machine

/-- Kept besides by a new shed list, standby order or enable mask. -/
structure Listing (I : Part → Prop) : Prop extends Plant I where
  listed : ∀ p l, I p → I (withShedList l p)
  ordered : ∀ p l, I p → I { p with cfg := { p.cfg with standby := l } }
  enabled : ∀ p m, I p → I { p with cfg := { p.cfg with enable := m } }

section

variable {I : Part → Prop} {p : Part}

theorem plant_configureConsumer (h : Plant I) (c : ConsumerNo) (hp : I p) : I (configureConsumer c p) := by
  have hreset : I (onConsumerImage c (fun _ => ConsumerImage.reset) p) := h.consumerImages p _ hp
  unfold configureConsumer
  split
  · exact calm_deriveEntry h.toCalm c hreset
  · exact hreset

theorem plant_withdrawOrders (h : Plant I) (c : ConsumerNo) (hp : I p) : I (withdrawOrders c p) := by
  unfold withdrawOrders
  extract_lets queued awaited
  have hqueued : I queued := by
    dsimp only [queued]
    split
    case h_1 a _ _ => exact calm_orderOutcome h.toCalm c a .withdrawn (h.dropped p c hp)
    case h_2 => exact hp
  clear_value queued
  have hawaited : I awaited := by
    dsimp only [awaited]
    split
    case h_1 a _ _ _ => exact calm_orderOutcome h.toCalm c a .withdrawn (plant_dropFeedback h c hqueued)
    case h_2 => exact hqueued
  exact plant_markWithdrawn h _ hawaited

theorem plant_unconfigureConsumer (h : Plant I) (c : ConsumerNo) (hp : I p) : I (unconfigureConsumer c p) := by
  unfold unconfigureConsumer
  extract_lets left
  have hleft : I left := h.consumerImages (onEntry c (fun _ => EntryRecord.reset) (removeRecord c p)) _
    (calm_onEntry h.toCalm c _ (calm_removeRecord h.toCalm c hp))
  clear_value left
  exact plant_withdrawOrders h c (handing_forgetHeavy h.toHanding c hleft)

theorem listing_addEntry (h : Listing I) (c : ConsumerNo) (position : Byte) (fields : List Word) (hp : I p) :
    I (addEntry c position fields p).part := by
  unfold addEntry
  extract_lets w place listed configured
  split
  · exact hp
  · split
    · exact hp
    · split
      · exact calm_collided h.toCalm c hp
      · have hconfigured : I configured := by
          dsimp only [configured]
          split
          · exact plant_configureConsumer h.toPlant c (h.listed p _ hp)
          · exact h.listed p _ hp
        exact keeps_doneOr _ (calm_rebuildSection h.toCalm _ hconfigured)

theorem listing_moveEntry (h : Listing I) (c : ConsumerNo) (position : Byte) (hp : I p) :
    I (moveEntry c position p).part := by
  unfold moveEntry
  split
  · exact hp
  · split
    · exact calm_collided h.toCalm c hp
    · exact keeps_doneOr _ (calm_rebuildSection h.toCalm _ (h.listed p _ hp))

theorem listing_placeConsumer (h : Listing I) (n position : Byte) (move : Bool) (fields : List Word) (hp : I p) :
    I (placeConsumer n position move fields p).part := by
  unfold placeConsumer
  split
  · exact hp
  · split
    · exact listing_moveEntry h _ position hp
    · exact listing_addEntry h _ position fields hp

theorem listing_removeConsumer (h : Listing I) (n : Byte) (hp : I p) : I (removeConsumer n p).part := by
  unfold removeConsumer
  split
  · exact hp
  · split
    · exact hp
    · split
      · exact calm_collided h.toCalm _ hp
      · exact keeps_answered _ (calm_rebuildSection h.toCalm _ (h.listed _ _ (plant_unconfigureConsumer h.toPlant _ hp)))

theorem plant_entryStationWritten (h : Plant I) (c : ConsumerNo) (old new : Nat) (hp : I p) :
    I (entryStationWritten c old new p) := by
  unfold entryStationWritten
  split
  · exact hp
  · split
    · exact plant_configureConsumer h c hp
    · split
      · exact plant_unconfigureConsumer h c hp
      · exact plant_remap h _ hp

theorem plant_entryWritten (h : Plant I) (old new : EntryConfig) (clearTrip : Bool) (hp : I p) :
    I (entryWritten old new clearTrip p) := by
  unfold entryWritten
  extract_lets c stationed moved kinded cleared
  have hmoved : I moved := handing_entrySectionWritten h.toHanding c _ _ (plant_entryStationWritten h c _ _ hp)
  clear_value moved
  have hkinded : I kinded := by
    dsimp only [kinded]
    split
    · exact hmoved
    · exact h.consumerImages _ _ hmoved
  clear_value kinded
  have hcleared : I cleared := by
    dsimp only [cleared]
    split
    · exact calm_onEntry h.toCalm c _ hkinded
    · exact hkinded
  exact calm_rebuildSection h.toCalm _ hcleared

theorem listing_writeConsumer (h : Listing I) (n : Byte) (m : Masked) (hp : I p) : I (writeConsumer n m p).part := by
  unfold writeConsumer
  split
  · exact hp
  · extract_lets w
    split
    · exact calm_collided h.toCalm _ hp
    · split
      · exact hp
      · exact keeps_doneOr _ (plant_entryWritten h.toPlant _ _ _ (h.listed p _ hp))

theorem listing_writeStandbyOrder (h : Listing I) (sets : List Byte) (hp : I p) : I (writeStandbyOrder sets p).part := by
  unfold writeStandbyOrder
  split
  · exact hp
  · split
    · exact hp
    · split
      · exact hp
      · exact handing_testAll h.toHanding (h.ordered p _ hp)

/-! ### WRITE SET and SET MODE -/

/-- Kept besides by a new configuration of a set and by every update of the sets' sequencer records. -/
structure Setting (I : Part → Prop) : Prop extends Plant I where
  setCfgs : ∀ p k f, I p → I (onSetCfg k f p)
  seqFree : ∀ p v, I p → I { p with seq := v }

theorem setting_configureSet (h : Setting I) (k : SetNo) (hp : I p) : I (configureSet k p).part := by
  have hreset : I (onSetImage k (fun _ => SetImage.reset) p) := h.setImages p _ hp
  unfold configureSet
  extract_lets fresh
  split
  · exact h.seqFree _ _ hreset
  · exact hreset

theorem setting_unconfigureSet (h : Setting I) (k : SetNo) (hp : I p) : I (unconfigureSet k p).part :=
  calm_onSelection h.toCalm k _ (calm_onGov h.toCalm k _ (fun _ _ => rfl) (h.seqFree _ _ (h.setImages _ _
    (plant_markWithdrawn h.toPlant _ (h.setDropped p k hp)))))

theorem setting_setStationWritten (h : Setting I) (k : SetNo) (old : Nat) (hp : I p) :
    I (setStationWritten k old p).part := by
  unfold setStationWritten
  extract_lets now
  split
  · exact hp
  · split
    · exact setting_configureSet h k hp
    · split
      · exact setting_unconfigureSet h k hp
      · exact (plant_remap h.toPlant (.set k) hp : I (remap (.set k) p))

theorem setting_deriveSet (h : Setting I) (k : SetNo) (hp : I p) : I (deriveSet k p).part := by
  have hcleared : I (setDeadBusSent k none (setOrigin k none (stopSetTimer k p))) :=
    h.seqFree _ _ (h.seqFree _ _ (h.seqFree _ _ hp))
  unfold deriveSet Sequenced.settle
  extract_lets cleared
  split
  · exact hcleared
  · exact h.seqFree _ _ hcleared

theorem setting_changeMode (h : Setting I) (k : SetNo) (m : Mode) (hp : I p) : I (changeMode k m p).part := by
  have hwritten := h.setCfgs p k (fun c => { c with mode := m }) hp
  simp only [changeMode]
  split
  · exact hp
  · split
    · exact hwritten
    · split
      · exact h.seqFree _ _ (h.seqFree _ _ (h.seqFree _ _
          (units_withdrawSet h.toUnits k (units_stopSetTimer h.toUnits k hwritten))))
      · exact setting_deriveSet h k hwritten
      · exact hwritten

theorem setting_writeSet (h : Setting I) (n : Byte) (m : Masked) (hp : I p) : I (writeSet n m p).part := by
  unfold writeSet
  split
  · exact hp
  · extract_lets old w written stationed moved
    split
    · exact hp
    · have hstationed : I stationed :=
        units_handOn h.toUnits _ (setting_setStationWritten h _ _ (h.setCfgs p _ _ hp))
      clear_value stationed
      have hmoved : I moved := by
        dsimp only [moved]
        split
        · exact hstationed
        · exact calm_rebuildSection h.toCalm _ (calm_rebuildSection h.toCalm _ hstationed)
      exact keeps_doneOr _ (units_handOn h.toUnits _ (setting_changeMode h _ _ hmoved))

theorem setting_serveSetMode (h : Setting I) (n : Byte) (m : Mode) (hp : I p) : I (serveSetMode n m p).part := by
  unfold serveSetMode
  split
  · exact keeps_answered _ (units_handOn h.toUnits _ (setting_changeMode h _ m hp))
  · exact hp

/-! ### Serving -/

/-- Serving any request keeps the condition where WRITE SET, SET MODE and WRITE PLANT do, and a change of the raw flags, the
allowance, the store and the RESTART served. -/
theorem listing_serveOwn (h : Listing I) (hset : ∀ n m, I (writeSet n m p).part)
    (hmode : ∀ n m, I (serveSetMode n m p).part) (hplant : ∀ m, I (writePlant m p).part)
    (hraw : ∀ v, I { p with rawFlags := v }) (hall : ∀ n, I { p with allowance := n })
    (hsave : ∀ serial, I (beginSave serial p)) (hres : ∀ n : Nat, I { p with restarting := some n })
    (r : Request) (serial : Nat) (hp : I p) : I (serveOwn r serial p).part := by
  cases r with
  | identify | readFlags | readPlant => exact hp
  | readSet n => exact keeps_serveReadSet n hp
  | readConsumer n => exact keeps_serveReadConsumer n hp
  | readIsland s first => exact calm_serveReadIsland h.toCalm s first hp
  | readContingency s n first => exact keeps_serveReadContingency s n first hp
  | readHistory s first => exact keeps_serveReadHistory s first hp
  | writeSet n mask fields => exact hset n _
  | writeConsumer n mask fields => exact listing_writeConsumer h n _ hp
  | writePlant mask fields => exact hplant _
  | placeConsumer n position move fields => exact listing_placeConsumer h n position move fields hp
  | removeConsumer n => exact listing_removeConsumer h n hp
  | writeStandbyOrder sets => exact listing_writeStandbyOrder h sets hp
  | setMode n m => exact hmode n m
  | commandSet n a => exact units_serveCommandSet h.toUnits n a hp
  | shedConsumer n => exact handing_serveShed h.toHanding n hp
  | releaseConsumer n => exact calm_serveRelease h.toCalm n hp
  | restoreStep s => exact calm_serveRestoreStep h.toCalm s hp
  | clearFlags mask => exact hraw _
  | enableFlags mask => exact h.enabled p _ hp
  | grantReports n => exact hall _
  | save => exact hsave serial
  | restart => exact hres serial

end

end Sys2Proof.Proofs
end

section
/-! The island map (R12, R13, R17 to R21): a merge takes one island record away and a split adds one, and so the records are
those of the map that the ties make. -/

namespace Sys2Proof.Proofs

open Sys2Proof.Machine

/-! ### Which island records a merge and a split leave -/

/-- The three groups that no unit changes stand as in `a`, and the islands with a record are these. -/
def Shaped (a : Part) (v : IslandNo → Bool) (p : Part) : Prop := p.aside = a.aside ∧ ∀ i : IslandNo, p.islands[i].isSome = v i

theorem units_shaped (a : Part) (v : IslandNo → Bool) : Units (Shaped a v) where
  share _ _ h := h
  gov _ _ _ h := h
  selection _ _ h := h
  entry _ _ h := h
  inFlight _ _ h := h
  islands _ _ hsome _ h := ⟨h.1, fun i => (hsome i).trans (h.2 i)⟩
  occurs p k o h := by
    obtain ⟨f, r, t, n, e⟩ := occur_eq k o p
    exact e ▸ h
  handed p c a u _ h := by
    obtain ⟨x, y, n, f, r, t, m, v, e⟩ := handOver_eq (.consumer c a) u p
    exact e ▸ h
  dropped _ _ h := h
  setHanded p k a h := by
    obtain ⟨x, y, n, f, r, t, m, v, e⟩ := handOver_eq (.set k a) false p
    exact e ▸ h
  setJoined p k a h := by
    obtain ⟨x, y, n, f, r, t, m, e⟩ := joinQueues_eq (.set k a) false p
    exact e ▸ h
  setDropped _ _ h := h
  seqs _ _ _ h := h

section

variable {p a : Part} {v : IslandNo → Bool}

theorem shedMerge_shaped (lo hi : IslandNo) (h : Shaped a v p) :
    Shaped a (fun i => decide (i ≠ hi) && v i) (shedMerge lo hi p) := by
  have hu := units_shaped a v
  unfold shedMerge
  extract_lets abandoned ra rb joined ceased waiting
  have habandoned : Shaped a v abandoned := calm_abandonRestore hu.toCalm hi (calm_abandonRestore hu.toCalm lo h)
  have hjoined : Shaped a v joined := calm_onIsland_queue hu.toCalm lo _ (fun _ => rfl) habandoned
  clear_value joined
  have hceased : Shaped a (fun i => decide (i ≠ hi) && v i) ceased := by
    refine ⟨hjoined.1, fun i => ?_⟩
    by_cases hi' : i = hi
    · subst hi'; simp [ceased]
    · have : hi.val ≠ i.val := fun e => hi' (Fin.ext e.symm)
      simpa [ceased, hi', Vector.getElem_set_ne, this] using hjoined.2 i
  clear_value ceased
  have hn := units_shaped a (fun i => decide (i ≠ hi) && v i)
  have hwaiting : Shaped a (fun i => decide (i ≠ hi) && v i) waiting := calm_retrigger hn.toCalm lo hceased
  split
  · exact calm_rebuild hn.toCalm lo hwaiting
  · exact handing_clearDead hn.toHanding lo hwaiting

/-- A merge leaves every record but the absorbed island's (R19). -/
theorem mergeIslands_shaped (lo hi : IslandNo) (h : Shaped a v p) :
    Shaped a (fun i => decide (i ≠ hi) && v i) (mergeIslands lo hi p) := by
  have hu := units_shaped a v
  have hn := units_shaped a (fun i => decide (i ≠ hi) && v i)
  unfold mergeIslands
  extract_lets synced abandoned merged handed
  have hsynced : Shaped a v synced.part := units_syncAgree hu lo (hu.occurs p .islandChange (.island lo) h)
  have habandoned : Shaped a v abandoned.part := units_abandonStopping hu _ hi (units_abandonStopping hu _ lo
    (keeps_on synced _ (calm_shareMerge hu.toCalm lo hi hsynced)))
  have hhanded : Shaped a (fun i => decide (i ≠ hi) && v i) handed := units_handOn hn merged (keeps_on _ _
    (shedMerge_shaped lo hi (keeps_on abandoned _ (handing_reserveMerge hu.toHanding lo hi habandoned))))
  clear_value handed
  split
  · exact handing_testIsland hn.toHanding lo hhanded
  · exact units_handOn hn _ (handing_blackoutStart hn.toHanding lo hhanded)

/-- A split adds the new island's record (R20). -/
theorem splitIsland_shaped (keep other : IslandNo) (was : Bool) (h : Shaped a v p) :
    Shaped a (fun i => decide (i = other) || v i) (splitIsland keep other was p) := by
  have hu := units_shaped a (fun i => decide (i = other) || v i)
  have hc := hu.toCalm
  unfold splitIsland
  extract_lets created told first second synced abandoned original reserved shed
  have hcreated : Shaped a (fun i => decide (i = other) || v i) created := by
    refine ⟨h.1, fun i => ?_⟩
    by_cases hi : i = other
    · subst hi; simp [created]
    · have : other.val ≠ i.val := fun e => hi (Fin.ext e.symm)
      simpa [created, hi, Vector.getElem_set_ne, this] using h.2 i
  clear_value created
  have hsecond : Shaped a (fun i => decide (i = other) || v i) second.part :=
    units_syncAgree hu other (units_syncAgree hu keep (hc.occurs _ _ _ (hc.occurs _ _ _ hcreated)))
  have hsynced : Shaped a (fun i => decide (i = other) || v i) synced.part := by dsimp only [synced]; exact hsecond
  clear_value synced
  have habandoned : Shaped a (fun i => decide (i = other) || v i) abandoned.part := units_abandonStopping hu _ keep
    (keeps_on synced _ (calm_shareSplit hc other (calm_shareSplit hc keep hsynced)))
  have hreserved : Shaped a (fun i => decide (i = other) || v i) reserved.part := calm_splitReserves hc keep other habandoned
  clear_value reserved
  have hshed : Shaped a (fun i => decide (i = other) || v i) shed.part := keeps_on reserved _ (calm_rebuild hc other
    (calm_rebuild hc keep (calm_shedSplit hc other _ (calm_shedSplit hc keep _ (calm_abandonRestore hc keep hreserved)))))
  clear_value shed
  exact handing_yieldSplit hu.toHanding was other (handing_yieldSplit hu.toHanding was keep (units_handOn hu _ hshed))

end

/-! ### A tie's change and the names of the islands -/

theorem forall_ties {P : Vector Bool 4 → Prop} (h : ∀ a b c d, P #v[a, b, c, d]) (v : Vector Bool 4) : P v := by
  have hv : v = #v[v[0], v[1], v[2], v[3]] := by
    ext i hi
    match i, hi with
    | 0, _ | 1, _ | 2, _ | 3, _ => rfl
  exact hv ▸ h _ _ _ _

/-- The section gives its island its name (R12). -/
def named (joins : Vector Bool 4) (i : IslandNo) : Bool := decide ((islandMapOf joins)[i] = i)

/-- A tie that comes to join two islands takes the later name away (R17, R19). -/
theorem named_of_merge (joins : Vector Bool 4) (t : TieNo) (h : islandMapOf (joins.set t true) ≠ islandMapOf joins)
    (i : IslandNo) : named (joins.set t true) i = (decide (i ≠ max (islandMapOf joins)[t] (islandMapOf joins)[t + 1])
      && named joins i) := by
  revert t i
  refine forall_ties (P := fun joins => ∀ t : TieNo, islandMapOf (joins.set t true) ≠ islandMapOf joins →
    ∀ i : IslandNo, named (joins.set t true) i = (decide (i ≠ max (islandMapOf joins)[t] (islandMapOf joins)[t + 1])
      && named joins i)) ?_ joins
  decide +kernel

/-- A tie that no longer joins its sections gives the later of their islands its name (R17, R20). -/
theorem named_of_split (joins : Vector Bool 4) (t : TieNo) (h : islandMapOf (joins.set t false) ≠ islandMapOf joins)
    (i : IslandNo) : named (joins.set t false) i
      = (decide (i = max (islandMapOf (joins.set t false))[t] (islandMapOf (joins.set t false))[t + 1])
          || named joins i) := by
  revert t i
  refine forall_ties (P := fun joins => ∀ t : TieNo, islandMapOf (joins.set t false) ≠ islandMapOf joins →
    ∀ i : IslandNo, named (joins.set t false) i
      = (decide (i = max (islandMapOf (joins.set t false))[t] (islandMapOf (joins.set t false))[t + 1])
          || named joins i)) ?_ joins
  decide +kernel

/-- The island map is that of the recorded ties, with a record for each island (R12, R13). -/
def MapHolds (p : Part) : Prop :=
  p.islandMap = some (islandMapOf p.tieJoins) ∧ ∀ i : IslandNo, p.islands[i].isSome = named p.tieJoins i

/-- A tie's change is recorded, and the map made anew; nothing else of the three groups is changed (R17). -/
theorem tieChanged_shaped {p : Part} (h : MapHolds p) (t : TieNo) (joins : Bool) :
    Shaped { p with tieJoins := p.tieJoins.set t joins, islandMap := some (islandMapOf (p.tieJoins.set t joins)) }
      (named (p.tieJoins.set t joins)) (tieChanged t joins p) := by
  obtain ⟨hmap, hsome⟩ := h
  unfold tieChanged
  simp only [hmap]
  by_cases hsame : islandMapOf (p.tieJoins.set t joins) = islandMapOf p.tieJoins
  · rw [if_pos (by simpa using hsame)]
    refine ⟨by rw [hsame, ← hmap], fun i => ?_⟩
    have : named (p.tieJoins.set t joins) i = named p.tieJoins i := by simp only [named, hsame]
    exact (hsome i).trans this.symm
  · rw [if_neg (by simpa using hsame)]
    cases joins with
    | true =>
      rw [if_pos rfl]
      refine funext (named_of_merge p.tieJoins t hsame) ▸ mergeIslands_shaped _ _ ⟨rfl, fun i => hsome i⟩
    | false =>
      rw [if_neg Bool.false_ne_true]
      refine funext (named_of_split p.tieJoins t hsame) ▸ splitIsland_shaped _ _ _ ⟨rfl, fun i => hsome i⟩

theorem tieChanged_mapHolds {p : Part} (h : MapHolds p) (t : TieNo) (joins : Bool) : MapHolds (tieChanged t joins p) := by
  obtain ⟨ha, hs⟩ := tieChanged_shaped h t joins
  simp only [Part.aside, Part.settings, Part.desk, Part.seen, Prod.mk.injEq] at ha
  obtain ⟨-, ⟨-, -, -, hj, hm⟩, -⟩ := ha
  exact ⟨by rw [hm, hj], fun i => by rw [hs i, hj]⟩

/-! ### Every step keeps the map (R12, R13, R17, R21) -/

/-- The recorded ties are those that join now, and the map is theirs. -/
def MapStands (p : Part) : Prop := p.tieJoins = Vector.ofFn (tieJoinsNow p) ∧ MapHolds p

theorem mapFollows_iff (p : Part) : p.mapFollows ↔
    (p.phase = .acquire → p.islandMap = none ∧ ∀ i : IslandNo, p.islands[i].isSome = false)
      ∧ (p.phase = .run → MapStands p) := by
  simp only [Part.mapFollows, MapStands, MapHolds, named, Option.isSome_eq_false_iff, Option.isNone_iff_eq_none]

theorem apart_mapFollows : Apart Part.mapFollows := ⟨fun _ _ _ _ _ => rfl, fun _ _ _ _ _ => rfl, fun _ _ _ _ => rfl⟩

theorem tieJoinsNow_congr (p q : Part) (t : TieNo) (hc : q.cfg.plant = p.cfg.plant)
    (ht : q.tieImage[t].closed = p.tieImage[t].closed) : tieJoinsNow q t = tieJoinsNow p t := by
  simp only [tieJoinsNow, tieConfigured, hc, ht]

theorem plant_mapFollows : Plant Part.mapFollows where
  share _ _ h := h
  gov _ _ _ h := h
  selection _ _ h := h
  entry _ _ h := h
  inFlight _ _ h := h
  islands p v hv _ h := by
    rw [mapFollows_iff] at h ⊢
    exact ⟨fun ha => ⟨(h.1 ha).1, fun i => (hv i).trans ((h.1 ha).2 i)⟩,
      fun hr => ⟨(h.2 hr).1, (h.2 hr).2.1, fun i => (hv i).trans ((h.2 hr).2.2 i)⟩⟩
  occurs p k o h := (apart_mapFollows.occur k o p).mpr h
  handed p c a u _ h := (apart_mapFollows.handOver (.consumer c a) u p).mpr h
  dropped _ _ h := h
  setHanded p k a h := (apart_mapFollows.handOver (.set k a) false p).mpr h
  setJoined p k a h := (apart_mapFollows.joinQueues (.set k a) false p).mpr h
  setDropped _ _ h := h
  seqs _ _ _ h := h
  clocked _ _ h := h
  setImages _ _ h := h
  consumerImages _ _ h := h
  meterImages _ _ h := h
  tieImages p v hv h := by
    rw [mapFollows_iff] at h ⊢
    refine ⟨h.1, fun hr => ⟨(h.2 hr).1.trans ?_, (h.2 hr).2⟩⟩
    exact congrArg Vector.ofFn (funext fun t => (tieJoinsNow_congr p { p with tieImage := v } t rfl (hv t)).symm)
  transmits _ _ h := h
  feedbacks _ _ h := h
  receives _ _ h := h
  arbitrates p h := (apart_mapFollows.arbitrate p).mpr h

theorem listing_mapFollows : Listing Part.mapFollows where
  toPlant := plant_mapFollows
  listed _ _ h := h
  ordered _ _ h := h
  enabled _ _ h := h

theorem setting_mapFollows : Setting Part.mapFollows where
  toPlant := plant_mapFollows
  setCfgs _ _ _ h := h
  seqFree _ _ h := h

theorem rests_mapFollows : Rests Part.mapFollows where
  toPlant := plant_mapFollows
  desk _ _ _ _ _ _ _ _ _ _ _ _ h := h
  stores _ _ _ h := h
  starts _ _ _ _ _ _ _ _ := by simp [mapFollows_iff, Part.acquiring]
  unpowers _ _ := by simp [mapFollows_iff, Part.unpowered, Part.acquiring]
  holds _ h := h

/-- In ACQUIRE a tie's change is not recorded (R21). -/
theorem tieChanged_of_none {p : Part} (h : p.islandMap = none) (t : TieNo) (joins : Bool) : tieChanged t joins p = p := by
  simp only [tieChanged, h]

section

variable {p : Part} {t : TieNo}

/-- What a tie's change leaves of the recorded ties, in RUN. -/
theorem tieChanged_fields (h : MapHolds p) (joins : Bool) :
    (tieChanged t joins p).phase = p.phase ∧ (tieChanged t joins p).cfg = p.cfg
      ∧ (tieChanged t joins p).tieImage = p.tieImage ∧ (tieChanged t joins p).tieJoins = p.tieJoins.set t joins := by
  obtain ⟨ha, -⟩ := tieChanged_shaped h t joins
  simp only [Part.aside, Part.settings, Part.desk, Part.seen, Prod.mk.injEq] at ha
  obtain ⟨-, ⟨hcfg, hphase, -, hjoins, -⟩, -, -, -, -, -, -, htie⟩ := ha
  exact ⟨hphase, hcfg, htie, hjoins⟩

/-- A record of a configured tie that changes its position makes the map anew (R17). -/
theorem tieStatus_mapFollows (closed : Bool) (hc : tieConfigured p t = true) (h : p.mapFollows) :
    (tieStatus t closed p).mapFollows := by
  unfold tieStatus
  extract_lets written
  split
  case isTrue hsame =>
    refine plant_onTieImage plant_mapFollows t _ ?_ h
    exact (beq_iff_eq.mp hsame).symm
  case isFalse =>
    rw [mapFollows_iff] at h ⊢
    cases hphase : p.phase with
    | acquire =>
      have hnone : written.islandMap = none := (h.1 hphase).1
      rw [tieChanged_of_none hnone]
      exact ⟨fun _ => h.1 hphase, fun hr => by cases hphase.symm.trans hr⟩
    | run =>
      obtain ⟨hjoins, hmap⟩ := h.2 hphase
      have hholds : MapHolds written := hmap
      obtain ⟨hph, hcfg, hties, hset⟩ := tieChanged_fields (t := t) hholds closed
      refine ⟨fun ha => ?_, fun _ => ⟨?_, tieChanged_mapHolds hholds t closed⟩⟩
      · cases (hph.symm.trans ha).symm.trans hphase
      · rw [hset]
        ext u hu
        have hjoin : tieJoinsNow (tieChanged t closed written) ⟨u, hu⟩ = tieJoinsNow written ⟨u, hu⟩ :=
          tieJoinsNow_congr _ _ _ (congrArg Configuration.plant hcfg) (by rw [hties])
        have hold : p.tieJoins[u] = tieJoinsNow p ⟨u, hu⟩ := by rw [hjoins]; simp
        rw [Vector.getElem_set, Vector.getElem_ofFn, hjoin]
        split
        case isTrue htu =>
          subst htu
          have : tieConfigured written t = true := hc
          simp [tieJoinsNow, this, written]
        case isFalse htu =>
          rw [show written.tieJoins = p.tieJoins from rfl, hold]
          have hne : t ≠ ⟨u, hu⟩ := fun e => htu (congrArg Fin.val e)
          refine (tieJoinsNow_congr p written _ rfl ?_).symm
          simp [written, modifyAt_other p.tieImage t ⟨u, hu⟩ _ hne]

end

theorem takeRecord_mapFollows {p : Part} (station : Nat) (bytes : List Byte) (h : p.mapFollows) :
    (takeRecord station bytes p).mapFollows := by
  have hp := plant_mapFollows
  unfold takeRecord
  split
  · exact hp.occurs _ _ _ h
  · rename_i r _
    split
    · exact hp.occurs _ _ _ h
    case isFalse hconf =>
      split
      · exact hp.occurs _ _ _ h
      · cases r with
        | set k running closed kw trip => exact plant_setStatus hp k running closed kw trip h
        | consumer c closed kw limit => exact plant_consumerStatus hp c closed kw limit h
        | meter s voltage freq => exact plant_meterStatus hp s voltage freq h
        | tie t closed => exact tieStatus_mapFollows closed (by simpa [StationRecord.object, objectConfigured] using hconf) h
        | heavy c kw => exact handing_heavyRequest hp.toHanding c kw h

/-! ### WRITE PLANT: the ties one after another (R10, R17, R173) -/

/-- While WRITE PLANT takes the ties in turn, those still to come are recorded as under the old settings. -/
def TiesTodo (old : PlantConfig) (todo : List TieNo) (p : Part) : Prop :=
  (p.phase = .acquire → p.islandMap = none ∧ ∀ i : IslandNo, p.islands[i].isSome = false)
    ∧ (p.phase = .run → MapHolds p ∧ ∀ t : TieNo, p.tieJoins[t] =
        if t ∈ todo then old.tiePresent[t] && stationAssigned old.tieStation[t] && p.tieImage[t].closed else tieJoinsNow p t)

theorem tiesTodo_nil (old : PlantConfig) (p : Part) : TiesTodo old [] p ↔ p.mapFollows := by
  rw [mapFollows_iff]
  refine and_congr_right fun _ => imp_congr_right fun _ => ?_
  rw [MapStands, and_comm]
  refine and_congr_left fun _ => ⟨fun h => ?_, fun h t => by simp [h]⟩
  ext u hu
  simpa using h ⟨u, hu⟩

section

variable {p q : Part} {t : TieNo} {todo : List TieNo} {old : PlantConfig}

/-- One tie is taken: its own record and recorded state apart, nothing that the condition reads is changed. -/
theorem TiesTodo.take (h : TiesTodo old (t :: todo) p) (hphase : q.phase = p.phase) (hcfg : q.cfg = p.cfg)
    (hnone : p.islandMap = none → q.islandMap = none ∧ ∀ i : IslandNo, q.islands[i].isSome = p.islands[i].isSome)
    (hholds : MapHolds p → MapHolds q)
    (hothers : MapHolds p → ∀ u, u ≠ t → q.tieImage[u] = p.tieImage[u] ∧ q.tieJoins[u] = p.tieJoins[u])
    (hself : MapHolds p → p.tieJoins[t] = (old.tiePresent[t] && stationAssigned old.tieStation[t] && p.tieImage[t].closed) →
      t ∉ todo ∧ q.tieJoins[t] = tieJoinsNow q t) : TiesTodo old todo q := by
  refine ⟨fun ha => ?_, fun hr => ?_⟩
  · obtain ⟨hn, hs⟩ := h.1 (hphase.symm.trans ha)
    exact ⟨(hnone hn).1, fun i => ((hnone hn).2 i).trans (hs i)⟩
  · obtain ⟨hm, hj⟩ := h.2 (hphase.symm.trans hr)
    refine ⟨hholds hm, fun u => ?_⟩
    by_cases hu : u = t
    · subst hu
      obtain ⟨hmem, he⟩ := hself hm (by simpa using hj u)
      rw [if_neg hmem, he]
    · obtain ⟨himage, hjoin⟩ := hothers hm u hu
      rw [hjoin, hj u, himage, tieJoinsNow_congr p q u (congrArg Configuration.plant hcfg) (congrArg _ himage)]
      simp [hu]

theorem tieWritten_tiesTodo (ht : t ∉ todo) (h : TiesTodo old (t :: todo) p) : TiesTodo old todo (tieWritten old p t) := by
  have hreset_others (f : TieImage → TieImage) (u : TieNo) (hu : u ≠ t) : (onTieImage t f p).tieImage[u] = p.tieImage[u] := by
    simpa using modifyAt_other p.tieImage t u f hu.symm
  unfold tieWritten
  extract_lets was reset
  split
  case h_1 hwas _ =>
    refine h.take rfl rfl (fun hn => ⟨hn, fun _ => rfl⟩) (fun hm => hm) (fun _ u hu => ⟨hreset_others _ u hu, rfl⟩)
      fun _ hj => ⟨ht, ?_⟩
    have hw : (old.tiePresent[t] && stationAssigned old.tieStation[t]) = false := hwas
    simp only [onTieImage_tieJoins]
    rw [hj, hw]
    simp [tieJoinsNow, TieImage.reset]
  case h_2 hwas hnow =>
    have hnot (q : Part) (hq : q.cfg = p.cfg) : tieJoinsNow q t = false := by
      have : tieConfigured q t = false := by rw [← hnow, tieConfigured, tieConfigured, hq]
      simp [tieJoinsNow, this]
    have hmap : MapHolds p → MapHolds reset := fun hm => hm
    split
    case isTrue =>
      by_cases hn : p.islandMap = none
      · have hn' : reset.islandMap = none := hn
        rw [tieChanged_of_none hn']
        refine h.take rfl rfl (fun _ => ⟨hn, fun _ => rfl⟩) hmap (fun hm => ?_) fun hm => ?_
        all_goals exact absurd hn (by rw [hm.1]; simp)
      · obtain ⟨hphase, hrest⟩ : (tieChanged t false reset).phase = p.phase ∧ (tieChanged t false reset).cfg = p.cfg
            ∧ (MapHolds p → (tieChanged t false reset).tieImage = reset.tieImage
              ∧ (tieChanged t false reset).tieJoins = p.tieJoins.set t false) := by
          cases hp : p.phase with
          | acquire => exact absurd (h.1 hp).1 hn
          | run =>
            have hm := (h.2 hp).1
            obtain ⟨hph, hcfg, himage, hjoins⟩ := tieChanged_fields (t := t) (hmap hm) false
            exact ⟨hph.trans hp, hcfg, fun _ => ⟨himage, hjoins⟩⟩
        obtain ⟨hcfg, hfields⟩ := hrest
        refine h.take hphase hcfg (fun hn' => absurd hn' hn) (fun hm => tieChanged_mapHolds (hmap hm) t false)
          (fun hm u hu => ?_) fun hm _ => ⟨ht, ?_⟩
        · obtain ⟨himage, hjoins⟩ := hfields hm
          rw [himage, hjoins]
          refine ⟨hreset_others _ u hu, ?_⟩
          have : t.val ≠ u.val := fun e => hu (Fin.ext e.symm)
          simp [Vector.getElem_set_ne, this]
        · obtain ⟨-, hjoins⟩ := hfields hm
          rw [hjoins, hnot _ hcfg]
          simp
    case isFalse hopen =>
      refine h.take rfl rfl (fun hn => ⟨hn, fun _ => rfl⟩) hmap (fun _ u hu => ⟨hreset_others _ u hu, rfl⟩)
        fun _ hj => ⟨ht, ?_⟩
      rw [hnot reset rfl]
      simp only [reset, onTieImage_tieJoins]
      rw [hj, Bool.eq_false_iff.mpr hopen, Bool.and_false]
  case h_3 hwas hnow =>
    have hw : (old.tiePresent[t] && stationAssigned old.tieStation[t]) = true := hwas
    split
    case isTrue =>
      refine h.take rfl rfl (fun hn => ⟨hn, fun _ => rfl⟩) (fun hm => hm) (fun _ u _ => ⟨rfl, rfl⟩) fun _ hj => ⟨ht, ?_⟩
      rw [hj, hw, tieJoinsNow, hnow]
    case isFalse =>
      refine h.take rfl rfl (fun hn => ⟨hn, fun _ => rfl⟩) (fun hm => hm) (fun _ u hu => ⟨hreset_others _ u hu, rfl⟩)
        fun _ hj => ⟨ht, ?_⟩
      have hnow' : tieConfigured (remap (.tie t) p) t = true := hnow
      rw [tieJoinsNow, hnow']
      simp only [remap, onFresh, onTieImage_tieJoins, onTieImage_tieImage, Fin.getElem_fin, modifyAt_self]
      simp only [Fin.getElem_fin] at hj hw
      rw [hj, hw]
  case h_4 hwas hnow =>
    have hw : (old.tiePresent[t] && stationAssigned old.tieStation[t]) = false := hwas
    refine h.take rfl rfl (fun hn => ⟨hn, fun _ => rfl⟩) (fun hm => hm) (fun _ u _ => ⟨rfl, rfl⟩) fun _ hj => ⟨ht, ?_⟩
    rw [hj, hw, tieJoinsNow, hnow]

theorem foldl_tieWritten_tiesTodo (l : List TieNo) (hl : l.Nodup) (h : TiesTodo old l p) :
    TiesTodo old [] (l.foldl (tieWritten old) p) := by
  induction l generalizing p with
  | nil => exact h
  | cons t l ih =>
    obtain ⟨ht, hl⟩ := List.nodup_cons.mp hl
    exact ih hl (tieWritten_tiesTodo ht h)

end

theorem plant_meterWritten {I : Part → Prop} {p : Part} (h : Plant I) (old : PlantConfig) (s : SectionNo) (hp : I p) :
    I (meterWritten old p s) := by
  simp only [meterWritten]
  split
  · split
    · exact hp
    · exact plant_remap h _ hp
  · exact hp
  · exact h.meterImages p _ hp

/-- The meters, the tables, the pacers and the tests of WRITE PLANT, the ties having been taken. -/
theorem plant_writePlant {I : Part → Prop} {p : Part} (h : Plant I) (m : Masked)
    (hp : I (allTies.foldl (tieWritten p.cfg.plant)
      { p with cfg := { p.cfg with plant := (writtenPlant m p.cfg.plant).value } })) : I (writePlant m p).part := by
  unfold writePlant
  extract_lets old w src written tied metered tabled held
  have hmetered : I metered := fold_keeps _ _ (fun _ s hq => plant_meterWritten h old s hq) hp
  clear_value metered
  have htabled : I tabled := by
    dsimp only [tabled]
    split
    · exact hmetered
    · exact fold_keeps _ _ (fun _ i hq => calm_rebuild h.toCalm i hq) hmetered
  clear_value tabled
  have hheld : I held := by
    dsimp only [held]
    split
    · exact calm_releaseHeld h.toCalm htabled
    · exact htabled
  exact keeps_doneOr _ (handing_testAll h.toHanding hheld)

/-- As WRITE PLANT begins, every tie is still to come. -/
theorem tiesTodo_written {p : Part} (m : Masked) (h : p.mapFollows) : TiesTodo p.cfg.plant allTies
    { p with cfg := { p.cfg with plant := (writtenPlant m p.cfg.plant).value } } := by
  rw [mapFollows_iff] at h
  refine ⟨h.1, fun hr => ⟨(h.2 hr).2, fun t => ?_⟩⟩
  rw [if_pos (by revert t; decide)]
  have hjoins := (h.2 hr).1
  simp only [hjoins, Fin.getElem_fin, Vector.getElem_ofFn]
  rfl

theorem writePlant_mapFollows {p : Part} (m : Masked) (h : p.mapFollows) : (writePlant m p).part.mapFollows :=
  plant_writePlant plant_mapFollows m
    ((tiesTodo_nil p.cfg.plant _).mp (foldl_tieWritten_tiesTodo _ (by decide) (tiesTodo_written m h)))

theorem serveOwn_mapFollows {p : Part} (r : Request) (serial : Nat) (h : p.mapFollows) :
    (serveOwn r serial p).part.mapFollows :=
  listing_serveOwn listing_mapFollows (fun n m => setting_writeSet setting_mapFollows n m h)
    (fun n m => setting_serveSetMode setting_mapFollows n m h) (fun m => writePlant_mapFollows m h) (fun _ => h)
    (fun _ => h) (fun _ => h) (fun _ => h) r serial h

/-! ### The end of ACQUIRE (R21, R189) -/

/-- A set's derivation changes its sequencer record alone (R61). -/
theorem deriveSet_eq (k : SetNo) (p : Part) : ∃ v, (deriveSet k p).part = { p with seq := v } := by
  unfold deriveSet Sequenced.settle
  extract_lets cleared
  split <;> exact ⟨_, rfl⟩

/-- The derivation of states changes the sequencer records and the entries alone (R61, R126). -/
theorem deriveStates_eq (p : Part) : ∃ v w, deriveStates p = { p with seq := v, entry := w } := by
  unfold deriveStates
  extract_lets sets
  obtain ⟨v, hv⟩ : ∃ v, sets = { p with seq := v } :=
    fold_keeps (I := fun q => ∃ v, q = { p with seq := v }) _ _ (fun q k ⟨v, hq⟩ => by
      obtain ⟨v', e⟩ := deriveSet_eq k q
      exact ⟨v', by rw [e, hq]⟩) ⟨p.seq, rfl⟩
  obtain ⟨w, hw⟩ : ∃ w, (allConsumers.filter (consumerConfigured p)).foldl (fun q c => deriveEntry c q) sets
      = { sets with entry := w } :=
    fold_keeps (I := fun q => ∃ w, q = { sets with entry := w }) _ _ (fun q c ⟨w, hq⟩ => by
      subst hq
      exact ⟨_, rfl⟩) ⟨sets.entry, rfl⟩
  exact ⟨v, w, by rw [hw, hv]⟩

theorem mapHolds_buildIslands (p : Part) : MapHolds (buildIslands p) := by
  refine ⟨rfl, fun i => ?_⟩
  simp only [buildIslands, named, Fin.getElem_fin, Vector.getElem_ofFn]
  split
  case isTrue h => simp [h]
  case isFalse h => simp [h]

/-- With the islands built, the rest of the end of ACQUIRE keeps what the island map is read from (R21). -/
theorem endAcquire_shaped (p : Part) : ∃ built opened, built = buildIslands (staleRemaining p)
    ∧ endAcquire p = { opened with phase := .run, acquireAt := none } ∧ Shaped built (named built.tieJoins) opened := by
  refine ⟨buildIslands (staleRemaining p), _, rfl, rfl, ?_⟩
  have hholds := mapHolds_buildIslands (staleRemaining p)
  generalize buildIslands (staleRemaining p) = built at hholds ⊢
  have hu := units_shaped built (named built.tieJoins)
  refine fold_keeps _ _ (fun _ i hq => handing_openIsland hu.toHanding i hq)
    (fold_keeps _ _ (fun _ i hq => calm_rebuild hu.toCalm i hq) ?_)
  obtain ⟨v, w, e⟩ := deriveStates_eq built
  rw [e]
  exact ⟨rfl, hholds.2⟩

theorem tieJoins_buildIslands (p : Part) : (buildIslands p).tieJoins = Vector.ofFn (tieJoinsNow (buildIslands p)) := rfl

theorem endAcquire_mapFollows (p : Part) : (endAcquire p).mapFollows := by
  obtain ⟨built, opened, hbuilt, e, ha, hs⟩ := endAcquire_shaped p
  have hholds : MapHolds built := hbuilt ▸ mapHolds_buildIslands _
  have hties : built.tieJoins = Vector.ofFn (tieJoinsNow built) := by rw [hbuilt]; exact tieJoins_buildIslands _
  simp only [Part.aside, Part.settings, Part.desk, Part.seen, Prod.mk.injEq] at ha
  obtain ⟨-, ⟨hcfg, -, -, hjoins, hmap⟩, -, -, -, -, -, -, himage⟩ := ha
  rw [e, mapFollows_iff]
  refine ⟨fun h => (nomatch h), fun _ => ⟨?_, ?_, fun i => (hs i).trans (by rw [← hjoins])⟩⟩
  · refine (hjoins.trans hties).trans (congrArg Vector.ofFn (funext fun t => ?_))
    exact tieJoinsNow_congr _ _ t (congrArg Configuration.plant hcfg.symm) (by rw [← himage])
  · exact hmap.trans (by rw [hholds.1, ← hjoins])

theorem whole_mapFollows : Whole Part.mapFollows :=
  rests_mapFollows.whole (fun _ station bytes h => takeRecord_mapFollows station bytes h)
    (fun _ r serial h => serveOwn_mapFollows r serial h) (fun p _ _ => endAcquire_mapFollows p)

/-- Settles O58: ties are recorded as they change, each change makes the map anew, and the map's islands have the records. -/
theorem stepKeepsMapFollows : Obligations.StepKeepsMapFollows := fun _ _ hs ht => whole_step whole_mapFollows hs ht

end Sys2Proof.Proofs
end

section
/-! The sets' states (R42). A set whose station address is neither 0 nor one of 1 to 62 is not configured, and R41 gives no such
address; but no hypothesis of the statement keeps the configuration in its ranges. WRITE SET takes a set from such an address to
address 0 as a set that becomes configured. -/

namespace Sys2Proof.Proofs

open Sys2Proof.Machine

/-- The part after reset, but that set 1 has the station address 63. -/
def strayPart : Part :=
  { State.reset.part with
    cfg := { Configuration.default with
      sets := Configuration.default.sets.set 0 { SetConfig.default with station := 63 } } }

/-- WRITE SET for set 1 with the station address 0 and no other field present. -/
def strayWrite : Instr := .writeSet 0 1 1024#16 (List.replicate 9 1#32 ++ [0#32, 0#32])

theorem strayPart_statesExist : strayPart.statesExist := by
  unfold Part.statesExist
  decide

/-- The set is put in a state, and stays unconfigured. -/
theorem strayWrite_enters :
    (match step { part := strayPart, pending := [strayWrite] } with
      | .next t => t.part.seq[(0 : SetNo)].state == some .standby && !setConfigured t.part 0
      | _ => false) = true := by
  decide +kernel

/-- Refutes O59: from a station address above 62, WRITE SET with address 0 puts an unconfigured set in STANDBY. -/
theorem not_stepKeepsStatesExist : ¬ Obligations.StepKeepsStatesExist := by
  intro h
  obtain ⟨t, ht⟩ : ∃ t, step { part := strayPart, pending := [strayWrite] } = .next t := ⟨_, rfl⟩
  have henters := strayWrite_enters
  rw [ht] at henters
  obtain ⟨hstate, hnot⟩ := Bool.and_eq_true_iff.mp henters
  have hexists := (h _ t strayPart_statesExist ht 0).1
  rw [Bool.not_eq_true'] at hnot
  rw [hnot, Bool.and_false, beq_iff_eq.mp hstate] at hexists
  exact Bool.noConfusion hexists

end Sys2Proof.Proofs
end

section
/-! The step, commands of a part that runs or stands still, and the supply and the reset input (R188 to R193). -/

namespace Sys2Proof.Proofs

open Sys2Proof.Machine Sys2Proof.Claims

section

variable {p : Part} {w : List Instr}

/-! ### Commands of an awake part -/

/-- What a command makes of the part is what it makes of the state. -/
theorem next_congr {q q' : Part} (h : q = q') :
    (Host.Outcome.next { part := q, pending := w } : Host.Outcome State Fault Refusal) = .next { part := q', pending := w } := by
  rw [h]

theorem awake_iff : (p.powered && !p.resetAsserted) = true ↔ Awake p := by
  simp [Awake]

theorem whileRunning_awake (h : Awake p) (f : Part → Part) : whileRunning f p = kick (f p) := if_pos (awake_iff.mpr h)

theorem whileRunning_asleep (h : ¬Awake p) (f : Part → Part) : whileRunning f p = p := if_neg (mt awake_iff.mp h)

/-- A command that acts while the part runs, on an awake part. -/
theorem running_awake (h : Awake p) (f : Part → Part) :
    running f { part := p, pending := w } = .next { part := kick (f p), pending := w } := by
  simp only [running, onPart, whileRunning_awake h]

theorem running_asleep (h : ¬Awake p) (f : Part → Part) :
    running f { part := p, pending := w } = .next { part := p, pending := w } := by
  simp only [running, onPart, whileRunning_asleep h]

/-- A command that does nothing to an awake part. -/
theorem running_of_eq {f : Part → Part} {q : Part} (h : Awake p) (hf : f p = q) :
    running f { part := p, pending := w } = .next { part := kick q, pending := w } := hf ▸ running_awake h f

theorem tick_awake (h : Awake p) : tick p = { p with clock := p.clock + 1 } := if_pos (awake_iff.mpr h)

theorem tick_asleep (h : ¬Awake p) : tick p = p := if_neg (mt awake_iff.mp h)

/-- A part without power or held in reset takes the commands of the supply and the reset input alone. -/
theorem exec_asleep (h : ¬Awake p) (c : Instr) (hon : ∀ a b, c ≠ .powerOn a b) (hrelease : ∀ a b, c ≠ .resetRelease a b)
    (hassert : c ≠ .resetAssert) (hloss : c ≠ .powerLoss) :
    exec c { part := p, pending := w } = .next { part := p, pending := w } := by
  cases c with
  | powerOn a b => exact absurd rfl (hon a b)
  | resetRelease a b => exact absurd rfl (hrelease a b)
  | resetAssert => exact absurd rfl hassert
  | powerLoss => exact absurd rfl hloss
  | _ => exact running_asleep h _

end

/-- Settles O1: a step is `exec` on the front command. -/
theorem stepRunsFrontCommand : Obligations.StepRunsFrontCommand := fun _ _ _ => rfl

/-- Settles O2: an awake part ticks, and any other is left alone. -/
theorem idleAndHeldParts : Obligations.IdleAndHeldParts := fun _ =>
  ⟨fun h => next_congr (tick_awake h),
    fun h => ⟨next_congr (tick_asleep h), fun c _ => exec_asleep h c⟩⟩

/-! ### The reset input (R188) -/

theorem assertReset_powered {p : Part} (h : p.powered = true) : assertReset p = heldInReset p := if_pos h

theorem assertReset_unpowered {p : Part} (h : p.powered = false) : assertReset p = { p with resetAsserted := true } :=
  if_neg (by simp [h])

theorem releaseReset_held {p : Part} (a b : Bool) (h : p.powered = true) (hr : p.resetAsserted = true) :
    releaseReset a b p = coldStart a b { p with resetAsserted := false } := if_pos (by simp [h, hr])

theorem releaseReset_notHeld {p : Part} (a b : Bool) (h : p.powered = false ∨ p.resetAsserted = false) :
    releaseReset a b p = { p with resetAsserted := false } := if_neg (by rcases h with h | h <;> simp [h])

/-- Settles O4: an asserted input holds a powered part, and any other pin change is the pin's alone. -/
theorem resetInput : Obligations.ResetInput := fun a b _ _ =>
  ⟨fun h => next_congr (assertReset_powered h), fun h => next_congr (assertReset_unpowered h),
    fun h => next_congr (releaseReset_notHeld a b h)⟩

/-! ### Cold start (R188, R189) -/

section

variable {p : Part}

theorem sendNext_of_idle (hr : p.replies = []) (ha : p.allowance = 0) : sendNext p = p := by
  unfold sendNext
  split
  · rfl
  · rw [hr]
    exact if_neg (by simp [ha])

theorem arbitrate_of_empty (hu : p.urgent = []) (hn : p.normal = []) : arbitrate p = p := by
  unfold arbitrate
  rw [hu, hn]
  split <;> rfl

/-- Nothing is left that either transmitter could take. -/
structure Spent (p : Part) : Prop where
  urgent : p.urgent = []
  normal : p.normal = []
  replies : p.replies = []
  allowance : p.allowance = 0

theorem Spent.kick (h : Spent p) : sendNext (arbitrate p) = p := by
  rw [arbitrate_of_empty h.urgent h.normal, sendNext_of_idle h.replies h.allowance]

/-- Nothing is configured under these settings, and the transmitters have nothing to take. -/
structure Barren (c : Configuration) (p : Part) : Prop extends Spent p where
  cfg : p.cfg = c
  none : ∀ o, objectConfigured p o = false

theorem objectConfigured_congr {p q : Part} (h : q.cfg = p.cfg) (o : ObjectRef) :
    objectConfigured q o = objectConfigured p o := by
  cases o <;> simp only [objectConfigured, setConfigured, consumerConfigured, meterConfigured, tieConfigured, entryCfg, setCfg, h]

theorem handOver_of_unconfigured (b : OrderBody) (u : Bool) (h : objectConfigured p b.object = false)
    (hs : p.urgent = [] ∧ p.normal = []) : (handOver b u p).part = p ∧ (joinQueues b u p).part = p := by
  have hj : joinQueues b u p = { part := p, queued := none, replaced := none } := if_pos (by simp [h])
  refine ⟨?_, by rw [hj]⟩
  simp only [handOver, hj]
  split
  · exact arbitrate_of_empty hs.1 hs.2
  · rfl

theorem Barren.of_eq {c : Configuration} {q : Part} (h : Barren c p) (hcfg : q.cfg = p.cfg) (hu : q.urgent = p.urgent)
    (hn : q.normal = p.normal) (hr : q.replies = p.replies) (ha : q.allowance = p.allowance) : Barren c q where
  urgent := hu.trans h.urgent
  normal := hn.trans h.normal
  replies := hr.trans h.replies
  allowance := ha.trans h.allowance
  cfg := hcfg.trans h.cfg
  none o := (objectConfigured_congr hcfg o).trans (h.none o)

theorem sendReport_of_noAllowance (ha : p.allowance = 0) : sendReport p = p := if_neg (by simp [ha])

theorem occur_allowance_zero (k : EventKind) (o : EventObject) (ha : p.allowance = 0) : (occur k o p).allowance = 0 := by
  unfold occur
  extract_lets flagged
  split
  · exact ha
  · unfold queueReport
    split
    · exact ha
    · split
      · exact (congrArg Part.allowance (sendReport_of_noAllowance (by exact ha))).trans ha
      · exact ha

theorem Barren.occur {c : Configuration} (h : Barren c p) (k : EventKind) (o : EventObject) : Barren c (occur k o p) := by
  have ha := occur_allowance_zero k o h.allowance
  obtain ⟨f, r, t, n, e⟩ := occur_eq k o p
  rw [e] at ha ⊢
  exact h.of_eq rfl rfl rfl rfl (ha.trans h.allowance.symm)

theorem opening_barren (c : Configuration) : Opening (Barren c) where
  share _ _ h := h.of_eq rfl rfl rfl rfl rfl
  gov _ _ _ h := h.of_eq rfl rfl rfl rfl rfl
  selection _ _ h := h.of_eq rfl rfl rfl rfl rfl
  entry _ _ h := h.of_eq rfl rfl rfl rfl rfl
  inFlight _ _ h := h.of_eq rfl rfl rfl rfl rfl
  islands _ _ _ _ h := h.of_eq rfl rfl rfl rfl rfl
  occurs _ k o h := h.occur k o
  handed p d a u _ h := by
    rw [(handOver_of_unconfigured (.consumer d a) u (h.none _) ⟨h.urgent, h.normal⟩).1]
    exact h
  dropped p _ h := h.of_eq rfl (by simp [dropQueued, h.urgent]) (by simp [dropQueued, h.normal]) rfl rfl
  setHanded p k a h := by
    rw [(handOver_of_unconfigured (.set k a) false (h.none _) ⟨h.urgent, h.normal⟩).1]
    exact h
  setJoined p k a h := by
    rw [(handOver_of_unconfigured (.set k a) false (h.none _) ⟨h.urgent, h.normal⟩).2]
    exact h
  setDropped p _ h := h.of_eq rfl (by simp [dropQueued, h.urgent]) (by simp [dropQueued, h.normal]) rfl rfl
  seqs _ _ _ h := h.of_eq rfl rfl rfl rfl rfl
  clocked _ _ h := h.of_eq rfl rfl rfl rfl rfl
  setImages _ _ h := h.of_eq rfl rfl rfl rfl rfl
  consumerImages _ _ h := h.of_eq rfl rfl rfl rfl rfl
  meterImages _ _ h := h.of_eq rfl rfl rfl rfl rfl
  tieImages _ _ _ h := h.of_eq rfl rfl rfl rfl rfl
  transmits _ _ h := h.of_eq rfl rfl rfl rfl rfl
  feedbacks _ _ h := h.of_eq rfl rfl rfl rfl rfl
  receives _ _ h := h.of_eq rfl rfl rfl rfl rfl
  arbitrates p h := by
    rw [arbitrate_of_empty h.urgent h.normal]
    exact h
  ties _ _ h := h.of_eq rfl rfl rfl rfl rfl
  mapped _ _ _ _ _ h := h.of_eq rfl rfl rfl rfl rfl
  seqFree _ _ h := h.of_eq rfl rfl rfl rfl rfl
  phased _ h := h.of_eq rfl rfl rfl rfl rfl

end

/-! ### What an empty plant makes of ACQUIRE (R189) -/

theorem mem_allSets (k : SetNo) : k ∈ allSets := by
  fin_cases k <;> decide

theorem mem_allTies (t : TieNo) : t ∈ allTies := by
  fin_cases t <;> decide

theorem mem_allConsumers (c : ConsumerNo) : c ∈ allConsumers := List.mem_finRange c

theorem mem_allObjects (o : ObjectRef) : o ∈ allObjects := by
  simp only [allObjects, List.mem_append, List.mem_map]
  cases o with
  | set k => exact .inl (.inl (.inl ⟨k, mem_allSets k, rfl⟩))
  | consumer c => exact .inl (.inl (.inr ⟨c, mem_allConsumers c, rfl⟩))
  | meter s => exact .inl (.inr ⟨s, mem_allSections s, rfl⟩)
  | tie t => exact .inr ⟨t, mem_allTies t, rfl⟩

theorem allQualified_iff (p : Part) :
    allQualified p = true ↔ ∀ o, objectConfigured p o = true → (freshOf p o).state = .qualified := by
  simp only [allQualified, List.all_eq_true, Bool.or_eq_true, Bool.not_eq_true', beq_iff_eq]
  refine ⟨fun h o ho => (h o (mem_allObjects o)).resolve_left (by simp [ho]), fun h o _ => ?_⟩
  cases ho : objectConfigured p o with
  | false => exact .inl rfl
  | true => exact .inr (h o ho)

theorem checkAcquire_run {p : Part} (h : p.phase = .run) : checkAcquire p = p := if_neg (by simp [h])

theorem checkAcquire_waits {p : Part} (h : ∃ o, objectConfigured p o = true ∧ (freshOf p o).state ≠ .qualified) :
    checkAcquire p = p := by
  obtain ⟨o, ho, hq⟩ := h
  exact if_neg fun hall => hq ((allQualified_iff p).mp (Bool.and_eq_true _ _ ▸ hall).2 o ho)

theorem checkAcquire_ends {p : Part} (hp : p.phase = .acquire)
    (h : ∀ o, objectConfigured p o = true → (freshOf p o).state = .qualified) : checkAcquire p = endAcquire p :=
  if_pos (by simp [hp, (allQualified_iff p).mpr h])

/-- With nothing configured, nothing goes STALE (R9). -/
theorem staleRemaining_of_unconfigured {p : Part} (h : ∀ o, objectConfigured p o = false) : staleRemaining p = p := by
  unfold staleRemaining
  induction allObjects with
  | nil => rfl
  | cons o l ih => rwa [List.foldl_cons, if_neg (by simp [h o])]

/-- With no tie configured, every section is an island (R12). -/
theorem map_of_unconfigured {p : Part} (h : ∀ o, objectConfigured p o = false) :
    (buildIslands p).islandMap = some #v[0, 1, 2, 3]
      ∧ ∀ i : IslandNo, named (buildIslands p).tieJoins i = true := by
  have hjoins : Vector.ofFn (tieJoinsNow p) = Vector.replicate 4 false := by
    ext t ht
    simp [tieJoinsNow, show tieConfigured p ⟨t, ht⟩ = false from h (.tie ⟨t, ht⟩)]
  simp only [buildIslands, hjoins]
  decide

/-- The reset values of every block, under a reset pin (R188, R192). -/
def resetPart (store : Store) (cfg : Configuration) (rate : LineRate) (pin : Bool) : Part :=
  { Part.acquiring store cfg rate with resetAsserted := pin }

theorem coldStart_eq (a b : Bool) (p : Part) : coldStart a b p = kick (coldPart a b p) := rfl

theorem coldPart_eq (a b : Bool) (p : Part) :
    coldPart a b p = resetPart p.store.cutOff (loadedConfiguration p.store) (strapRate a b) p.resetAsserted := rfl

section

variable {store : Store} {cfg : Configuration} {rate : LineRate} {pin : Bool}

theorem freshOf_resetPart (o : ObjectRef) : (freshOf (resetPart store cfg rate pin) o).state = .unqualified := by
  cases o <;> simp [freshOf, resetPart, Part.acquiring, SetImage.reset, ConsumerImage.reset, MeterImage.reset,
    TieImage.reset, Fresh.reset]

theorem spent_resetPart : Spent (resetPart store cfg rate pin) := ⟨rfl, rfl, rfl, rfl⟩

/-- A configured object is UNQUALIFIED after a reset, so that ACQUIRE waits for it (R9, R189). -/
theorem kick_resetPart_waits (h : ∃ o, objectConfigured (resetPart store cfg rate pin) o = true) :
    kick (resetPart store cfg rate pin) = resetPart store cfg rate pin := by
  obtain ⟨o, ho⟩ := h
  rw [kick, checkAcquire_waits ⟨o, ho, by simp [freshOf_resetPart]⟩, spent_resetPart.kick]

/-- With no configured object ACQUIRE ends at the reset itself (R189), and leaves nothing to be sent. -/
theorem kick_resetPart_ends (h : ∀ o, objectConfigured (resetPart store cfg rate pin) o = false) :
    kick (resetPart store cfg rate pin) = endAcquire (resetPart store cfg rate pin)
      ∧ Spent (endAcquire (resetPart store cfg rate pin)) := by
  have hb : Barren cfg (resetPart store cfg rate pin) := { spent_resetPart with cfg := rfl, none := h }
  have hs : Spent (endAcquire (resetPart store cfg rate pin)) := (opening_endAcquire (opening_barren _) hb).toSpent
  refine ⟨?_, hs⟩
  rw [kick, checkAcquire_ends rfl (fun o ho => by simp [h o] at ho), hs.kick]

end

theorem coldStart_waits {a b : Bool} {p : Part} (h : ∃ o, objectConfigured (coldPart a b p) o = true) :
    coldStart a b p = coldPart a b p := kick_resetPart_waits h

theorem coldStart_ends {a b : Bool} {p : Part} (h : ∀ o, objectConfigured (coldPart a b p) o = false) :
    coldStart a b p = endAcquire (coldPart a b p) := (kick_resetPart_ends h).1

/-- What the end of ACQUIRE leaves as it was, of a part with nothing configured. -/
theorem endAcquire_of_unconfigured {p : Part} (h : ∀ o, objectConfigured p o = false) :
    ∃ q : Part, endAcquire p = { q with phase := .run, acquireAt := none } ∧ q.aside = (buildIslands p).aside
      ∧ ∀ i : IslandNo, q.islands[i].isSome = true := by
  obtain ⟨built, opened, hbuilt, e, ha, hs⟩ := endAcquire_shaped p
  rw [staleRemaining_of_unconfigured h] at hbuilt
  subst hbuilt
  exact ⟨opened, e, ha, fun i => (hs i).trans ((map_of_unconfigured h).2 i)⟩

/-- What a cold start makes, whichever way ACQUIRE goes. -/
theorem coldStart_loads (a b : Bool) (p : Part) :
    (coldStart a b p).powered = true ∧ (coldStart a b p).clock = 0
      ∧ (coldStart a b p).store = { p.store with saving := none } ∧ (coldStart a b p).cfg = (coldPart a b p).cfg
      ∧ (coldStart a b p).rate = (coldPart a b p).rate := by
  by_cases h : ∃ o, objectConfigured (coldPart a b p) o = true
  · rw [coldStart_waits h]
    exact ⟨rfl, rfl, rfl, rfl, rfl⟩
  · have h' : ∀ o, objectConfigured (coldPart a b p) o = false := by simpa using h
    obtain ⟨q, e, ha, -⟩ := endAcquire_of_unconfigured h'
    simp only [Part.aside, Part.desk, Part.settings, Part.seen, Prod.mk.injEq] at ha
    obtain ⟨⟨hpower, -, hstore, hrate, -⟩, ⟨hcfg, -⟩, hclock, -⟩ := ha
    rw [coldStart_ends h', e]
    exact ⟨hpower, hclock, hstore, hcfg, hrate⟩

/-- Settles O3, by whether the loaded configuration has a configured object. -/
theorem coldStart : Obligations.ColdStart := by
  intro a b p w
  refine ⟨fun h => next_congr (coldStart_waits h), fun h => ?_, fun hp hr => next_congr (releaseReset_held a b hp hr)⟩
  obtain ⟨q, e, ha, hislands⟩ := endAcquire_of_unconfigured h
  simp only [Part.aside, Part.desk, Part.settings, Part.seen, Prod.mk.injEq] at ha
  obtain ⟨⟨-, -, hstore, -⟩, ⟨hcfg, -, -, -, hmap⟩, hclock, -, -, hsets, hconsumers, hmeters, hties⟩ := ha
  refine ⟨{ q with phase := .run, acquireAt := none }, next_congr ((coldStart_ends h).trans e), rfl, rfl, hclock, hcfg,
    hstore, hmap.trans (map_of_unconfigured h).1, hislands, ?_⟩
  simp only [SameImages, hsets, hconsumers, hmeters, hties]
  rfl

/-- Settles O5: a loss of power keeps the store, and the cold start reads nothing else. -/
theorem powerCycleLoadsStore : Obligations.PowerCycleLoadsStore := by
  intro a b p w
  obtain ⟨hpower, hclock, hstore, hcfg, hrate⟩ := coldStart_loads a b (losePower p)
  exact ⟨losePower p, _, rfl, rfl, rfl, rfl, rfl, hpower, hclock, hstore, hcfg, hrate⟩

end Sys2Proof.Proofs
end

section
/-! The two transmitters: what each takes, at once and after every event (R28, R32, R34, R168, R183). -/

namespace Sys2Proof.Proofs

open Sys2Proof.Machine Sys2Proof.Claims

section

variable {p : Part}

/-! ### The order transmitter -/

theorem arbitrate_urgent {o : Order} {rest : List Order} (hp : p.phase = .run) (ht : p.fieldTx = none)
    (h : p.urgent = o :: rest) : arbitrate p = beginOrder o { p with urgent := rest } := by
  unfold arbitrate
  rw [if_pos (by simp [hp, ht]), h]

theorem arbitrate_normal {o : Order} {rest : List Order} (hp : p.phase = .run) (ht : p.fieldTx = none)
    (hu : p.urgent = []) (h : p.normal = o :: rest) : arbitrate p = beginOrder o { p with normal := rest } := by
  unfold arbitrate
  rw [if_pos (by simp [hp, ht]), hu, h]

theorem arbitrate_acquire (h : p.phase = .acquire) : arbitrate p = p := if_neg (by simp [h])

theorem arbitrate_sending (h : p.fieldTx.isSome = true) : arbitrate p = p :=
  if_neg (by simp [Option.isNone_eq_false_iff.mpr h])

theorem arbitrate_rests (h : p.phase = .acquire ∨ p.fieldTx.isSome = true ∨ (p.urgent = [] ∧ p.normal = [])) :
    arbitrate p = p := by
  obtain h | h | ⟨hu, hn⟩ := h
  · exact arbitrate_acquire h
  · exact arbitrate_sending h
  · exact arbitrate_of_empty hu hn

/-- The part with a new urgent order behind the others. -/
def withUrgent (o : Order) (p : Part) : Part := { p with nextOrder := p.nextOrder + 1, urgent := p.urgent ++ [o] }

/-- The part with a new normal order behind the others. -/
def withNormal (o : Order) (p : Part) : Part := { p with nextOrder := p.nextOrder + 1, normal := p.normal ++ [o] }

theorem joinQueues_urgent {b : OrderBody} (hc : objectConfigured p b.object = true) (hq : queuedFor p b.object = none) :
    joinQueues b true p
      = { part := withUrgent { serial := p.nextOrder, body := b, urgent := true } p, queued := some p.nextOrder,
          replaced := none } := by
  simp only [joinQueues, hc, hq]
  rfl

theorem joinQueues_normal {b : OrderBody} (hc : objectConfigured p b.object = true) (hq : queuedFor p b.object = none)
    (hr : Room p) :
    joinQueues b false p
      = { part := withNormal { serial := p.nextOrder, body := b, urgent := false } p, queued := some p.nextOrder,
          replaced := none } := by
  have hlt : p.normal.length < Config.normalMax := hr
  simp only [joinQueues, hc, hq, hlt]
  rfl

/-- An order that joined an empty queue is at its head, and leaves the queue as it was. -/
theorem arbitrate_withUrgent {o : Order} (hp : p.phase = .run) (ht : p.fieldTx = none) (hu : p.urgent = []) :
    arbitrate (withUrgent o p) = { beginOrder o p with nextOrder := p.nextOrder + 1 } := by
  rw [arbitrate_urgent (p := withUrgent o p) (o := o) (rest := p.urgent) hp ht (by simp [withUrgent, hu])]
  rfl

theorem arbitrate_withNormal {o : Order} (hp : p.phase = .run) (ht : p.fieldTx = none) (hu : p.urgent = [])
    (hn : p.normal = []) : arbitrate (withNormal o p) = { beginOrder o p with nextOrder := p.nextOrder + 1 } := by
  rw [arbitrate_normal (p := withNormal o p) (o := o) (rest := p.normal) hp ht hu (by simp [withNormal, hn])]
  rfl

/-- Where something is queued already, or the transmitter does not choose, an order only joins its queue. -/
theorem handOver_joins {b : OrderBody} {u : Bool} {q : Part} {n : Nat}
    (hj : joinQueues b u p = { part := q, queued := some n, replaced := none })
    (h : p.urgent ≠ [] ∨ p.normal ≠ [] ∨ arbitrate q = q) : handOver b u p = { part := q, queued := some n, replaced := none } := by
  unfold handOver
  rw [hj]
  extract_lets joined
  split
  next he =>
    obtain h | h | h := h
    · simp [h] at he
    · simp [h] at he
    · simp only [joined, h]
  next => rfl

/-- With both queues empty, the order that joined them is taken at once by an idle transmitter (R32). -/
theorem handOver_taken {b : OrderBody} {u : Bool} (hu : p.urgent = []) (hn : p.normal = []) {q : Part} {n : Nat}
    (hj : joinQueues b u p = { part := q, queued := some n, replaced := none }) :
    handOver b u p = { part := arbitrate q, queued := some n, replaced := none } := by
  unfold handOver
  simp only [hj, hu, hn, List.isEmpty_nil, Bool.and_self, if_true]

theorem queuedFor_of_empty (hu : p.urgent = []) (hn : p.normal = []) (o : ObjectRef) : queuedFor p o = none := by
  simp [queuedFor, hu, hn]

/-! ### The supervisor transmitter -/

theorem sendReport_takes {r : Report} {rest : List Report} (ht : p.supTx = none) (hr : p.replies = [])
    (h : p.reports = r :: rest) (ha : 0 < p.allowance) : sendReport p = beginReport r { p with reports := rest } := by
  unfold sendReport
  rw [if_pos (by simp [ht, hr, ha]), h]

theorem sendReport_rests (h : p.supTx.isSome = true ∨ p.replies ≠ [] ∨ p.reports = [] ∨ p.allowance = 0) :
    sendReport p = p := by
  unfold sendReport
  obtain h | h | h | h := h
  · rw [if_neg (by simp [Option.isNone_eq_false_iff.mpr h])]
  · rw [if_neg (by simp [h])]
  · rw [h]
    split <;> rfl
  · rw [if_neg (by simp [h])]

theorem sendNext_reply {r : Reply} {rest : List Reply} (ht : p.supTx = none) (h : p.replies = r :: rest) :
    sendNext p = beginReply r { p with replies := rest } := by
  unfold sendNext
  rw [if_neg (by simp [ht]), h]

theorem sendNext_report (ht : p.supTx = none) (h : p.replies = []) : sendNext p = sendReport p := by
  unfold sendNext
  rw [if_neg (by simp [ht]), h]

theorem sendNext_rests (h : p.supTx.isSome = true ∨ (p.replies = [] ∧ (p.reports = [] ∨ p.allowance = 0))) :
    sendNext p = p := by
  obtain h | ⟨hr, h⟩ := h
  · exact if_pos h
  · by_cases ht : p.supTx.isSome = true
    · exact if_pos ht
    · rw [sendNext_report (by simpa using ht) hr, sendReport_rests (.inr (.inr h))]

theorem beginReply_eq (r : Reply) (p : Part) : beginReply r p =
    { p with
      supTx := some { what := .reply r.serial, frame := replyFrame r }
      requests := p.requests.map fun q => if q.serial = r.serial then { q with condition := some .sending } else q
      busyList := p.busyList.map fun b => if b.serial = r.serial then { b with sending := true } else b } := by
  simp only [beginReply, beq_iff_eq]

/-! ### After every event -/

theorem kick_run (h : p.phase = .run) : kick p = sendNext (arbitrate p) := by rw [kick, checkAcquire_run h]

theorem kick_ends (h : p.phase = .acquire) (hq : ∀ o, objectConfigured p o = true → (freshOf p o).state = .qualified) :
    kick p = sendNext (arbitrate (endAcquire p)) := by rw [kick, checkAcquire_ends h hq]

theorem kick_waits (h : p.phase = .acquire)
    (hq : ∃ o, objectConfigured p o = true ∧ (freshOf p o).state ≠ .qualified) : kick p = sendNext p := by
  rw [kick, checkAcquire_waits hq, arbitrate_acquire h]

/-! ### A part with nothing left to choose -/

/-- Neither transmitter has anything to take, and ACQUIRE has a reason to go on. -/
structure Quiet (p : Part) : Prop where
  acquires : p.phase = .acquire → ∃ o, objectConfigured p o = true ∧ (freshOf p o).state ≠ .qualified
  orders : p.phase = .acquire ∨ p.fieldTx.isSome = true ∨ (p.urgent = [] ∧ p.normal = [])
  supervisor : p.supTx.isSome = true ∨ (p.replies = [] ∧ (p.reports = [] ∨ p.allowance = 0))

theorem Quiet.kick (h : Quiet p) : kick p = p := by
  cases hp : p.phase with
  | run => rw [kick_run hp, arbitrate_rests h.orders, sendNext_rests h.supervisor]
  | acquire => rw [kick_waits hp (h.acquires hp), sendNext_rests h.supervisor]

theorem checkAcquire_acquires (p : Part) (h : (checkAcquire p).phase = .acquire) :
    ∃ o, objectConfigured (checkAcquire p) o = true ∧ (freshOf (checkAcquire p) o).state ≠ .qualified := by
  by_cases hq : p.phase = .acquire ∧ allQualified p = true
  · rw [checkAcquire, if_pos (by simp [hq])] at h
    exact nomatch h
  · rw [checkAcquire, if_neg (by simpa using hq)] at h ⊢
    have hall := (allQualified_iff p).not.mp fun hall => hq ⟨h, hall⟩
    simpa only [not_forall, exists_prop] using hall

theorem arbitrate_orders (p : Part) :
    (arbitrate p).phase = .acquire ∨ (arbitrate p).fieldTx.isSome = true
      ∨ ((arbitrate p).urgent = [] ∧ (arbitrate p).normal = []) := by
  cases hp : p.phase with
  | acquire => exact .inl ((congrArg Part.phase (arbitrate_acquire hp)).trans hp)
  | run =>
    cases ht : p.fieldTx with
    | some tx => exact .inr (.inl (by rw [arbitrate_sending (by simp [ht]), ht]; rfl))
    | none =>
      cases hu : p.urgent with
      | cons o rest => exact .inr (.inl (by rw [arbitrate_urgent hp ht hu]; rfl))
      | nil =>
        cases hn : p.normal with
        | cons o rest => exact .inr (.inl (by rw [arbitrate_normal hp ht hu hn]; rfl))
        | nil => exact .inr (.inr (by rw [arbitrate_of_empty hu hn]; exact ⟨hu, hn⟩))

theorem sendReport_supervisor (ht : p.supTx = none) (hr : p.replies = []) :
    (sendReport p).supTx.isSome = true ∨ ((sendReport p).replies = []
      ∧ ((sendReport p).reports = [] ∨ (sendReport p).allowance = 0)) := by
  cases h : p.reports with
  | nil => exact .inr (by rw [sendReport_rests (.inr (.inr (.inl h)))]; exact ⟨hr, .inl h⟩)
  | cons r rest =>
    by_cases ha : p.allowance = 0
    · exact .inr (by rw [sendReport_rests (.inr (.inr (.inr ha)))]; exact ⟨hr, .inr ha⟩)
    · exact .inl (by rw [sendReport_takes ht hr h (Nat.pos_of_ne_zero ha)]; rfl)

theorem sendNext_supervisor (p : Part) :
    (sendNext p).supTx.isSome = true ∨ ((sendNext p).replies = []
      ∧ ((sendNext p).reports = [] ∨ (sendNext p).allowance = 0)) := by
  cases ht : p.supTx with
  | some tx => exact .inl (by rw [sendNext_rests (.inl (by simp [ht])), ht]; rfl)
  | none =>
    cases hr : p.replies with
    | cons r rest => exact .inl (by rw [sendNext_reply ht hr]; rfl)
    | nil => rw [sendNext_report ht hr]; exact sendReport_supervisor ht hr

/-- After every event nothing is left to choose. -/
theorem quiet_kick (p : Part) : Quiet (Machine.kick p) := by
  have hacquires := checkAcquire_acquires p
  have horders := arbitrate_orders (checkAcquire p)
  have hsupervisor := sendNext_supervisor (arbitrate (checkAcquire p))
  rw [Machine.kick]
  generalize checkAcquire p = c at hacquires horders hsupervisor ⊢
  obtain ⟨t, x, y, ea⟩ := arbitrate_eq c
  rw [ea] at horders hsupervisor ⊢
  obtain ⟨rq, b, rp, r, tx, n, es⟩ := sendNext_eq { c with fieldTx := t, urgent := x, normal := y }
  rw [es] at hsupervisor ⊢
  refine ⟨fun h => ?_, horders, hsupervisor⟩
  obtain ⟨o, ho, hq⟩ := hacquires h
  exact ⟨o, (objectConfigured_congr (by rfl) o).trans ho, by cases o <;> exact hq⟩

theorem kick_kick (p : Part) : Machine.kick (Machine.kick p) = Machine.kick p := (quiet_kick p).kick

end

/-- Settles O7: a part for each transmitter, and one for the end of ACQUIRE. -/
theorem transmittersChoose : Obligations.TransmittersChoose := by
  unfold Obligations.TransmittersChoose
  intro tx
  refine ⟨fun p o rest hp ht => ⟨fun h => arbitrate_urgent hp ht h, fun hu h => arbitrate_normal hp ht hu h⟩,
    fun p => arbitrate_rests, fun p b u hc => ?_,
    fun p r rest ht h => (sendNext_reply ht h).trans (beginReply_eq r _),
    fun p r rest ht hr h ha => ⟨sendReport_takes ht hr h ha, sendNext_report ht hr⟩, fun p => sendReport_rests,
    fun p => sendNext_rests, fun p => kick_run, fun p => kick_ends, fun p => kick_waits⟩
  intro o
  have hrests : ∀ q : Part, q.phase = p.phase → q.fieldTx = p.fieldTx →
      p.phase = .acquire ∨ p.fieldTx.isSome = true ∨ p.urgent ≠ [] ∨ p.normal ≠ [] →
      p.urgent ≠ [] ∨ p.normal ≠ [] ∨ arbitrate q = q := by
    rintro q hp ht (h | h | h | h)
    · exact .inr (.inr (arbitrate_acquire (hp.trans h)))
    · exact .inr (.inr (arbitrate_sending (ht ▸ h)))
    · exact .inl h
    · exact .inr (.inl h)
  constructor
  · intro hp ht hu hn
    have hq := queuedFor_of_empty hu hn b.object
    cases u with
    | true =>
      rw [handOver_taken hu hn (joinQueues_urgent hc hq), arbitrate_withUrgent hp ht hu]
      rfl
    | false =>
      rw [handOver_taken hu hn (joinQueues_normal hc hq (by simp [Room, hn])), arbitrate_withNormal hp ht hu hn]
      rfl
  · intro h hq
    constructor
    · rintro rfl
      exact handOver_joins (joinQueues_urgent hc hq) (hrests _ rfl rfl h)
    · rintro rfl hr
      exact handOver_joins (joinQueues_normal hc hq hr) (hrests _ rfl rfl h)

end Sys2Proof.Proofs
end

section
/-! Station records: what their bytes stand for, their three tests, and the freshness that they bring (R3, R5 to R7, R26, R40). -/

namespace Sys2Proof.Proofs

open Sys2Proof.Machine Sys2Proof.Claims

/-! ### Numbers and ranges -/

theorem numbered_val {m n : Nat} {k : Fin m} (h : n = k.val + 1) : numbered m n = some k := by
  unfold numbered
  rw [dif_pos (by omega)]
  simp [h]

theorem numbered_outside {m n : Nat} (h : n = 0 ∨ m < n) : numbered m n = none := dif_neg (by omega)

theorem ranged_within {lo hi v : Nat} (h : lo ≤ v ∧ v ≤ hi) : ranged lo hi v = some v := if_pos h

theorem ranged_above {lo hi v : Nat} (h : hi < v) : ranged lo hi v = none := if_neg (by omega)

theorem ranged_below {lo hi v : Nat} (h : v < lo) : ranged lo hi v = none := if_neg (by omega)

theorem recordLimit_ignored {p : Part} {c : ConsumerNo} {present : Bool} {v : Nat}
    (h : ¬(isLimitable p c = true ∧ present = true)) : recordLimit p c present v = some none := if_neg (by simpa using h)

theorem recordLimit_taken {p : Part} {c : ConsumerNo} {present : Bool} {v : Nat}
    (h : isLimitable p c = true ∧ present = true) : recordLimit p c present v = (ranged 0 20000 v).map some :=
  if_pos (by simpa using h)

/-! ### The five record kinds (R26, R40) -/

section

variable (p : Part) (n f a b c d : Byte)

theorem decode_set : decodeRecord p [1#8, n, f, a, b] = (numbered 8 n.toNat).bind fun k =>
    (ranged 0 25000 (a.toNat * 256 + b.toNat)).bind fun kw =>
      some (.set k (f.getLsbD 0) (f.getLsbD 1) kw (f.getLsbD 2)) := rfl

theorem decode_consumer : decodeRecord p [2#8, n, f, a, b, c, d] = (numbered 48 n.toNat).bind fun k =>
    (ranged 0 25000 (a.toNat * 256 + b.toNat)).bind fun kw =>
      (recordLimit p k (f.getLsbD 1) (c.toNat * 256 + d.toNat)).bind fun limit =>
        some (.consumer k (f.getLsbD 0) kw limit) := rfl

theorem decode_meter : decodeRecord p [3#8, n, f, a, b, c] = (numbered 4 n.toNat).bind fun s =>
    if f.getLsbD 0 = true then
      (ranged 40000 70000 (a.toNat * 65536 + b.toNat * 256 + c.toNat)).bind fun freq => some (.meter s true (some freq))
    else some (.meter s false none) := rfl

theorem decode_tie : decodeRecord p [4#8, n, f] = (numbered 4 n.toNat).bind fun t => some (.tie t (f.getLsbD 0)) := rfl

theorem decode_heavy : decodeRecord p [5#8, n, a, b] = (numbered 48 n.toNat).bind fun k =>
    (ranged 1 25000 (a.toNat * 256 + b.toNat)).bind fun kw => some (.heavy k kw) := rfl

end

/-- Settles O10, kind by kind. -/
theorem stationRecordsDecode : Obligations.StationRecordsDecode := by
  intro p n f a b c d
  rw [decode_set, decode_consumer, decode_meter, decode_tie, decode_heavy]
  refine ⟨fun k hn hkw => ?_, fun h => ?_, fun k hn hkw => ?_, fun h => ?_, fun k hn => ?_, fun k hn => ?_, fun h => ?_,
    fun k hn hlo hhi => ?_, fun h => ?_⟩
  case refine_1 => simp only [numbered_val hn, ranged_within ⟨Nat.zero_le _, hkw⟩, Option.bind_some]
  case refine_2 =>
    obtain h | h | h := h
    · rw [numbered_outside (.inl h), Option.bind_none]
    · rw [numbered_outside (.inr h), Option.bind_none]
    · simp only [ranged_above h, Option.bind_none, Option.bind_fun_none]
  case refine_3 =>
    rw [numbered_val hn, ranged_within ⟨Nat.zero_le _, hkw⟩]
    split
    next hl =>
      simp only [Option.bind_some, recordLimit_taken hl, ranged, Nat.zero_le, true_and]
      split <;> rfl
    next hl => simp only [Option.bind_some, recordLimit_ignored hl]
  case refine_4 =>
    obtain h | h | h := h
    · rw [numbered_outside (.inl h), Option.bind_none]
    · rw [numbered_outside (.inr h), Option.bind_none]
    · simp only [ranged_above h, Option.bind_none, Option.bind_fun_none]
  case refine_5 =>
    rw [numbered_val hn, Option.bind_some]
    split
    next =>
      unfold ranged
      split <;> rfl
    next => rfl
  case refine_6 => rw [numbered_val hn, Option.bind_some]
  case refine_7 => simp only [numbered_outside h, Option.bind_none, and_self]
  case refine_8 => simp only [numbered_val hn, ranged_within ⟨hlo, hhi⟩, Option.bind_some]
  case refine_9 =>
    obtain h | h | h | h := h
    · rw [numbered_outside (.inl h), Option.bind_none]
    · rw [numbered_outside (.inr h), Option.bind_none]
    · simp only [ranged_below (Nat.lt_one_iff.mpr h), Option.bind_none, Option.bind_fun_none]
    · simp only [ranged_above h, Option.bind_none, Option.bind_fun_none]

/-! ### The three tests (R3) -/

section

variable {p : Part} {station : Nat} {bytes : List Byte} {r : StationRecord}

theorem takeRecord_outOfRange (h : decodeRecord p bytes = none) :
    takeRecord station bytes p = occur .fieldFrameError .fieldLine p := by
  rw [takeRecord, h]

theorem takeRecord_unknown (h : decodeRecord p bytes = some r) (hc : objectConfigured p r.object = false) :
    takeRecord station bytes p = occur .unknownObject (objectNamed r.object) p := by
  rw [takeRecord, h]
  exact if_pos (by simp [hc])

theorem takeRecord_mismatch (h : decodeRecord p bytes = some r) (hc : objectConfigured p r.object = true)
    (hs : objectStation p r.object ≠ station) :
    takeRecord station bytes p = occur .stationMismatch (objectNamed r.object) p := by
  rw [takeRecord, h]
  exact (if_neg (by simp [hc])).trans (if_pos (by simpa using hs))

theorem takeRecord_delivered (h : decodeRecord p bytes = some r) (hc : objectConfigured p r.object = true)
    (hs : objectStation p r.object = station) : takeRecord station bytes p = deliverRecord r p := by
  rw [takeRecord, h]
  exact (if_neg (by simp [hc])).trans (if_neg (by simpa using hs))

end

/-- Settles O11, by the test that fails first. -/
theorem recordTests : Obligations.RecordTests := fun _ _ _ =>
  ⟨takeRecord_outOfRange, fun _ h => ⟨takeRecord_unknown h, takeRecord_mismatch h, takeRecord_delivered h⟩⟩

/-- Settles O12, by the freshness state. -/
theorem recordsQualifyObjects : Obligations.RecordsQualifyObjects := by
  refine ⟨fun stale now f => ?_, fun p s v freq => rfl⟩
  obtain ⟨state, counted, staleAt⟩ := f
  cases state <;> cases counted <;> rfl

end Sys2Proof.Proofs
end

section
/-! The sub-pulses of a plan (R93, R94). -/

namespace Sys2Proof.Proofs

open Sys2Proof.Machine Sys2Proof.Claims

/-- Settles O30: what each of the two commands does, and when it does nothing. -/
theorem subPulses : Obligations.SubPulses := by
  intro p w k ha g
  refine ⟨?_, fun h => running_of_eq (f := beginSubPulse k) ha ?_, fun t ht => running_of_eq (f := endSubPulse k) ha ?_,
    fun ht => running_of_eq (f := endSubPulse k) ha ?_⟩
  case refine_1 =>
    intro origin ho hin hlt start len
    refine running_of_eq (f := beginSubPulse k) ha ?_
    unfold beginSubPulse
    simp only [show p.gov[k].plan.origin = some origin from ho, show p.gov[k].plan.inProgress = true from hin,
      show p.gov[k].plan.delivered < 4 from hlt, decide_true, Bool.and_self, if_true]
    simp only [onGov, reach, modifyAt, Config.subPeriod, at', Bool.decide_and, Bool.decide_or, ho]
    rfl
  case refine_2 =>
    unfold beginSubPulse
    extract_lets plan
    obtain h | h | h := h
    · rw [show plan.origin = none from h]
    · split
      · exact if_neg (by simp [show plan.inProgress = false from h])
      · rfl
    · split
      · exact if_neg (by simp [show 4 ≤ plan.delivered from h])
      · rfl
  case refine_3 =>
    unfold endSubPulse
    rw [show p.gov[k].pulseEnd = some t from ht]
    rfl
  case refine_4 =>
    unfold endSubPulse
    rw [show p.gov[k].pulseEnd = none from ht]

end Sys2Proof.Proofs
end

section
/-! The payloads of requests are read back (R170 to R173, R180). -/

namespace Sys2Proof.Proofs

open Sys2Proof.Machine Sys2Proof.Claims

/-! ### Values and masks in bytes -/

theorem wordOf_wordBytes (w : Word) :
    wordOf (w.extractLsb' 24 8) (w.extractLsb' 16 8) (w.extractLsb' 8 8) (w.extractLsb' 0 8) = w := by
  unfold wordOf
  rw [BitVec.extractLsb'_append_extractLsb'_eq_extractLsb' (by rfl), BitVec.extractLsb'_append_extractLsb'_eq_extractLsb' (by rfl),
    BitVec.extractLsb'_append_extractLsb'_eq_extractLsb' (by rfl)]
  exact BitVec.extractLsb'_eq_self

theorem toWords_fromWords (ws : List Word) : toWords (fromWords ws) = ws := by
  induction ws with
  | nil => rfl
  | cons w ws ih => exact congrArg₂ List.cons (wordOf_wordBytes w) ih

theorem fromWords_length (ws : List Word) : (fromWords ws).length = 4 * ws.length := by
  induction ws with
  | nil => rfl
  | cons w ws ih =>
    simp only [fromWords, List.flatMap_cons, List.length_append, List.length_cons] at ih ⊢
    rw [ih, wordBytes]
    simp only [List.length_cons, List.length_nil]
    omega

theorem mask16_eq (m : BitVec 16) : m.extractLsb' 8 8 ++ m.extractLsb' 0 8 = m := by
  rw [BitVec.extractLsb'_append_extractLsb'_eq_extractLsb' (by rfl)]
  exact BitVec.extractLsb'_eq_self

theorem mask64_eq (m : BitVec 64) : m.extractLsb' 32 32 ++ m.extractLsb' 0 32 = m := by
  rw [BitVec.extractLsb'_append_extractLsb'_eq_extractLsb' (by rfl)]
  exact BitVec.extractLsb'_eq_self

theorem fieldsDefined_length {forms : List FieldForm} {fields : List Word} (h : fieldsDefined forms fields = true) :
    fields.length = forms.length := by
  simp only [fieldsDefined, Bool.and_eq_true, beq_iff_eq] at h
  exact h.1

/-- The bytes of a list's fields are as many as its length asks, and spell the fields. -/
theorem fields_readBack {forms : List FieldForm} {fields : List Word} (h : fieldsDefined forms fields = true) (n : Nat)
    (hn : 4 * forms.length = n) :
    ((fromWords fields).length == n && fieldsDefined forms (toWords (fromWords fields))) = true := by
  rw [fromWords_length, fieldsDefined_length h, toWords_fromWords, h, hn, beq_self_eq_true, Bool.and_true]

/-! ### The four requests with fields -/

theorem parse_writeSet {n : Byte} {mask : BitVec 16} {fields : List Word} (h : fieldsDefined setForms fields = true) :
    parseRequest 9#8 (n :: (maskBytes16 mask ++ fromWords fields)) = some (.writeSet n mask fields) := by
  refine (if_pos (fields_readBack h 44 rfl)).trans ?_
  rw [mask16_eq]
  exact congrArg (fun ws => some (Request.writeSet n mask ws)) (toWords_fromWords fields)

theorem parse_writeConsumer {n : Byte} {mask : BitVec 16} {fields : List Word}
    (h : fieldsDefined consumerForms fields = true) :
    parseRequest 10#8 (n :: (maskBytes16 mask ++ fromWords fields)) = some (.writeConsumer n mask fields) := by
  refine (if_pos (fields_readBack h 40 rfl)).trans ?_
  rw [mask16_eq]
  exact congrArg (fun ws => some (Request.writeConsumer n mask ws)) (toWords_fromWords fields)

theorem parse_writePlant {mask : BitVec 64} {fields : List Word} (h : fieldsDefined plantForms fields = true) :
    parseRequest 11#8 (maskBytes64 mask ++ fromWords fields) = some (.writePlant mask fields) := by
  refine (if_pos (fields_readBack h 136 rfl)).trans ?_
  rw [wordOf_wordBytes, wordOf_wordBytes, mask64_eq]
  exact congrArg (fun ws => some (Request.writePlant mask ws)) (toWords_fromWords fields)

theorem parse_placeConsumer {n position : Byte} {move : Bool} {fields : List Word}
    (h : fieldsDefined placeForms fields = true) :
    parseRequest 12#8 (n :: position :: (if move then 1#8 else 0#8) :: fromWords fields)
      = some (.placeConsumer n position move fields) := by
  refine (if_pos ?_).trans ?_
  · rw [fields_readBack h 36 rfl, Bool.true_and]
    cases move <;> rfl
  · rw [toWords_fromWords]
    cases move <;> rfl

theorem parse_writeStandbyOrder {sets : List Byte} (h : sets.length < 256) :
    parseRequest 14#8 (byteOf sets.length :: sets) = some (.writeStandbyOrder sets) :=
  if_pos (by simp [byteOf, Nat.mod_eq_of_lt h])

theorem parse_setMode (n : Byte) (m : Mode) : parseRequest 15#8 [n, byteOf m.code] = some (.setMode n m) := by
  cases m <;> rfl

theorem parse_commandSet (n : Byte) (a : SetAction) : parseRequest 16#8 [n, byteOf a.code] = some (.commandSet n a) := by
  cases a <;> rfl

theorem parse_clearFlags (mask : Word) : parseRequest 20#8 (wordBytes mask) = some (.clearFlags mask) :=
  congrArg (fun m => some (Request.clearFlags m)) (wordOf_wordBytes mask)

theorem parse_enableFlags (mask : Word) : parseRequest 21#8 (wordBytes mask) = some (.enableFlags mask) :=
  congrArg (fun m => some (Request.enableFlags m)) (wordOf_wordBytes mask)

/-- Settles O39, kind by kind. -/
theorem requestsReadBack : Obligations.RequestsReadBack := by
  intro r h
  cases r with
  | writeSet n mask fields => exact parse_writeSet h
  | writeConsumer n mask fields => exact parse_writeConsumer h
  | writePlant mask fields => exact parse_writePlant h
  | placeConsumer n position move fields => exact parse_placeConsumer h
  | writeStandbyOrder sets => exact parse_writeStandbyOrder (Nat.lt_of_le_of_lt (of_decide_eq_true h) (by omega))
  | setMode n m => exact parse_setMode n m
  | commandSet n a => exact parse_commandSet n a
  | clearFlags mask => exact parse_clearFlags mask
  | enableFlags mask => exact parse_enableFlags mask
  | _ => rfl

end Sys2Proof.Proofs
end

section
/-! The supervisor line: what becomes of an accepted frame, what a request answers, the frames sent, events and reports, SAVE
and RESTART (R164 to R169, R178, R182 to R186, R191). -/

namespace Sys2Proof.Proofs

open Sys2Proof.Machine Sys2Proof.Claims

/-! ### Acceptance and service (R165 to R167) -/

/-- The part to which a request's own tests and effect are put: its serial number has been taken. -/
def numberedPart (p : Part) : Part := { p with nextRequest := p.nextRequest + 1 }

section

variable {p : Part} {kind tag : Byte} {payload : List Byte} {serial : Nat}

theorem serve_badRequest (h : parseRequest kind payload = none) :
    serve kind payload serial p = (answered .badRequest p, false) := by rw [serve, h]

theorem serve_storeBusy {r : Request} (h : parseRequest kind payload = some r) (hg : storeGuarded r = true)
    (hs : p.store.saving.isSome = true) : serve kind payload serial p = (answered .storeBusy p, false) := by
  rw [serve, h]
  exact if_pos (by simp [hg, hs])

theorem serve_own {r : Request} (h : parseRequest kind payload = some r)
    (hs : storeGuarded r = false ∨ p.store.saving = none) :
    serve kind payload serial p = (serveOwn r serial p, r == .save) := by
  rw [serve, h]
  exact if_neg (by rcases hs with hs | hs <;> simp [hs])

theorem acceptRequest_served (hl : p.requests.length < 4) (hr : p.restarting = none) :
    acceptRequest kind tag payload p
      = serveAccepted p.nextRequest kind tag payload (numberedPart p) :=
  (if_pos hl).trans (if_neg (by simp [hr]))

theorem acceptRequest_kept (hl : p.requests.length < 4) (hr : p.restarting.isSome = true) :
    acceptRequest kind tag payload p
      = joinRequests p.nextRequest kind tag payload none (numberedPart p) :=
  (if_pos hl).trans (if_pos hr)

theorem acceptRequest_turnedAway (hl : 4 ≤ p.requests.length) (hb : p.busyList.length < 4) :
    acceptRequest kind tag payload p = turnAway p.nextRequest kind tag (numberedPart p) :=
  (if_neg (Nat.not_lt.mpr hl)).trans (if_pos hb)

theorem acceptRequest_dropped (hl : 4 ≤ p.requests.length) (hb : 4 ≤ p.busyList.length) :
    acceptRequest kind tag payload p = p := (if_neg (Nat.not_lt.mpr hl)).trans (if_neg (Nat.not_lt.mpr hb))

/-- A request whose reply is formed at its service. -/
theorem serveAccepted_answered {o : Served} (h : serve kind payload serial p = (o, false)) :
    serveAccepted serial kind tag payload p
      = formReply serial kind tag o.code o.data (joinRequests serial kind tag payload (some .answered) o.part) := by
  simp only [serveAccepted, h]
  rfl

end

/-- Settles O41, in the order of the tests. -/
theorem requestsAreAcceptedInOrder : Obligations.RequestsAreAcceptedInOrder := by
  intro p kind tag payload joined reply
  refine ⟨fun hl hr h => ?_, fun hl hr r h hg hs => ?_, fun hl hr => acceptRequest_kept hl hr, fun hl hb hr => ?_,
    fun hl hb hr => ?_, acceptRequest_dropped⟩
  · rw [acceptRequest_served hl hr, serveAccepted_answered (serve_badRequest h)]
    rfl
  · rw [acceptRequest_served hl hr, serveAccepted_answered (serve_storeBusy (p := numberedPart p) h hg hs)]
    rfl
  · rw [acceptRequest_turnedAway hl hb]
    exact if_neg (by simp [numberedPart, hr])
  · rw [acceptRequest_turnedAway hl hb]
    exact if_pos hr

/-! ### What a request answers -/

/-- Serving a request takes no serial number. -/
theorem serveOwn_nextRequest (r : Request) (serial : Nat) (p : Part) :
    (serveOwn r serial p).part.nextRequest = p.nextRequest := by
  refine edits_serveOwn (I := fun q => q.nextRequest = p.nextRequest)
    (edits_ofDesk (fun d => d.2.2.2.2.2.2.2.2.2) _) ?_ ?_ ?_ ?_ r serial rfl
  · exact fun _ _ h => h
  · exact fun _ _ _ h => h
  · exact fun _ _ h => h
  · exact fun _ _ h => h

section

variable {c : Instr} {p : Part} {w : List Instr} {kind : Nat} {tag : Byte} {payload : List Byte} {r : Request}

/-- A request that is served answers what its own rule answers (R166). -/
theorem answers_own (hf : Free p)
    (hc : exec c { part := p, pending := w } = request kind tag payload { part := p, pending := w })
    (hp : parseRequest (byteOf kind) payload = some r) (hs : storeGuarded r = false ∨ p.store.saving = none)
    (hsave : r ≠ .save) :
    Answers c p w kind tag payload (serveOwn r p.nextRequest (numberedPart p)).code
      (serveOwn r p.nextRequest (numberedPart p)).data
      { (serveOwn r p.nextRequest (numberedPart p)).part with nextRequest := p.nextRequest } := by
  obtain ⟨hawake, hlength, hrestarting⟩ := hf
  have hqueues := serveOwn_queues r p.nextRequest (numberedPart p)
  have hnext := serveOwn_nextRequest r p.nextRequest (numberedPart p)
  have hserve : serve (byteOf kind) payload p.nextRequest (numberedPart p)
      = (serveOwn r p.nextRequest (numberedPart p), false) := by
    rw [serve_own (p := numberedPart p) hp hs, beq_false_of_ne hsave]
  generalize serveOwn r p.nextRequest (numberedPart p) = o at hqueues hnext hserve ⊢
  simp only [Prod.mk.injEq] at hqueues
  obtain ⟨hrequests, -, hreplies⟩ := hqueues
  refine hc.trans ((running_awake hawake _).trans (next_congr (congrArg kick ?_)))
  rw [acceptRequest_served hlength hrestarting, serveAccepted_answered hserve, formReply, joinRequests, replied]
  simp only [hrequests, hreplies, hnext]
  rfl

/-- The same with the part, the code and the data that its rule gives. -/
theorem answers_served {q : Part} {code : ResultCode} {data : List Byte} (hf : Free p)
    (hc : exec c { part := p, pending := w } = request kind tag payload { part := p, pending := w })
    (hp : parseRequest (byteOf kind) payload = some r) (hs : storeGuarded r = false ∨ p.store.saving = none)
    (hsave : r ≠ .save)
    (ho : serveOwn r p.nextRequest (numberedPart p)
      = { part := { q with nextRequest := p.nextRequest + 1 }, code := code, data := data }) :
    Answers c p w kind tag payload code data q := by
  have h := answers_own hf hc hp hs hsave
  rw [ho] at h
  exact h

end

/-! ### Events and reports (R182 to R186) -/

theorem eventEnabled_iff (p : Part) (k : EventKind) : eventEnabled p k = true ↔ p.cfg.enable.getLsbD k.index = true := by
  have hk : k.index < 26 := by cases k <;> decide
  have hbit : eventBit k = BitVec.twoPow 26 k.index := rfl
  have hne : BitVec.twoPow 26 k.index ≠ 0#26 := fun h => by
    have := congrArg (fun x => x.getLsbD k.index) h
    simp [hk] at this
  rw [eventEnabled, hbit, BitVec.and_twoPow]
  split <;> simp_all

theorem concerns_eq (k : EventKind) (o : EventObject) (r : Report) :
    Report.concerns k o r = decide (r.kind = k ∧ r.object = o) := by
  rw [Report.concerns, Bool.decide_and]
  rfl

/-- An occurrence sets its raw flag (R182). -/
def flagged (k : EventKind) (p : Part) : Part := { p with rawFlags := p.rawFlags ||| 1#26 <<< k.index }

section

variable {p : Part} {k : EventKind} {o : EventObject}

theorem occur_disabled (h : ¬(p.cfg.enable.getLsbD k.index = true ∧ k ≠ .reportOverflow)) : occur k o p = flagged k p := by
  rw [← eventEnabled_iff] at h
  refine if_pos ?_
  rw [Bool.or_eq_true, beq_iff_eq, Bool.not_eq_true']
  by_cases hk : k = .reportOverflow
  · exact .inl hk
  · exact .inr (by simpa [hk] using h)

theorem occur_enabled (h : p.cfg.enable.getLsbD k.index = true ∧ k ≠ .reportOverflow) :
    occur k o p = queueReport k o (flagged k p) := by
  rw [← eventEnabled_iff] at h
  exact if_neg (by simp [h.1, h.2])

theorem queueReport_coalesces (h : p.reports.any (Report.concerns k o) = true) :
    queueReport k o p
      = { p with reports := p.reports.map fun r => if Report.concerns k o r then r.coalesce p.clock else r } := if_pos h

theorem queueReport_queues (h : p.reports.any (Report.concerns k o) = false) (hl : p.reports.length < 32) :
    queueReport k o p
      = sendReport { p with reports := p.reports ++ [{ kind := k, object := o, time := p.clock, count := 1 }] } :=
  (if_neg (by simp [h])).trans (if_pos hl)

theorem queueReport_overflows (h : p.reports.any (Report.concerns k o) = false) (hl : 32 ≤ p.reports.length) :
    queueReport k o p = { p with rawFlags := p.rawFlags ||| eventBit .reportOverflow } :=
  (if_neg (by simp [h])).trans (if_neg (Nat.not_lt.mpr hl))

end

theorem serveGrantReports_done {p : Part} {n : Byte} (h : p.allowance + n.toNat ≤ 255) :
    serveGrantReports n p = { part := { p with allowance := p.allowance + n.toNat }, code := .done, data := [] } := by
  have hmin : min Config.countMax (p.allowance + n.toNat) = p.allowance + n.toNat := Nat.min_eq_right h
  simp only [serveGrantReports, hmin, doneOr, decide_eq_false (Nat.not_lt.mpr h : ¬Config.countMax < p.allowance + n.toNat)]
  rfl

theorem serveGrantReports_clamped {p : Part} {n : Byte} (h : 255 < p.allowance + n.toNat) :
    serveGrantReports n p = { part := { p with allowance := 255 }, code := .clamped, data := [] } := by
  have hmin : min Config.countMax (p.allowance + n.toNat) = 255 := Nat.min_eq_left (Nat.le_of_lt h)
  simp only [serveGrantReports, hmin, doneOr, decide_eq_true (show Config.countMax < p.allowance + n.toNat from h)]
  rfl

/-- Settles O51, the events by the report queue and the three requests by their service. -/
theorem eventsAreFlaggedAndReported : Obligations.EventsAreFlaggedAndReported := by
  refine ⟨fun p k o => ?_, fun p w tag n mask hf => ?_⟩
  · intro raised enabled same
    have hsame : ∀ r, Report.concerns k o r = same r := concerns_eq k o
    have hnone : (∀ r ∈ p.reports, same r = false) → (flagged k p).reports.any (Report.concerns k o) = false := fun h => by
      simpa [List.any_eq_false, flagged, hsame] using h
    refine ⟨occur_disabled, fun he hr => ?_, fun he hr hl => ?_, fun he hr hl => ?_⟩
    · obtain ⟨r, hm, hr⟩ := hr
      rw [occur_enabled he, queueReport_coalesces (p := flagged k p) (List.any_eq_true.mpr ⟨r, hm, (hsame r).trans hr⟩)]
      simp only [hsame]
      rfl
    · rw [occur_enabled he, queueReport_queues (p := flagged k p) (hnone hr) hl]
      rfl
    · rw [occur_enabled he, queueReport_overflows (p := flagged k p) (hnone hr) hl]
      rfl
  · exact ⟨answers_served hf rfl (parse_clearFlags mask) (.inl rfl) nofun rfl,
      fun hs => answers_served hf rfl (parse_enableFlags mask) (.inr hs) nofun rfl,
      fun h => answers_served (r := .grantReports n) hf rfl rfl (.inl rfl) nofun
        (serveGrantReports_done (p := numberedPart p) h),
      fun h => answers_served (r := .grantReports n) hf rfl rfl (.inl rfl) nofun
        (serveGrantReports_clamped (p := numberedPart p) h)⟩

/-! ### Frames sent (R168, R178, R192) -/

section

variable {p : Part}

theorem supervisorSent_idle (h : p.supTx = none) : supervisorSent p = p := by rw [supervisorSent, h]

theorem supervisorSent_report {frame : List Byte} (h : p.supTx = some { what := .report, frame := frame }) :
    supervisorSent p = { p with supTx := none } := by rw [supervisorSent, h]

theorem supervisorSent_reply {serial : Nat} {frame : List Byte}
    (h : p.supTx = some { what := .reply serial, frame := frame }) :
    supervisorSent p
      = if p.restarting = some serial then restartTaken { p with supTx := none }
        else replySent serial { p with supTx := none } := by
  rw [supervisorSent, h]
  simp only [beq_iff_eq]

end

/-- Settles O42, by what was being sent. -/
theorem supervisorFrameSent : Obligations.SupervisorFrameSent := by
  intro p w ha
  refine ⟨fun h => running_of_eq ha (supervisorSent_idle h), fun frame h => running_of_eq ha (supervisorSent_report h),
    fun serial frame h hr => running_of_eq ha ((supervisorSent_reply h).trans (if_neg hr)), fun serial frame h hr => ?_⟩
  refine (running_of_eq ha ((supervisorSent_reply h).trans (if_pos hr))).trans (next_congr ?_)
  have hpin : restartTaken { p with supTx := none } = kick (resetPart p.store p.cfg p.rate false) := by
    rw [← ha.2]
    rfl
  rw [hpin, kick_kick]
  rfl

/-! ### SAVE and RESTART (R178, R191) -/

section

variable {p : Part} {s : SaveInProgress} {r : QueuedRequest}

theorem saveCompared_idle (h : p.store.saving = none) (b : Bool) : saveCompared b p = p := by rw [saveCompared, h]

theorem saveTimedOut_idle (h : p.store.saving = none) : saveTimedOut p = p := by rw [saveTimedOut, h]

theorem saveCompared_running (h : p.store.saving = some s) (b : Bool) :
    saveCompared b p = if b = true ∧ p.clock ≤ s.started + 800 then saveSucceeds s p else saveFails s p := by
  rw [saveCompared, h]
  simp only [Bool.and_eq_true, decide_eq_true_eq]
  rfl

theorem saveTimedOut_running (h : p.store.saving = some s) : saveTimedOut p = saveFails s (reach (s.started + 800) p) := by
  rw [saveTimedOut, h]
  rfl

/-- The reply of the SAVE whose request is still kept. -/
theorem saveReply_found {serial : Nat} (h : p.requests.find? (fun q => q.serial == serial) = some r)
    (code : ResultCode) : saveReply serial code p =
      { p with
        requests := p.requests.map fun q => if q.serial = serial then { q with condition := some .answered } else q
        replies := p.replies ++ [{ serial := serial, kind := r.kind, tag := r.tag, code := code, data := [] }] } := by
  rw [saveReply, h]
  simp only [formReply, beq_iff_eq]

end

/-- Settles O52: the service of both requests, and the three ends of a store operation. -/
theorem saveAndRestart : Obligations.SaveAndRestart := by
  intro p w tag
  refine ⟨fun hf hs => ⟨?_, ?_⟩, fun ha hs => ⟨?_, ?_, ?_⟩, fun s r ha hs hr => ?_⟩
  case refine_1 =>
    obtain ⟨hawake, hlength, hrestarting⟩ := hf
    refine (running_awake hawake _).trans (next_congr (congrArg kick ?_))
    rw [acceptRequest_served hlength hrestarting]
    have hserve : serve (byteOf 23) [] p.nextRequest (numberedPart p)
        = (answered .done (beginSave p.nextRequest (numberedPart p)), true) :=
      serve_own (p := numberedPart p) (r := .save) rfl (.inr hs)
    simp only [serveAccepted, hserve]
    rfl
  case refine_2 => exact answers_served (r := .restart) hf rfl rfl (.inr hs) nofun rfl
  case refine_3 => exact running_of_eq ha (saveCompared_idle hs true)
  case refine_4 => exact running_of_eq ha (saveCompared_idle hs false)
  case refine_5 => exact running_of_eq ha (saveTimedOut_idle hs)
  case refine_6 =>
    intro ended failed
    have hfails : saveFails s p = _ := saveReply_found (p := { p with store := failed }) hr .storeFailed
    refine ⟨fun hc => running_of_eq ha ?_, fun hc => running_of_eq ha ?_, running_of_eq ha ?_, running_of_eq ha ?_⟩
    · rw [saveCompared_running hs, if_pos ⟨rfl, hc⟩]
      exact saveReply_found (p := { p with store := { valid := true, contents := p.cfg, saving := none } }) hr .done
    · rw [saveCompared_running hs, if_neg (by omega), hfails]
    · rw [saveCompared_running hs, if_neg (by simp), hfails]
    · rw [saveTimedOut_running hs]
      exact saveReply_found (p := { p with clock := max p.clock (s.started + 800), store := failed }) hr .storeFailed

end Sys2Proof.Proofs
end

section
/-! The state after reset has the invariants (R188 to R190). -/

namespace Sys2Proof.Proofs

open Sys2Proof.Machine

/-- After reset every island is the one that nothing serves. -/
theorem reset_island {i : IslandNo} {r : Island} (h : State.reset.part.islands[i] = some r) : r = Island.unserved := by
  simpa [State.reset, Part.acquiring, eq_comm] using h

theorem reset_linesSafe : State.reset.part.linesSafe := by
  unfold Part.linesSafe GovRecord.oneLine
  decide

theorem reset_ordersFit : State.reset.part.ordersFit := by
  unfold Part.ordersFit
  decide

theorem reset_queuesFit : State.reset.part.queuesFit := fun _ _ h => by
  rw [reset_island h]
  exact ⟨by decide, nofun, nofun⟩

theorem reset_supervisorFits : State.reset.part.supervisorFits := by
  unfold Part.supervisorFits
  decide

theorem reset_mapFollows : State.reset.part.mapFollows := by
  unfold Part.mapFollows
  decide

theorem reset_statesExist : State.reset.part.statesExist := by
  unfold Part.statesExist
  decide

theorem reset_heavyApart : State.reset.part.heavyApart := fun _ _ h => by
  rw [reset_island h]
  exact ⟨List.nodup_nil, nofun⟩

theorem reset_entriesExist : State.reset.part.entriesExist := by
  unfold Part.entriesExist
  decide

theorem reset_historiesFit : State.reset.part.historiesFit := fun _ _ h => by
  rw [reset_island h]
  exact ⟨List.nodup_nil, List.Pairwise.nil, nofun⟩

/-- Settles O60. -/
theorem resetHoldsInvariants : Obligations.ResetHoldsInvariants :=
  ⟨reset_linesSafe, reset_ordersFit, reset_queuesFit, reset_supervisorFits, ⟨default_fits, default_fits⟩, reset_mapFollows,
    reset_statesExist, reset_heavyApart, reset_entriesExist, reset_historiesFit⟩

end Sys2Proof.Proofs
end

section
/-! Whole frames on both lines: their sums and headers, what an outbound frame carries, and what an inbound one brings (R22 to
R25, R40, R164, R180). -/

namespace Sys2Proof.Proofs

open Sys2Proof.Machine Sys2Proof.Claims

/-! ### Bytes and sums (R24, R164) -/

theorem byteOf_toNat {n : Nat} (h : n < 256) : (byteOf n).toNat = n := by simp [byteOf, Nat.mod_eq_of_lt h]

theorem sum16_lt (bs : List Byte) : sum16 bs < 65536 := Nat.mod_lt _ (by decide)

theorem fromBytes_be16 {n : Nat} (h : n < 65536) : fromBytes (be16 n) = n := by
  simp only [fromBytes, be16, List.foldl_cons, List.foldl_nil, byteOf, BitVec.toNat_ofNat]
  omega

/-- A frame with its sum put behind it passes the check of its sum. -/
theorem sumHolds_withSum (bs : List Byte) : sumHolds (withSum bs) = true := by
  have hlength : (withSum bs).length - 2 = bs.length := by simp [withSum, be16]
  simp only [sumHolds, hlength]
  simp only [withSum, List.length_append, List.drop_left, List.take_left, fromBytes_be16 (sum16_lt bs)]
  simp [be16]

/-! ### Field frames (R22 to R24, R40) -/

section

variable {station : Nat} {area : List Byte}

theorem fieldFrame_length : (fieldFrame station area).length = area.length + 6 := by
  simp only [fieldFrame, withSum, be16, List.length_append, List.length_cons, List.length_nil]
  omega

theorem fieldHeaderGood_fieldFrame (hlo : 1 ≤ station) (hhi : station ≤ 62) (hpos : area ≠ []) (hlen : area.length ≤ 240) :
    fieldHeaderGood (fieldFrame station area) = true := by
  have hstation : (byteOf station).toNat = station := byteOf_toNat (by omega)
  have hlength : (byteOf area.length).toNat = area.length := byteOf_toNat (by omega)
  have hcheck : (byteOf (255 - area.length)).toNat = 255 - area.length := byteOf_toNat (by omega)
  have htotal : (fieldFrame station area).length = 6 + (byteOf area.length).toNat := by
    rw [fieldFrame_length, hlength, Nat.add_comm]
  have hgood : (Config.fieldMark == Config.fieldMark && !fieldHeaderBad [Config.fieldMark, byteOf station]
      && !fieldHeaderBad [Config.fieldMark, byteOf station, byteOf area.length]
      && !fieldHeaderBad [Config.fieldMark, byteOf station, byteOf area.length, byteOf (255 - area.length)]
      && (fieldFrame station area).length == 6 + (byteOf area.length).toNat) = true := by
    simp only [fieldHeaderBad, hstation, hcheck, htotal, beq_self_eq_true]
    simp only [hlength, Config.stationMax, Config.fieldAreaMax]
    simp [hpos]
    exact ⟨⟨by omega, decide_eq_false (by omega)⟩, hlen⟩
  exact hgood

theorem sumHolds_fieldFrame : sumHolds (fieldFrame station area) = true := sumHolds_withSum _

theorem fieldStation_fieldFrame (h : station ≤ 62) : fieldStation (fieldFrame station area) = station :=
  byteOf_toNat (by omega)

theorem fieldArea_fieldFrame : fieldArea (fieldFrame station area) = area := by
  rw [fieldArea, fieldFrame_length, Nat.add_sub_cancel]
  simp only [fieldFrame, withSum, List.cons_append, List.nil_append, List.drop_succ_cons, List.drop_zero, List.take_left]

end

/-! ### Supervisor frames (R163, R164, R180) -/

section

variable {kind tag : Byte} {payload : List Byte}

theorem supervisorFrame_length : (supervisorFrame kind tag payload).length = payload.length + 7 := by
  simp only [supervisorFrame, withSum, be16, List.length_append, List.length_cons, List.length_nil]
  omega

theorem supervisorHeaderGood_supervisorFrame (hlen : payload.length ≤ 248) :
    supervisorHeaderGood (supervisorFrame kind tag payload) = true := by
  have hlength : (byteOf (payload.length + 2)).toNat = payload.length + 2 := byteOf_toNat (by omega)
  have hcheck : (byteOf (255 - (payload.length + 2))).toNat = 255 - (payload.length + 2) := byteOf_toNat (by omega)
  have htotal : (supervisorFrame kind tag payload).length = 5 + (byteOf (payload.length + 2)).toNat := by
    rw [supervisorFrame_length, hlength]
    omega
  have hgood : (Config.supervisorMark == Config.supervisorMark
      && !supervisorHeaderBad [Config.supervisorMark, byteOf (payload.length + 2)]
      && !supervisorHeaderBad [Config.supervisorMark, byteOf (payload.length + 2), byteOf (255 - (payload.length + 2))]
      && (supervisorFrame kind tag payload).length == 5 + (byteOf (payload.length + 2)).toNat) = true := by
    simp only [supervisorHeaderBad, hcheck, htotal, beq_self_eq_true]
    simp only [hlength]
    simp
    omega
  exact hgood

theorem sumHolds_supervisorFrame : sumHolds (supervisorFrame kind tag payload) = true := sumHolds_withSum _

theorem supervisorKind_supervisorFrame : supervisorKind (supervisorFrame kind tag payload) = kind := rfl

theorem supervisorTag_supervisorFrame : supervisorTag (supervisorFrame kind tag payload) = tag := rfl

theorem supervisorPayload_supervisorFrame : supervisorPayload (supervisorFrame kind tag payload) = payload := by
  rw [supervisorPayload, supervisorFrame_length, Nat.add_sub_cancel]
  simp only [supervisorFrame, withSum, List.cons_append, List.nil_append, List.drop_succ_cons, List.drop_zero,
    List.take_left]

end

/-! ### What outbound frames carry (R27, R40, R169, R180, R181) -/

/-- In a list of codes in their order, the place of a code is its number. -/
theorem position_of_map_range {α : Type} {l : List α} {m n : Nat} {a : α} (f : α → Nat) (hl : l.map f = List.range m)
    (h : l[n]? = some a) : f a = n := by
  have hn : (List.range m)[n]? = some (f a) := by rw [← hl, List.getElem?_map, h, Option.map_some]
  obtain ⟨hlt, hn⟩ := List.getElem?_eq_some_iff.mp hn
  rw [← hn, List.getElem_range]

/-- Settles O8: the checks by the shape of a frame, the fields by the order, the code and the event. -/
theorem outboundFramesAreGood : Obligations.OutboundFramesAreGood := by
  unfold Obligations.OutboundFramesAreGood
  intro orderFields codes kinds named
  refine ⟨fun station b hlo hhi => ?_, fun r n hlen hn => ?_, fun r n hn => ?_⟩
  · have harea : [b.kindByte, byteOf b.number] ++ be16 b.argument
        = [(orderFields b).1, byteOf (orderFields b).2.1, byteOf ((orderFields b).2.2 / 256), byteOf (orderFields b).2.2] := by
      cases b with
      | consumer c a => cases a <;> rfl
      | set k a => cases a <;> rfl
    refine ⟨fieldHeaderGood_fieldFrame hlo hhi (by simp) (by simp [be16]), sumHolds_fieldFrame,
      fieldStation_fieldFrame hhi, fieldArea_fieldFrame.trans harea⟩
  · have hcode : r.code.value = n := position_of_map_range (m := 11) ResultCode.value (by decide) hn
    refine ⟨supervisorHeaderGood_supervisorFrame (Nat.succ_le_succ hlen), sumHolds_supervisorFrame, rfl, rfl, ?_⟩
    rw [replyFrame, supervisorPayload_supervisorFrame, hcode]
  · have hkind : r.kind.index = n := position_of_map_range (m := 26) EventKind.index (by decide) hn
    have hobject : (r.object.classCode, r.object.number) = named r.object := by cases r.object <;> rfl
    refine ⟨supervisorHeaderGood_supervisorFrame (by simp [be32]), sumHolds_supervisorFrame, rfl, rfl, ?_⟩
    rw [reportFrame, supervisorPayload_supervisorFrame, hkind, ← hobject]
    rfl

/-! ### Inbound frames (R24, R25, R164, R165) -/

/-- Settles O40: the frame is its request, or fails one of its two checks. -/
theorem supervisorFrameIsItsRequest : Obligations.SupervisorFrameIsItsRequest := by
  intro p w ha
  refine ⟨fun kind tag payload hlen => running_of_eq ha ?_, fun frame h => running_of_eq ha ?_⟩
  · simp only [supervisorFrameTaken, supervisorHeaderGood_supervisorFrame hlen, if_true, supervisorFrameArrived,
      sumHolds_supervisorFrame, supervisorPayload_supervisorFrame, supervisorKind_supervisorFrame,
      supervisorTag_supervisorFrame]
    rfl
  · simp only [supervisorFrameTaken, supervisorFrameArrived]
    obtain h | h := h
    · rw [h]
      rfl
    · rw [h]
      split <;> rfl

theorem splitRecords_flatten {records : List (List Byte)} (fuel : Nat)
    (h : ∀ r ∈ records, ∃ k rest, r = k :: rest ∧ recordSize k.toNat = some r.length) (hf : records.length ≤ fuel) :
    splitRecords fuel records.flatten = some records := by
  induction records generalizing fuel with
  | nil => cases fuel <;> rfl
  | cons r records ih =>
    obtain ⟨k, rest, rfl, hsize⟩ := h r List.mem_cons_self
    cases fuel with
    | zero => simp at hf
    | succ fuel =>
      have hrest := ih fuel (fun r hr => h r (List.mem_cons_of_mem _ hr)) (by simpa using hf)
      rw [List.flatten_cons, List.cons_append, splitRecords, hsize]
      simp only [← List.cons_append, List.drop_left, List.take_left, hrest, List.length_append, Option.map_some]
      exact if_neg (by omega)

/-- The record area of records of known sizes is read as those records (R24). -/
theorem areaRecords_flatten {records : List (List Byte)}
    (h : ∀ r ∈ records, ∃ k rest, r = k :: rest ∧ recordSize k.toNat = some r.length) :
    areaRecords records.flatten = some records := by
  refine splitRecords_flatten _ h ?_
  induction records with
  | nil => exact Nat.zero_le _
  | cons r records ih =>
    obtain ⟨k, rest, rfl, -⟩ := h r List.mem_cons_self
    have := ih fun r hr => h r (List.mem_cons_of_mem _ hr)
    simp only [List.length_cons, List.flatten_cons, List.length_append]
    omega

/-- Settles O9: a frame that fails a check goes with one event, and a good one is the fold over its records. -/
theorem fieldFrameReceived : Obligations.FieldFrameReceived := by
  intro p w ha
  refine ⟨fun frame h => running_of_eq ha ?_, fun station records hlo hhi hne hsizes hlen => running_of_eq ha ?_⟩
  · simp only [fieldFrameTaken, fieldFrameArrived]
    obtain h | h | h := h
    · rw [h]
      rfl
    · rw [h]
      split <;> [split; skip] <;> rfl
    · rw [h]
      split <;> rfl
  · have hflat : records.flatten ≠ [] := by
      intro hnil
      obtain ⟨r, hr⟩ := List.exists_mem_of_ne_nil _ hne
      obtain ⟨k, rest, rfl, -⟩ := hsizes r hr
      exact absurd (List.flatten_eq_nil_iff.mp hnil _ hr) (by simp)
    simp only [fieldFrameTaken, fieldHeaderGood_fieldFrame hlo hhi hflat hlen, if_true, fieldFrameArrived,
      fieldArea_fieldFrame, areaRecords_flatten hsizes, sumHolds_fieldFrame, fieldStation_fieldFrame hhi]
    rfl

end Sys2Proof.Proofs
end

section
/-! The two receivers: bytes hunted, collected, made into frames and dropped (R23, R24, R164). -/

namespace Sys2Proof.Proofs

open Sys2Proof.Machine Sys2Proof.Claims

/-! ### What a byte makes of the frame being assembled -/

theorem fieldTake_hunting (b : Byte) : fieldTake [] b = .collecting (if b = 165#8 then [165#8] else []) := by
  by_cases h : b = 165#8
  · subst h
    rfl
  · simp [fieldTake, Config.fieldMark, h]

theorem fieldTake_station (a : Byte) :
    fieldTake [165#8] a = if a.toNat = 0 ∨ 62 < a.toNat then .rejected [a] else .collecting [165#8, a] := by
  simp only [fieldTake, fieldHeaderBad, fieldFrameFull, List.isEmpty_cons, List.cons_append, List.nil_append,
    Bool.or_eq_true, beq_iff_eq, decide_eq_true_eq, List.tail_cons, Bool.false_eq_true, if_false]
  rfl

theorem fieldTake_length (a l : Byte) :
    fieldTake [165#8, a] l = if l.toNat = 0 ∨ 240 < l.toNat then .rejected [a, l] else .collecting [165#8, a, l] := by
  simp only [fieldTake, fieldHeaderBad, fieldFrameFull, List.isEmpty_cons, List.cons_append, List.nil_append,
    Bool.or_eq_true, beq_iff_eq, decide_eq_true_eq, List.tail_cons, Bool.false_eq_true, if_false]
  rfl

theorem fieldTake_badCheck {a l c : Byte} (h : c.toNat ≠ 255 - l.toNat) :
    fieldTake [165#8, a, l] c = .rejected [a, l, c] := by
  simp [fieldTake, fieldHeaderBad, h]

theorem supervisorTake_hunting (b : Byte) : supervisorTake [] b = .collecting (if b = 90#8 then [90#8] else []) := by
  by_cases h : b = 90#8
  · subst h
    rfl
  · simp [supervisorTake, Config.supervisorMark, h]

theorem supervisorTake_length (l : Byte) :
    supervisorTake [90#8] l = if l.toNat < 2 ∨ 250 < l.toNat then .rejected [l] else .collecting [90#8, l] := by
  simp only [supervisorTake, supervisorHeaderBad, supervisorFrameFull, List.isEmpty_cons, List.cons_append, List.nil_append,
    Bool.or_eq_true, decide_eq_true_eq, List.tail_cons, Bool.false_eq_true, if_false]

theorem supervisorTake_badCheck {l c : Byte} (h : c.toNat ≠ 255 - l.toNat) :
    supervisorTake [90#8, l] c = .rejected [l, c] := by
  simp [supervisorTake, supervisorHeaderBad, h]

/-! ### The bytes of a good frame -/

theorem fieldHeaderGood_iff (frame : List Byte) : fieldHeaderGood frame = true ↔
    ∃ a l c area, frame = Config.fieldMark :: a :: l :: c :: area ∧ fieldHeaderBad [Config.fieldMark, a] = false
      ∧ fieldHeaderBad [Config.fieldMark, a, l] = false ∧ fieldHeaderBad [Config.fieldMark, a, l, c] = false
      ∧ frame.length = 6 + l.toNat := by
  constructor
  · intro h
    match frame, h with
    | m :: a :: l :: c :: area, h =>
      simp only [fieldHeaderGood, Bool.and_eq_true, beq_iff_eq, Bool.not_eq_true'] at h
      obtain ⟨⟨⟨⟨rfl, ha⟩, hl⟩, hc⟩, hlen⟩ := h
      exact ⟨a, l, c, area, rfl, ha, hl, hc, hlen⟩
  · rintro ⟨a, l, c, area, rfl, ha, hl, hc, hlen⟩
    simp only [fieldHeaderGood, ha, hl, hc, hlen, beq_self_eq_true, Bool.not_false, Bool.and_self]

/-- The first bytes of a good frame are collected. -/
theorem fieldTake_collects {taken rest : List Byte} {b : Byte} (h : fieldHeaderGood (taken ++ b :: rest) = true)
    (hr : rest ≠ []) : fieldTake taken b = .collecting (taken ++ [b]) := by
  obtain ⟨a, l, c, area, hframe, ha, hl, hc, hlen⟩ := (fieldHeaderGood_iff _).mp h
  have hshort : (taken ++ [b]).length < 6 + l.toNat := by
    have := List.length_pos_iff.mpr hr
    simp only [List.length_append, List.length_cons, List.length_nil] at hlen ⊢
    omega
  match taken, hframe with
  | [], hframe =>
    rw [List.nil_append, List.cons.injEq] at hframe
    rw [hframe.1]
    rfl
  | [m], hframe =>
    simp only [List.cons_append, List.nil_append, List.cons.injEq] at hframe
    obtain ⟨rfl, rfl, -⟩ := hframe
    simp [fieldTake, ha, fieldFrameFull]
  | [m, x], hframe =>
    simp only [List.cons_append, List.nil_append, List.cons.injEq] at hframe
    obtain ⟨rfl, rfl, rfl, -⟩ := hframe
    simp [fieldTake, hl, fieldFrameFull]
  | [m, x, y], hframe =>
    simp only [List.cons_append, List.nil_append, List.cons.injEq] at hframe
    obtain ⟨rfl, rfl, rfl, rfl, -⟩ := hframe
    simp [fieldTake, hc, fieldFrameFull]
    omega
  | m :: x :: y :: z :: more, hframe =>
    simp only [List.cons_append, List.cons.injEq] at hframe
    obtain ⟨rfl, rfl, rfl, rfl, -⟩ := hframe
    have hfull : fieldFrameFull (Config.fieldMark :: x :: y :: z :: (more ++ [b])) = false :=
      beq_false_of_ne (Nat.ne_of_lt hshort)
    simp [fieldTake, hfull, fieldHeaderBad]

/-- The last byte of a good frame completes it. -/
theorem fieldTake_completes {taken : List Byte} {b : Byte} (h : fieldHeaderGood (taken ++ [b]) = true) :
    fieldTake taken b = .complete (taken ++ [b]) := by
  obtain ⟨a, l, c, area, hframe, -, -, -, hlen⟩ := (fieldHeaderGood_iff _).mp h
  have hlong : 5 ≤ taken.length := by
    simp only [List.length_append, List.length_cons, List.length_nil] at hlen
    omega
  match taken, hlong, hframe with
  | m :: x :: y :: z :: u :: more, _, hframe =>
    simp only [List.cons_append, List.cons.injEq] at hframe
    obtain ⟨rfl, rfl, rfl, rfl, -⟩ := hframe
    have hfull : fieldFrameFull (Config.fieldMark :: x :: y :: z :: u :: (more ++ [b])) = true :=
      beq_iff_eq.mpr hlen
    simp [fieldTake, hfull, fieldHeaderBad]

theorem supervisorHeaderGood_iff (frame : List Byte) : supervisorHeaderGood frame = true ↔
    ∃ l c body, frame = Config.supervisorMark :: l :: c :: body ∧ supervisorHeaderBad [Config.supervisorMark, l] = false
      ∧ supervisorHeaderBad [Config.supervisorMark, l, c] = false ∧ frame.length = 5 + l.toNat := by
  constructor
  · intro h
    match frame, h with
    | m :: l :: c :: body, h =>
      simp only [supervisorHeaderGood, Bool.and_eq_true, beq_iff_eq, Bool.not_eq_true'] at h
      obtain ⟨⟨⟨rfl, hl⟩, hc⟩, hlen⟩ := h
      exact ⟨l, c, body, rfl, hl, hc, hlen⟩
  · rintro ⟨l, c, body, rfl, hl, hc, hlen⟩
    simp only [supervisorHeaderGood, hl, hc, hlen, beq_self_eq_true, Bool.not_false, Bool.and_self]

theorem supervisorTake_collects {taken rest : List Byte} {b : Byte}
    (h : supervisorHeaderGood (taken ++ b :: rest) = true) (hr : rest ≠ []) :
    supervisorTake taken b = .collecting (taken ++ [b]) := by
  obtain ⟨l, c, body, hframe, hl, hc, hlen⟩ := (supervisorHeaderGood_iff _).mp h
  have hshort : (taken ++ [b]).length < 5 + l.toNat := by
    have := List.length_pos_iff.mpr hr
    simp only [List.length_append, List.length_cons, List.length_nil] at hlen ⊢
    omega
  match taken, hframe with
  | [], hframe =>
    rw [List.nil_append, List.cons.injEq] at hframe
    rw [hframe.1]
    rfl
  | [m], hframe =>
    simp only [List.cons_append, List.nil_append, List.cons.injEq] at hframe
    obtain ⟨rfl, rfl, -⟩ := hframe
    simp [supervisorTake, hl, supervisorFrameFull]
  | [m, x], hframe =>
    simp only [List.cons_append, List.nil_append, List.cons.injEq] at hframe
    obtain ⟨rfl, rfl, rfl, -⟩ := hframe
    simp [supervisorTake, hc, supervisorFrameFull]
    omega
  | m :: x :: y :: more, hframe =>
    simp only [List.cons_append, List.cons.injEq] at hframe
    obtain ⟨rfl, rfl, rfl, -⟩ := hframe
    have hfull : supervisorFrameFull (Config.supervisorMark :: x :: y :: (more ++ [b])) = false :=
      beq_false_of_ne (Nat.ne_of_lt hshort)
    simp [supervisorTake, hfull, supervisorHeaderBad]

theorem supervisorTake_completes {taken : List Byte} {b : Byte} (h : supervisorHeaderGood (taken ++ [b]) = true) :
    supervisorTake taken b = .complete (taken ++ [b]) := by
  obtain ⟨l, c, body, hframe, -, -, hlen⟩ := (supervisorHeaderGood_iff _).mp h
  have hlong : 4 ≤ taken.length := by
    simp only [List.length_append, List.length_cons, List.length_nil] at hlen
    omega
  match taken, hlong, hframe with
  | m :: x :: y :: z :: more, _, hframe =>
    simp only [List.cons_append, List.cons.injEq] at hframe
    obtain ⟨rfl, rfl, rfl, -⟩ := hframe
    have hfull : supervisorFrameFull (Config.supervisorMark :: x :: y :: z :: (more ++ [b])) = true :=
      beq_iff_eq.mpr hlen
    simp [supervisorTake, hfull, supervisorHeaderBad]

/-! ### The receivers, byte by byte -/

section

variable {p : Part} {fuel : Nat} {b : Byte} {rest again buf frame : List Byte}

theorem fieldBytes_collecting (h : fieldTake p.fieldRx.buf b = .collecting buf) :
    fieldBytes (fuel + 1) (b :: rest) p = fieldBytes fuel rest (fieldBuffer buf p) := by rw [fieldBytes, h]

theorem fieldBytes_complete (h : fieldTake p.fieldRx.buf b = .complete frame) :
    fieldBytes (fuel + 1) (b :: rest) p = fieldBytes fuel rest (fieldFrameArrived frame (fieldBuffer [] p)) := by
  rw [fieldBytes, h]

theorem fieldBytes_nil : fieldBytes fuel [] p = p := by cases fuel <;> rfl

theorem supervisorBytes_collecting (h : supervisorTake p.supRx.buf b = .collecting buf) :
    supervisorBytes (fuel + 1) (b :: rest) p = supervisorBytes fuel rest (supervisorBuffer buf p) := by
  rw [supervisorBytes, h]

theorem supervisorBytes_complete (h : supervisorTake p.supRx.buf b = .complete frame) :
    supervisorBytes (fuel + 1) (b :: rest) p
      = supervisorBytes fuel rest (kick (supervisorFrameArrived frame (supervisorBuffer [] p))) := by
  rw [supervisorBytes, h]

theorem supervisorBytes_nil : supervisorBytes fuel [] p = p := by cases fuel <;> rfl

theorem fieldByte_collecting (h : fieldTake p.fieldRx.buf b = .collecting buf) : fieldByte b p = fieldBuffer buf p :=
  (fieldBytes_collecting h).trans fieldBytes_nil

theorem fieldByte_complete (h : fieldTake p.fieldRx.buf b = .complete frame) :
    fieldByte b p = fieldFrameArrived frame (fieldBuffer [] p) := (fieldBytes_complete h).trans fieldBytes_nil

theorem supervisorByte_collecting (h : supervisorTake p.supRx.buf b = .collecting buf) :
    supervisorByte b p = supervisorBuffer buf p := (supervisorBytes_collecting h).trans supervisorBytes_nil

theorem supervisorByte_complete (h : supervisorTake p.supRx.buf b = .complete frame) :
    supervisorByte b p = kick (supervisorFrameArrived frame (supervisorBuffer [] p)) :=
  (supervisorBytes_complete h).trans supervisorBytes_nil

end

/-! ### Bytes make frames -/

/-- A receiver that collects the bytes of a good frame up to its last one, and does `arrived` with that, does so for the bytes
one after another. -/
theorem runs_bytes {cmd : Byte → Instr} {good : List Byte → Bool} {buffer : List Byte → Part} {arrived : List Byte → Part}
    {w : List Instr}
    (hcollects : ∀ taken rest b, good (taken ++ b :: rest) = true → rest ≠ [] →
      exec (cmd b) { part := buffer taken, pending := w } = .next { part := buffer (taken ++ [b]), pending := w })
    (hcompletes : ∀ taken b, good (taken ++ [b]) = true →
      exec (cmd b) { part := buffer taken, pending := w } = .next { part := arrived (taken ++ [b]), pending := w })
    (rest : List Byte) (hr : rest ≠ []) (taken : List Byte) (h : good (taken ++ rest) = true) :
    runs (rest.map cmd) { part := buffer taken, pending := w } = { part := arrived (taken ++ rest), pending := w } := by
  induction rest generalizing taken with
  | nil => exact absurd rfl hr
  | cons b rest ih =>
    rw [List.map_cons, runs]
    by_cases hlast : rest = []
    · subst hlast
      rw [hcompletes taken b h]
      rfl
    · rw [hcollects taken rest b h hlast]
      have := ih hlast (taken ++ [b]) (by rwa [List.append_assoc])
      rwa [List.append_assoc] at this

/-- A part with nothing left to choose has nothing left to choose whatever its receivers hold. -/
theorem kick_receivers {p : Part} (h : kick p = p) (field supervisor : Receiver) :
    kick { p with fieldRx := field, supRx := supervisor } = { p with fieldRx := field, supRx := supervisor } := by
  obtain ⟨hacquires, horders, hsupervisor⟩ := h ▸ quiet_kick p
  refine Quiet.kick ⟨fun hp => ?_, horders, hsupervisor⟩
  obtain ⟨o, ho, hq⟩ := hacquires hp
  exact ⟨o, (objectConfigured_congr (by rfl) o).trans ho, by cases o <;> exact hq⟩

theorem exec_fieldByte_collects {p : Part} {w : List Instr} {b : Byte} {buf : List Byte} (ha : Awake p)
    (h : fieldTake p.fieldRx.buf b = .collecting buf) :
    exec (.fieldByteReceived b) { part := p, pending := w } = .next { part := kick (fieldBuffer buf p), pending := w } :=
  running_of_eq ha (fieldByte_collecting h)

theorem exec_supervisorByte_collects {p : Part} {w : List Instr} {b : Byte} {buf : List Byte} (ha : Awake p)
    (h : supervisorTake p.supRx.buf b = .collecting buf) :
    exec (.supervisorByteReceived b) { part := p, pending := w }
      = .next { part := kick (supervisorBuffer buf p), pending := w } :=
  running_of_eq ha (supervisorByte_collecting h)

theorem runs_fieldBytes {p : Part} {w : List Instr} {frame : List Byte} (ha : Awake p) (hk : kick p = p)
    (hbuf : p.fieldRx.buf = []) (hg : fieldHeaderGood frame = true) :
    runs (frame.map .fieldByteReceived) { part := p, pending := w }
      = { part := kick (fieldFrameArrived frame (fieldBuffer [] p)), pending := w } := by
  obtain ⟨a, l, c, area, rfl, -⟩ := (fieldHeaderGood_iff frame).mp hg
  have hcollects : ∀ taken rest b, fieldHeaderGood (taken ++ b :: rest) = true → rest ≠ [] →
      exec (.fieldByteReceived b) { part := fieldBuffer taken p, pending := w }
        = .next { part := fieldBuffer (taken ++ [b]) p, pending := w } := fun taken rest b h hr =>
    (exec_fieldByte_collects (p := fieldBuffer taken p) ha (fieldTake_collects h hr)).trans
      (next_congr (kick_receivers hk _ p.supRx))
  have hcompletes : ∀ taken b, fieldHeaderGood (taken ++ [b]) = true →
      exec (.fieldByteReceived b) { part := fieldBuffer taken p, pending := w }
        = .next { part := kick (fieldFrameArrived (taken ++ [b]) (fieldBuffer [] p)), pending := w } := fun taken b h =>
    running_of_eq (p := fieldBuffer taken p) ha (fieldByte_complete (fieldTake_completes h))
  have hmark : fieldTake p.fieldRx.buf Config.fieldMark = .collecting [Config.fieldMark] := by
    rw [hbuf]
    rfl
  have hfirst : kick (fieldBuffer [Config.fieldMark] p) = fieldBuffer [Config.fieldMark] p := kick_receivers hk _ p.supRx
  rw [List.map_cons, runs, exec_fieldByte_collects ha hmark, hfirst]
  exact runs_bytes (good := fieldHeaderGood) (buffer := fun taken => fieldBuffer taken p)
    (arrived := fun frame => kick (fieldFrameArrived frame (fieldBuffer [] p))) hcollects hcompletes
    (a :: l :: c :: area) (by simp) [Config.fieldMark] hg

theorem runs_supervisorBytes {p : Part} {w : List Instr} {frame : List Byte} (ha : Awake p) (hk : kick p = p)
    (hbuf : p.supRx.buf = []) (hg : supervisorHeaderGood frame = true) :
    runs (frame.map .supervisorByteReceived) { part := p, pending := w }
      = { part := kick (supervisorFrameArrived frame (supervisorBuffer [] p)), pending := w } := by
  obtain ⟨l, c, body, rfl, -⟩ := (supervisorHeaderGood_iff frame).mp hg
  have hcollects : ∀ taken rest b, supervisorHeaderGood (taken ++ b :: rest) = true → rest ≠ [] →
      exec (.supervisorByteReceived b) { part := supervisorBuffer taken p, pending := w }
        = .next { part := supervisorBuffer (taken ++ [b]) p, pending := w } := fun taken rest b h hr =>
    (exec_supervisorByte_collects (p := supervisorBuffer taken p) ha (supervisorTake_collects h hr)).trans
      (next_congr (kick_receivers hk p.fieldRx _))
  have hcompletes : ∀ taken b, supervisorHeaderGood (taken ++ [b]) = true →
      exec (.supervisorByteReceived b) { part := supervisorBuffer taken p, pending := w }
        = .next { part := kick (supervisorFrameArrived (taken ++ [b]) (supervisorBuffer [] p)), pending := w } :=
    fun taken b h => (running_of_eq (p := supervisorBuffer taken p) ha
      (supervisorByte_complete (supervisorTake_completes h))).trans (next_congr (kick_kick _))
  have hmark : supervisorTake p.supRx.buf Config.supervisorMark = .collecting [Config.supervisorMark] := by
    rw [hbuf]
    rfl
  have hfirst : kick (supervisorBuffer [Config.supervisorMark] p) = supervisorBuffer [Config.supervisorMark] p :=
    kick_receivers hk p.fieldRx _
  rw [List.map_cons, runs, exec_supervisorByte_collects ha hmark, hfirst]
  exact runs_bytes (good := supervisorHeaderGood) (buffer := fun taken => supervisorBuffer taken p)
    (arrived := fun frame => kick (supervisorFrameArrived frame (supervisorBuffer [] p))) hcollects hcompletes
    (l :: c :: body) (by simp) [Config.supervisorMark] hg

/-- Settles O18: hunting, collecting, and the whole frame by its bytes. -/
theorem bytesMakeFrames : Obligations.BytesMakeFrames := by
  intro p w ha
  refine ⟨fun b h => exec_fieldByte_collects ha (h ▸ fieldTake_hunting b),
    fun b h => exec_supervisorByte_collects ha (h ▸ supervisorTake_hunting b),
    fun taken rest b hr => ⟨fun hg h => exec_fieldByte_collects ha (by rw [h, fieldTake_collects hg hr]),
      fun hg h => exec_supervisorByte_collects ha (by rw [h, supervisorTake_collects hg hr])⟩,
    fun hk frame => ⟨fun hbuf hg => ?_, fun hbuf hg => ?_⟩⟩
  · rw [runs_fieldBytes ha hk hbuf hg, runs, show exec (.fieldFrameReceived frame) { part := p, pending := w } = _ from
      running_of_eq (f := fieldFrameTaken frame) ha (if_pos hg)]
    rfl
  · rw [runs_supervisorBytes ha hk hbuf hg, runs, show exec (.supervisorFrameReceived frame) { part := p, pending := w } = _ from
      running_of_eq (f := supervisorFrameTaken frame) ha (if_pos hg)]
    rfl

/-! ### Bad frames and gaps -/

section

variable (buf : List Byte) (p : Part)

theorem sendReport_fieldBuffer : sendReport (fieldBuffer buf p) = fieldBuffer buf (sendReport p) := by
  by_cases h : p.supTx.isSome = true ∨ p.replies ≠ [] ∨ p.reports = [] ∨ p.allowance = 0
  · rw [sendReport_rests (p := fieldBuffer buf p) h, sendReport_rests h]
  · obtain ⟨ht, hr, hne, ha⟩ : p.supTx = none ∧ p.replies = [] ∧ p.reports ≠ [] ∧ 0 < p.allowance := by
      simpa [not_or, Nat.pos_iff_ne_zero] using h
    obtain ⟨r, rest, hrep⟩ := List.exists_cons_of_ne_nil hne
    rw [sendReport_takes (p := fieldBuffer buf p) ht hr hrep ha, sendReport_takes ht hr hrep ha]
    rfl

/-- What an occurrence does has nothing to do with the field receiver. -/
theorem occur_fieldBuffer (k : EventKind) (o : EventObject) :
    occur k o (fieldBuffer buf p) = fieldBuffer buf (occur k o p) := by
  by_cases he : p.cfg.enable.getLsbD k.index = true ∧ k ≠ .reportOverflow
  · rw [occur_enabled (p := fieldBuffer buf p) he, occur_enabled he]
    cases hr : p.reports.any (Report.concerns k o) with
    | true =>
      rw [queueReport_coalesces (p := flagged k (fieldBuffer buf p)) hr, queueReport_coalesces (p := flagged k p) hr]
      rfl
    | false =>
      by_cases hl : p.reports.length < 32
      · rw [queueReport_queues (p := flagged k (fieldBuffer buf p)) hr hl, queueReport_queues (p := flagged k p) hr hl,
          ← sendReport_fieldBuffer]
        rfl
      · rw [queueReport_overflows (p := flagged k (fieldBuffer buf p)) hr (Nat.not_lt.mp hl),
          queueReport_overflows (p := flagged k p) hr (Nat.not_lt.mp hl)]
        rfl
  · rw [occur_disabled (p := fieldBuffer buf p) he, occur_disabled he]
    rfl

end

theorem occur_clock (k : EventKind) (o : EventObject) (p : Part) : (occur k o p).clock = p.clock := by
  obtain ⟨f, r, t, n, e⟩ := occur_eq k o p
  rw [e]

/-- A dropped field frame leaves the receiver collecting what has been hunted through again. -/
theorem fieldBuffer_occur (buf : List Byte) (p : Part) :
    fieldBuffer buf (occur .fieldFrameError .fieldLine p)
      = { occur .fieldFrameError .fieldLine p with fieldRx := { buf := buf, lastAt := p.clock } } :=
  congrArg (fun t => { occur .fieldFrameError .fieldLine p with fieldRx := { buf := buf, lastAt := t } }) (occur_clock _ _ p)

section

variable {p : Part} {a l c : Byte} {fuel : Nat}

@[simp] theorem fieldBuffer_buf (buf : List Byte) (p : Part) : (fieldBuffer buf p).fieldRx.buf = buf := rfl

@[simp] theorem supervisorBuffer_buf (buf : List Byte) (p : Part) : (supervisorBuffer buf p).supRx.buf = buf := rfl

@[simp] theorem fieldBuffer_fieldBuffer (x y : List Byte) (p : Part) : fieldBuffer x (fieldBuffer y p) = fieldBuffer x p := rfl

@[simp] theorem supervisorBuffer_supervisorBuffer (x y : List Byte) (p : Part) :
    supervisorBuffer x (supervisorBuffer y p) = supervisorBuffer x p := rfl

theorem fieldHeaderRejected_station (h : a.toNat = 0 ∨ 62 < a.toNat) :
    fieldHeaderRejected [165#8, a] p
      = fieldBuffer (if a = 165#8 then [165#8] else []) (occur .fieldFrameError .fieldLine p) := by
  simp only [fieldHeaderRejected, List.length_cons, List.length_nil, Nat.reduceAdd, Nat.reduceMul, fieldBytes,
    fieldBuffer_buf, fieldBuffer_fieldBuffer, fieldTake_hunting, if_true, fieldTake_station, if_pos h, occur_fieldBuffer,
    List.append_nil]

theorem ne_mark_of_station {a : Byte} (h : a.toNat ≤ 62) : a ≠ 165#8 := fun e => by simp [e] at h

theorem fieldHeaderRejected_length (hlo : 1 ≤ a.toNat) (hhi : a.toNat ≤ 62) (h : l.toNat = 0 ∨ 240 < l.toNat) :
    fieldHeaderRejected [165#8, a, l] p = fieldBuffer [] (occur .fieldFrameError .fieldLine p) := by
  have hstation : ¬(a.toNat = 0 ∨ 62 < a.toNat) := by omega
  have hl : l ≠ 165#8 := fun e => by simp [e] at h
  simp only [fieldHeaderRejected, List.length_cons, List.length_nil, Nat.reduceAdd, Nat.reduceMul, fieldBytes,
    fieldBuffer_buf, fieldBuffer_fieldBuffer, fieldTake_hunting, if_true, fieldTake_station, if_neg hstation,
    fieldTake_length, if_pos h, occur_fieldBuffer, List.append_nil, if_neg (ne_mark_of_station hhi), if_neg hl]

theorem fieldHeaderRejected_check (hlo : 1 ≤ a.toNat) (hhi : a.toNat ≤ 62) (hl : 1 ≤ l.toNat) (hl' : l.toNat ≤ 240)
    (h : c.toNat ≠ 255 - l.toNat) :
    fieldHeaderRejected [165#8, a, l, c] p
      = if l = 165#8 then
          if 1 ≤ c.toNat ∧ c.toNat ≤ 62 then fieldBuffer [165#8, c] (occur .fieldFrameError .fieldLine p)
          else fieldBuffer (if c = 165#8 then [165#8] else [])
            (occur .fieldFrameError .fieldLine (occur .fieldFrameError .fieldLine p))
        else fieldBuffer (if c = 165#8 then [165#8] else []) (occur .fieldFrameError .fieldLine p) := by
  have hstation : ¬(a.toNat = 0 ∨ 62 < a.toNat) := by omega
  have hlength : ¬(l.toNat = 0 ∨ 240 < l.toNat) := by omega
  simp only [fieldHeaderRejected, List.length_cons, List.length_nil, Nat.reduceAdd, Nat.reduceMul, fieldBytes,
    fieldBuffer_buf, fieldBuffer_fieldBuffer, fieldTake_hunting, if_true, fieldTake_station, if_neg hstation,
    fieldTake_length, if_neg hlength, fieldTake_badCheck h, occur_fieldBuffer, List.append_nil,
    if_neg (ne_mark_of_station hhi)]
  by_cases hm : l = 165#8
  · by_cases hc : 1 ≤ c.toNat ∧ c.toNat ≤ 62
    · have hsecond : ¬(c.toNat = 0 ∨ 62 < c.toNat) := by omega
      simp only [if_pos hm, if_pos hc, fieldTake_station, if_neg hsecond]
    · have hsecond : c.toNat = 0 ∨ 62 < c.toNat := by omega
      simp only [if_pos hm, if_neg hc, fieldTake_station, if_pos hsecond, fieldBytes, fieldBuffer_buf,
        fieldTake_hunting, fieldBuffer_fieldBuffer]
  · simp only [if_neg hm, fieldTake_hunting]

theorem supervisorHeaderRejected_length (h : l.toNat < 2 ∨ 250 < l.toNat) :
    supervisorHeaderRejected [90#8, l] p = supervisorBuffer [] p := by
  have hl : l ≠ 90#8 := fun e => by simp [e] at h
  simp only [supervisorHeaderRejected, List.length_cons, List.length_nil, Nat.reduceAdd, Nat.reduceMul, supervisorBytes,
    supervisorBuffer_buf, supervisorBuffer_supervisorBuffer, supervisorTake_hunting, if_true, supervisorTake_length, if_pos h,
    List.append_nil, if_neg hl]

theorem supervisorHeaderRejected_check (hl : 2 ≤ l.toNat) (hl' : l.toNat ≤ 250) (h : c.toNat ≠ 255 - l.toNat) :
    supervisorHeaderRejected [90#8, l, c] p
      = supervisorBuffer
          (if l = 90#8 then if 2 ≤ c.toNat ∧ c.toNat ≤ 250 then [90#8, c] else []
           else if c = 90#8 then [90#8] else []) p := by
  have hlength : ¬(l.toNat < 2 ∨ 250 < l.toNat) := by omega
  simp only [supervisorHeaderRejected, List.length_cons, List.length_nil, Nat.reduceAdd, Nat.reduceMul, supervisorBytes,
    supervisorBuffer_buf, supervisorBuffer_supervisorBuffer, supervisorTake_hunting, if_true, supervisorTake_length,
    if_neg hlength, supervisorTake_badCheck h, List.append_nil]
  by_cases hm : l = 90#8
  · by_cases hc : 2 ≤ c.toNat ∧ c.toNat ≤ 250
    · have hsecond : ¬(c.toNat < 2 ∨ 250 < c.toNat) := by omega
      simp only [if_pos hm, if_pos hc, supervisorTake_length, if_neg hsecond]
    · have hsecond : c.toNat < 2 ∨ 250 < c.toNat := by omega
      have hmark : c ≠ 90#8 := fun e => by simp [e] at hsecond
      simp only [if_pos hm, if_neg hc, supervisorTake_length, if_pos hsecond, supervisorBytes,
        supervisorBuffer_buf, supervisorTake_hunting, supervisorBuffer_supervisorBuffer, if_neg hmark]
  · simp only [if_neg hm, supervisorTake_hunting]

end

/-- Settles O19: the rejected headers of both lines, and the gaps. -/
theorem receiversDropBadFrames : Obligations.ReceiversDropBadFrames := by
  refine ⟨fun p w a l c ha => ⟨fun h => running_of_eq ha ?_, fun hlo hhi => ⟨fun h => running_of_eq ha ?_, fun hl hl' h => ?_⟩⟩,
    fun p w l c ha => ⟨fun h => running_of_eq ha (supervisorHeaderRejected_length h),
      fun hl hl' h => running_of_eq ha (supervisorHeaderRejected_check hl hl' h)⟩,
    fun p w ha => ⟨fun h => running_of_eq (f := fieldGapPassed) ha (if_pos (by simp [h])),
      fun h => running_of_eq (f := fieldGapPassed) ha (if_neg (by simp [h])),
      fun h => running_of_eq (f := supervisorGapPassed) ha (if_pos (by simp [h])),
      fun h => running_of_eq (f := supervisorGapPassed) ha (if_neg (by simp [h]))⟩⟩
  · rw [← fieldBuffer_occur]
    exact fieldHeaderRejected_station h
  · rw [← fieldBuffer_occur]
    exact fieldHeaderRejected_length hlo hhi h
  · refine (running_awake ha _).trans (next_congr ?_)
    rw [fieldHeaderRejected_check hlo hhi hl hl' h]
    simp only [apply_ite kick, fieldBuffer_occur, occur_clock]

end Sys2Proof.Proofs
end

section
/-! What the units leave alone as they act, in the terms of the statements: the desk, the field line, the raised flags. -/

namespace Sys2Proof.Proofs

open Sys2Proof.Machine Sys2Proof.Claims

/-! ### Occurrences -/

theorem sendReport_desk {p q : Part} (h : SameDesk p q) : SameDesk p (sendReport q) := by
  obtain ⟨hd, ht⟩ := h
  by_cases hrest : q.supTx.isSome = true ∨ q.replies ≠ [] ∨ q.reports = [] ∨ q.allowance = 0
  · rw [sendReport_rests hrest]
    exact ⟨hd, ht⟩
  · obtain ⟨hidle, hr, hne, ha⟩ : q.supTx = none ∧ q.replies = [] ∧ q.reports ≠ [] ∧ 0 < q.allowance := by
      simpa [not_or, Nat.pos_iff_ne_zero] using hrest
    obtain ⟨r, rest, hrep⟩ := List.exists_cons_of_ne_nil hne
    rw [sendReport_takes hidle hr hrep ha]
    refine ⟨hd, .inr ?_⟩
    obtain ⟨hsame, hallow⟩ | ⟨-, -, -, r', hsome⟩ := ht
    · simp only [Prod.mk.injEq] at hd
      obtain ⟨-, -, -, -, -, -, -, hreplies, -⟩ := hd
      refine ⟨hsame ▸ hidle, hreplies ▸ hr, ?_, r, rfl⟩
      rw [← hallow]
      exact (Nat.sub_add_cancel ha).symm
    · rw [hidle] at hsome
      exact nomatch hsome

theorem queueReport_desk (k : EventKind) (o : EventObject) {p q : Part} (h : SameDesk p q) :
    SameDesk p (queueReport k o q) := by
  unfold queueReport
  split
  · exact h
  · split
    · exact sendReport_desk (q := { q with reports := _ }) h
    · exact h

theorem occur_desk (k : EventKind) (o : EventObject) {p q : Part} (h : SameDesk p q) : SameDesk p (occur k o q) := by
  unfold occur
  extract_lets raised
  split
  · exact h
  · exact queueReport_desk k o (q := raised) h

theorem sendReport_rawFlags (p : Part) : (sendReport p).rawFlags = p.rawFlags := by
  obtain ⟨r, t, n, e⟩ := sendReport_eq p
  rw [e]

theorem queueReport_flags (k : EventKind) (o : EventObject) (p : Part) (n : Nat) (h : p.rawFlags.getLsbD n = true) :
    (queueReport k o p).rawFlags.getLsbD n = true := by
  unfold queueReport
  split
  · exact h
  · split
    · rw [sendReport_rawFlags]
      exact h
    · rw [BitVec.getLsbD_or, h, Bool.true_or]

/-- An occurrence sets its own flag and clears none (R182). -/
theorem occur_flags (k : EventKind) (o : EventObject) (p : Part) (n : Nat) (h : (flagged k p).rawFlags.getLsbD n = true) :
    (occur k o p).rawFlags.getLsbD n = true := by
  unfold occur
  extract_lets raised
  split
  · exact h
  · exact queueReport_flags k o raised n h

theorem occur_flagged (k : EventKind) (o : EventObject) (p : Part) : Flagged (occur k o p) k := by
  refine occur_flags k o p _ ?_
  have hk : k.index < 26 := by cases k <;> decide
  simp [flagged, hk]

theorem occur_keeps_flag (k j : EventKind) (o : EventObject) {p : Part} (h : Flagged p j) : Flagged (occur k o p) j := by
  refine occur_flags k o p _ ?_
  have h' : p.rawFlags.getLsbD j.index = true := h
  rw [flagged, BitVec.getLsbD_or, h', Bool.true_or]

/-! ### Orders handed over -/

theorem arbitrate_nextOrder (p : Part) : (arbitrate p).nextOrder = p.nextOrder := by
  obtain ⟨t, x, y, e⟩ := arbitrate_eq p
  rw [e]

/-- An order that joins the queues, or does not, is apart from the line: either no event comes of it, or ORDER_QUEUE_FULL. -/
theorem joinQueues_apart (b : OrderBody) (u : Bool) (p : Part) :
    (joinQueues b u p).part.fieldTx = p.fieldTx ∧ p.nextOrder ≤ (joinQueues b u p).part.nextOrder
      ∧ ((∃ x y n, (joinQueues b u p).part = { p with urgent := x, normal := y, nextOrder := n })
        ∨ (joinQueues b u p).part = occur .orderQueueFull (objectNamed b.object) p) := by
  have hfull : (queueFull b p).part.fieldTx = p.fieldTx ∧ p.nextOrder ≤ (queueFull b p).part.nextOrder := by
    obtain ⟨f, r, t, n, e⟩ := occur_eq .orderQueueFull (objectNamed b.object) p
    rw [queueFull, e]
    exact ⟨rfl, Nat.le_refl _⟩
  unfold joinQueues replaceOrder
  extract_lets o
  split
  · exact ⟨rfl, Nat.le_refl _, .inl ⟨p.urgent, p.normal, p.nextOrder, rfl⟩⟩
  · split
    · split
      · exact ⟨rfl, Nat.le_succ _, .inl ⟨_, _, _, rfl⟩⟩
      · split
        · exact ⟨rfl, Nat.le_succ _, .inl ⟨_, _, _, rfl⟩⟩
        · split
          · exact ⟨rfl, Nat.le_succ _, .inl ⟨_, _, _, rfl⟩⟩
          · exact ⟨hfull.1, hfull.2, .inr rfl⟩
    · split
      · exact ⟨rfl, Nat.le_succ _, .inl ⟨_, p.normal, _, rfl⟩⟩
      · split
        · exact ⟨rfl, Nat.le_succ _, .inl ⟨p.urgent, _, _, rfl⟩⟩
        · exact ⟨hfull.1, hfull.2, .inr rfl⟩

theorem joinQueues_desk (b : OrderBody) (u : Bool) {p q : Part} (h : SameDesk p q) : SameDesk p (joinQueues b u q).part := by
  obtain ⟨-, -, ⟨x, y, n, e⟩ | e⟩ := joinQueues_apart b u q
  · rw [e]
    exact h
  · rw [e]
    exact occur_desk _ _ h

theorem joinQueues_flag (b : OrderBody) (u : Bool) (k : EventKind) {p : Part} (h : Flagged p k) :
    Flagged (joinQueues b u p).part k := by
  obtain ⟨-, -, ⟨x, y, n, e⟩ | e⟩ := joinQueues_apart b u p
  · rw [e]
    exact h
  · rw [e]
    exact occur_keeps_flag _ _ _ h

/-- Handing an order over is joining the queues, and the arbiter's choice where they were empty (R29, R32). -/
theorem handOver_part (b : OrderBody) (u : Bool) (p : Part) :
    (handOver b u p).part
      = if p.urgent = [] ∧ p.normal = [] then arbitrate (joinQueues b u p).part else (joinQueues b u p).part := by
  unfold handOver
  extract_lets joined
  simp only [Bool.and_eq_true, List.isEmpty_iff]
  split <;> rfl

theorem handOver_desk (b : OrderBody) (u : Bool) {p q : Part} (h : SameDesk p q) : SameDesk p (handOver b u q).part := by
  have hj := joinQueues_desk b u h
  rw [handOver_part]
  split
  · obtain ⟨t, x, y, e⟩ := arbitrate_eq (joinQueues b u q).part
    rw [e]
    exact hj
  · exact hj

theorem handOver_flag (b : OrderBody) (u : Bool) (k : EventKind) {p : Part} (h : Flagged p k) :
    Flagged (handOver b u p).part k := by
  have hj := joinQueues_flag b u k h
  rw [handOver_part]
  split
  · obtain ⟨t, x, y, e⟩ := arbitrate_eq (joinQueues b u p).part
    rw [e]
    exact hj
  · exact hj

/-- What an idle transmitter takes as it takes an order (R32). -/
def taken (p : Part) (o : Order) : OrderInTransmission :=
  { order := o, station := objectStation p o.body.object, frame := orderFrame (objectStation p o.body.object) o.body,
    withdrawn := false }

/-- An order handed over is taken at once by an idle transmitter, or the transmitter stays as it is (R32). -/
theorem handOver_line (b : OrderBody) (u : Bool) (p : Part) :
    p.nextOrder ≤ (handOver b u p).part.nextOrder
      ∧ ((handOver b u p).part.fieldTx = p.fieldTx
        ∨ (p.fieldTx = none ∧ p.phase = .run ∧ ∃ o : Order, o.serial = p.nextOrder ∧ o.body = b
          ∧ (handOver b u p).part.fieldTx = some (taken p o))) := by
  have hj := joinQueues_apart b u p
  rw [handOver_part]
  split
  case isFalse => exact ⟨hj.2.1, .inl hj.1⟩
  case isTrue h =>
    obtain ⟨hu, hn⟩ := h
    refine ⟨hj.2.1.trans_eq (arbitrate_nextOrder _).symm, ?_⟩
    by_cases hc : objectConfigured p b.object = true
    case neg =>
      left
      rw [show joinQueues b u p = { part := p, queued := none, replaced := none } from if_pos (by simp [hc]),
        arbitrate_of_empty hu hn]
    have hq := queuedFor_of_empty hu hn b.object
    by_cases hidle : p.phase = .run ∧ p.fieldTx = none
    case pos =>
      obtain ⟨hp, ht⟩ := hidle
      refine .inr ⟨ht, hp, ?_⟩
      cases u with
      | true =>
        rw [joinQueues_urgent hc hq, arbitrate_withUrgent hp ht hu]
        exact ⟨_, rfl, rfl, rfl⟩
      | false =>
        rw [joinQueues_normal hc hq (by simp [Room, hn]), arbitrate_withNormal hp ht hu hn]
        exact ⟨_, rfl, rfl, rfl⟩
    case neg =>
      left
      have hrests : ∀ q : Part, q.phase = p.phase → q.fieldTx = p.fieldTx → arbitrate q = q := fun q hp ht => by
        cases hphase : p.phase with
        | acquire => exact arbitrate_acquire (hp.trans hphase)
        | run => exact arbitrate_sending (by rw [ht]; simpa [hphase, Option.isSome_iff_ne_none] using hidle)
      rw [hrests _ ?_ hj.1, hj.1]
      cases u with
      | true => rw [joinQueues_urgent hc hq]; rfl
      | false => rw [joinQueues_normal hc hq (by simp [Room, hn])]; rfl

/-! ### What the units leave alone -/

/-- The part after what the units do of their own accord: the clock, the records, the configuration, the island map and the
feedback timers are those before it, a report or an order may have begun to be sent. -/
structure Beside (p q : Part) : Prop where
  aside : q.aside = p.aside
  desk : SameDesk p q
  orders : p.nextOrder ≤ q.nextOrder
  line : q.fieldTx = p.fieldTx
    ∨ (p.fieldTx = none ∧ p.phase = .run ∧ ∃ o : Order, p.nextOrder ≤ o.serial ∧ q.fieldTx = some (taken p o))

namespace Beside

variable {p q : Part}

theorem refl (p : Part) : Beside p p := ⟨rfl, ⟨rfl, .inl ⟨rfl, rfl⟩⟩, Nat.le_refl _, .inl rfl⟩

/-- With none of the fields concerned changed. -/
theorem of_eq {r : Part} (h : Beside p q) (haside : r.aside = q.aside) (hsup : r.supTx = q.supTx)
    (hallow : r.allowance = q.allowance) (hnext : r.nextOrder = q.nextOrder) (htx : r.fieldTx = q.fieldTx) : Beside p r where
  aside := haside.trans h.aside
  desk := by
    obtain ⟨hd, hs⟩ := h.desk
    simp only [Part.aside, Prod.mk.injEq] at haside
    rw [SameDesk, hsup, hallow]
    exact ⟨haside.1.trans hd, hs⟩
  orders := hnext ▸ h.orders
  line := htx ▸ h.line

theorem fields (h : Beside p q) : q.desk = p.desk ∧ q.settings = p.settings ∧ q.seen = p.seen := by
  have := h.aside
  simpa only [Part.aside, Prod.mk.injEq] using this

theorem cfg (h : Beside p q) : q.cfg = p.cfg := congrArg (fun x => x.1) h.fields.2.1
theorem phase (h : Beside p q) : q.phase = p.phase := congrArg (fun x => x.2.1) h.fields.2.1
theorem map (h : Beside p q) : SameMap p q := congrArg (Prod.snd (α := Configuration)) h.fields.2.1
theorem clock (h : Beside p q) : q.clock = p.clock := congrArg (fun x => x.1) h.fields.2.2
theorem fieldRx (h : Beside p q) : q.fieldRx = p.fieldRx := congrArg (fun x => x.2.1) h.fields.2.2
theorem feedback (h : Beside p q) : q.feedback = p.feedback := congrArg (fun x => x.2.2.1) h.fields.2.2
theorem images (h : Beside p q) : SameImages p q := by
  obtain ⟨-, -, h⟩ := h.fields
  exact congrArg (fun x => x.2.2.2) h
theorem setImage (h : Beside p q) : q.setImage = p.setImage := congrArg (fun x => x.2.2.2.1) h.fields.2.2
theorem consumerImage (h : Beside p q) : q.consumerImage = p.consumerImage := congrArg (fun x => x.2.2.2.2.1) h.fields.2.2

theorem sameLine (h : Beside p q) : SameLine p q := ⟨h.fieldRx, h.feedback, h.line⟩

theorem sameAside (h : Beside p q) : SameAside p q := ⟨h.desk, h.cfg, h.clock, h.map, h.images, h.sameLine⟩

theorem occur (h : Beside p q) (k : EventKind) (o : EventObject) : Beside p (Machine.occur k o q) := by
  refine ⟨(occur_aside k o q).trans h.aside, occur_desk k o h.desk, ?_, ?_⟩
  all_goals
    obtain ⟨f, r, t, n, e⟩ := occur_eq k o q
    rw [e]
  · exact h.orders
  · exact h.line

theorem joinQueues (h : Beside p q) (b : OrderBody) (u : Bool) : Beside p (Machine.joinQueues b u q).part := by
  obtain ⟨ht, hn, -⟩ := joinQueues_apart b u q
  exact ⟨(joinQueues_aside b u q).trans h.aside, joinQueues_desk b u h.desk, h.orders.trans hn, ht ▸ h.line⟩

theorem handOver (h : Beside p q) (b : OrderBody) (u : Bool) : Beside p (Machine.handOver b u q).part := by
  obtain ⟨hn, hline⟩ := handOver_line b u q
  refine ⟨(handOver_aside b u q).trans h.aside, handOver_desk b u h.desk, h.orders.trans hn, ?_⟩
  obtain ht | ⟨ht, hp, o, ho, hb, htaken⟩ := hline
  · exact ht ▸ h.line
  · have hstation : taken q o = taken p o := by
      have hs : objectStation q o.body.object = objectStation p o.body.object := by
        cases o.body.object <;> simp only [objectStation, setCfg, entryCfg, h.cfg]
      rw [taken, taken, hs]
    obtain hsame | ⟨-, -, o', -, hsome⟩ := h.line
    · exact .inr ⟨hsame ▸ ht, h.phase ▸ hp, o, ho ▸ h.orders, hstation ▸ htaken⟩
    · rw [ht] at hsome
      exact nomatch hsome

end Beside

/-- Everything that the units do of their own accord is beside. -/
theorem units_beside (p : Part) : Units (Beside p) where
  share _ _ h := h.of_eq rfl rfl rfl rfl rfl
  gov _ _ _ h := h.of_eq rfl rfl rfl rfl rfl
  selection _ _ h := h.of_eq rfl rfl rfl rfl rfl
  entry _ _ h := h.of_eq rfl rfl rfl rfl rfl
  inFlight _ _ h := h.of_eq rfl rfl rfl rfl rfl
  islands _ _ _ _ h := h.of_eq rfl rfl rfl rfl rfl
  occurs _ k o h := h.occur k o
  handed _ c a u _ h := h.handOver (.consumer c a) u
  dropped _ _ h := h.of_eq rfl rfl rfl rfl rfl
  setHanded _ k a h := h.handOver (.set k a) false
  setJoined _ k a h := h.joinQueues (.set k a) false
  setDropped _ _ h := h.of_eq rfl rfl rfl rfl rfl
  seqs _ _ _ h := h.of_eq rfl rfl rfl rfl rfl

/-- The units clear no raised flag (R182, R185). -/
theorem units_flag (k : EventKind) : Units (fun p => Flagged p k) where
  share _ _ h := h
  gov _ _ _ h := h
  selection _ _ h := h
  entry _ _ h := h
  inFlight _ _ h := h
  islands _ _ _ _ h := h
  occurs _ e o h := occur_keeps_flag e k o h
  handed _ c a u _ h := handOver_flag (.consumer c a) u k h
  dropped _ _ h := h
  setHanded _ j a h := handOver_flag (.set j a) false k h
  setJoined _ j a h := joinQueues_flag (.set j a) false k h
  setDropped _ _ h := h
  seqs _ _ _ h := h

end Sys2Proof.Proofs
end

section
/-! The stale timers (R5, R6). -/

namespace Sys2Proof.Proofs

open Sys2Proof.Machine Sys2Proof.Claims

section

variable {p : Part} {o : ObjectRef} {d : Nat}

theorem staleExpired_stopped (h : (freshOf p o).staleAt = none) : staleExpired o p = p := by rw [staleExpired, h]

theorem staleExpired_forgets (h : (freshOf p o).staleAt = some d) (hq : (freshOf p o).state ≠ .qualified) :
    staleExpired o p = onFresh o (fun f => { f with counted := false, staleAt := none }) (reach d p) := by
  rw [staleExpired, h]
  revert hq
  cases (freshOf p o).state with
  | qualified => exact fun hq => absurd rfl hq
  | unqualified => exact fun _ => rfl
  | stale => exact fun _ => rfl

theorem staleExpired_goes (h : (freshOf p o).staleAt = some d) (hq : (freshOf p o).state = .qualified) :
    staleExpired o p = goStale o (reach d p) := by
  rw [staleExpired, h, hq]

theorem onFresh_eq (o : ObjectRef) (f : Fresh → Fresh) (p : Part) : ∃ s c m t,
    onFresh o f p = { p with setImage := s, consumerImage := c, meterImage := m, tieImage := t } := by
  cases o with
  | set k => exact ⟨_, p.consumerImage, p.meterImage, p.tieImage, rfl⟩
  | consumer c => exact ⟨p.setImage, _, p.meterImage, p.tieImage, rfl⟩
  | meter s => exact ⟨p.setImage, p.consumerImage, _, p.tieImage, rfl⟩
  | tie t => exact ⟨p.setImage, p.consumerImage, p.meterImage, _, rfl⟩

theorem freshOf_onFresh_self (o : ObjectRef) (f : Fresh → Fresh) (p : Part) :
    freshOf (onFresh o f p) o = f (freshOf p o) := by
  cases o <;> simp [freshOf, onFresh, onSetImage, onConsumerImage, onMeterImage, onTieImage, modifyAt]

theorem freshOf_onFresh_other {o o' : ObjectRef} (f : Fresh → Fresh) (p : Part) (h : o' ≠ o) :
    freshOf (onFresh o f p) o' = freshOf p o' := by
  cases o <;> cases o' <;>
    simp_all [freshOf, onFresh, onSetImage, onConsumerImage, onMeterImage, onTieImage, modifyAt_get, Fin.ext_iff, eq_comm]

theorem freshOf_congr {p q : Part} (h : SameImages p q) (o : ObjectRef) : freshOf q o = freshOf p o := by
  simp only [SameImages, Prod.mk.injEq] at h
  obtain ⟨hs, hc, hm, ht⟩ := h
  cases o <;> simp only [freshOf, hs, hc, hm, ht]

end

/-- A set's plan as its target goes (R95). -/
theorem cutPlan_self (k : SetNo) (p : Part) : (cutPlan k p).gov[k] =
    if p.gov[k].plan.inProgress = true ∧ p.gov[k].plan.cls ≠ .noPulse then
      { p.gov[k] with
        raise := false
        lower := false
        pulseEnd := none
        plan := { p.gov[k].plan with cutShort := true, inProgress := false } }
    else p.gov[k] := by
  simp only [cutPlan, onGov, Fin.getElem_fin, modifyAt_self, Bool.and_eq_true, bne_iff_ne]
  rfl

theorem cutPlan_other {j k : SetNo} (h : j ≠ k) (p : Part) : (cutPlan j p).gov[k] = p.gov[k] :=
  modifyAt_other p.gov j k _ h

/-- An object that goes STALE: its event, and what becomes of the plan of a set (R6, R95). -/
theorem goStale_eq (o : ObjectRef) (p : Part) : ∃ v,
    goStale o p = { occur .objectStale (objectNamed o) (onFresh o (fun _ => Fresh.gone) p) with gov := v }
      ∧ (∀ k, o = .set k → v[k] = (cutPlan k p).gov[k]) ∧ ∀ k, o ≠ .set k → v[k] = p.gov[k] := by
  obtain ⟨s, c, m, t, e⟩ := onFresh_eq o (fun _ => Fresh.gone) p
  obtain ⟨f, r, x, n, eo⟩ := occur_eq .objectStale (objectNamed o) (onFresh o (fun _ => Fresh.gone) p)
  have hgov : (occur .objectStale (objectNamed o) (onFresh o (fun _ => Fresh.gone) p)).gov = p.gov := by rw [eo, e]
  cases o with
  | set k =>
    refine ⟨(goStale (.set k) p).gov, rfl, ?_, fun j hj => ?_⟩
    · rintro j ⟨rfl⟩
      simp only [goStale, cutPlan_self, hgov]
    · have hne : k ≠ j := fun e => hj (by rw [e])
      simp only [goStale, cutPlan_other hne, hgov]
  | _ => exact ⟨p.gov, congrArg (fun v => { occur .objectStale _ (onFresh _ (fun _ => Fresh.gone) p) with gov := v }) hgov,
      nofun, fun _ _ => rfl⟩

/-- Settles O13. -/
theorem staleTimerExpires : Obligations.StaleTimerExpires := by
  intro p w o ha
  refine ⟨fun h => running_of_eq ha (staleExpired_stopped h), fun d h =>
    ⟨fun hq => running_of_eq ha (staleExpired_forgets h hq), fun hq => ?_⟩⟩
  intro stale
  obtain ⟨v, e, hself, hother⟩ := goStale_eq o (reach d p)
  have hbeside := (Beside.refl (onFresh o (fun _ => Fresh.gone) (reach d p))).occur .objectStale (objectNamed o)
  have himages : SameImages (onFresh o (fun _ => Fresh.gone) p)
      (occur .objectStale (objectNamed o) (onFresh o (fun _ => Fresh.gone) (reach d p))) := by
    refine hbeside.images.trans ?_
    cases o <;> rfl
  have hflag := occur_flagged .objectStale (objectNamed o) (onFresh o (fun _ => Fresh.gone) (reach d p))
  refine ⟨goStale o (reach d p), running_of_eq ha (staleExpired_goes h hq), ?_⟩
  rw [e]
  refine ⟨hflag, (freshOf_congr (q := { occur _ _ _ with gov := v }) himages o).trans (freshOf_onFresh_self o _ p),
    fun o' ho => (freshOf_congr (q := { occur _ _ _ with gov := v }) himages o').trans (freshOf_onFresh_other _ p ho),
    himages, ?_⟩
  obtain ⟨f, r, x, n, eo⟩ := occur_eq .objectStale (objectNamed o) (onFresh o (fun _ => Fresh.gone) (reach d p))
  obtain ⟨s, c, m, t, ef⟩ := onFresh_eq o (fun _ => Fresh.gone) (reach d p)
  have hdesk := hbeside.desk
  rw [ef] at hdesk eo
  rw [ef]
  rw [eo] at hdesk ⊢
  exact ⟨rfl, hdesk, rfl, rfl, ⟨rfl, rfl, .inl rfl⟩, rfl, rfl, rfl, rfl, rfl, rfl, rfl, rfl, rfl, rfl,
    fun k hk => (hself k hk).trans (cutPlan_self k (reach d p)), hother⟩

end Sys2Proof.Proofs
end

section
/-! Island records under updates, and what the hand-on of set state changes and the Reserve Unit's tests leave alone in them and
beside them (R44, R106). -/

namespace Sys2Proof.Proofs

open Sys2Proof.Machine Sys2Proof.Claims

/-! ### One island record -/

section

variable {p q : Part} {i j : IslandNo} {f : Island → Island}

theorem island_some {r : Island} (h : p.islands[i] = some r) : island p i = r := by rw [island, h, Option.getD_some]

theorem islands_of_isSome (h : p.islands[i].isSome = true) : p.islands[i] = some (island p i) := by
  obtain ⟨r, hr⟩ := Option.isSome_iff_exists.mp h
  rw [hr, island_some hr]

theorem onIsland_get (i j : IslandNo) (f : Island → Island) (p : Part) :
    (onIsland i f p).islands[j] = if i = j then p.islands[j].map f else p.islands[j] :=
  modifyAt_get p.islands i j _

theorem onIsland_isSome (i j : IslandNo) (f : Island → Island) (p : Part) :
    (onIsland i f p).islands[j].isSome = p.islands[j].isSome := by
  rw [onIsland_get]
  split <;> simp

theorem island_onIsland_other (h : i ≠ j) : island (onIsland i f p) j = island p j := by
  rw [island, onIsland_get, if_neg h, island]

theorem island_onIsland_self (h : p.islands[i].isSome = true) : island (onIsland i f p) i = f (island p i) := by
  rw [island, onIsland_get, if_pos rfl, islands_of_isSome h, Option.map_some, Option.getD_some]

/-- What every island record holds in some of its fields. -/
def held {α : Type} (g : Island → α) (p : Part) (j : IslandNo) : Option α := p.islands[j].map g

theorem held_congr {α : Type} (g : Island → α) (h : q.islands = p.islands) : held g q = held g p := by
  funext j
  rw [held, held, h]

theorem held_onIsland {α : Type} {g : Island → α} (hf : ∀ r, g (f r) = g r) : held g (onIsland i f p) = held g p := by
  funext j
  rw [held, onIsland_get, held]
  split
  · rw [Option.map_map]
    exact congrFun (congrArg Option.map (funext hf)) _
  · rfl

theorem field_of_held {α : Type} {g : Island → α} (h : held g q = held g p) (j : IslandNo) :
    g (island q j) = g (island p j) := by
  have hj := congrFun h j
  rw [held, held] at hj
  rw [island, island]
  cases hq : q.islands[j] <;> cases hp : p.islands[j] <;> simp_all

/-- A reading of what another reading holds. -/
theorem held_of_held {α β : Type} {g : Island → α} (f : α → β) (h : held g q = held g p) :
    held (fun r => f (g r)) q = held (fun r => f (g r)) p := by
  funext j
  have := congrArg (Option.map f) (congrFun h j)
  simpa only [held, Option.map_map, Function.comp_def] using this

theorem isSome_of_held {α : Type} {g : Island → α} (h : held g q = held g p) (j : IslandNo) :
    q.islands[j].isSome = p.islands[j].isSome := by
  have := congrArg Option.isSome (congrFun h j)
  simpa only [held, Option.isSome_map] using this

/-- One change made to every island record. -/
theorem foldl_onIsland (f : Part → Island → Island) (hf : ∀ q v, f { q with islands := v } = f q) (p : Part) :
    allSections.foldl (fun q i => onIsland i (f q) q) p = { p with islands := p.islands.map (Option.map (f p)) } := by
  have hstep : ∀ (v : Vector (Option Island) 4) (i : IslandNo),
      onIsland i (f { p with islands := v }) { p with islands := v } = { p with islands := modifyAt v i (Option.map (f p)) } :=
    fun v i => by rw [hf]; rfl
  have hp : p = { p with islands := p.islands } := rfl
  conv_lhs => rw [hp]
  simp only [allSections, List.foldl_cons, List.foldl_nil, hstep]
  congr 1
  ext i hi : 1
  simp only [Vector.getElem_map]
  have hget := fun (v : Vector (Option Island) 4) (k : Fin 4) => modifyAt_get v k ⟨i, hi⟩ (Option.map (f p))
  simp only [hget, Fin.ext_iff]
  interval_cases i <;> simp

end

/-! ### Readings that set state changes leave alone -/

/-- A reading of the part that no update of the units' records of sets changes. -/
structure Bystander {α : Sort*} (g : Part → α) : Prop extends Apart g where
  share : ∀ p v, g { p with share := v } = g p
  gov : ∀ p v, g { p with gov := v } = g p
  selection : ∀ p v, g { p with selection := v } = g p
  inFlight : ∀ p v, g { p with inFlight := v } = g p
  seq : ∀ p v, g { p with seq := v } = g p

section

variable {α : Sort*} {g : Part → α}

theorem Bystander.noteReplaced (h : Bystander g) (k : SetNo) (o : Option Order) (p : Part) :
    g (noteReplaced k o p) = g p := by
  unfold Machine.noteReplaced
  split
  · exact h.seq _ _
  · rfl

theorem Bystander.noteHanded (h : Bystander g) (k : SetNo) (a : SetOrder) (o : HandedOver) :
    g (noteHanded k a o).1 = g o.part := by
  have hr := h.noteReplaced k o.replaced o.part
  unfold Machine.noteHanded
  extract_lets noted
  split
  · exact hr
  · exact (h.seq _ _).trans hr

theorem Bystander.handSet (h : Bystander g) (k : SetNo) (a : SetOrder) (p : Part) : g (handSet k a p).1 = g p :=
  (h.noteHanded k a _).trans (h.handOver _ _ p)

theorem Bystander.enter (h : Bystander g) (o : Sequenced) (k : SetNo) (st : SetState) : g (o.enter k st).part = g o.part :=
  h.seq _ _

theorem Bystander.startRequest (h : Bystander g) (k : SetNo) (p : Part) : g (startRequest k p).1.part = g p := by
  unfold Machine.startRequest
  split
  · extract_lets o handed o1
    have ho : g o.part = g p := (h.enter _ k .starting).trans (h.seq _ _)
    have h1 : g o1.part = g p := (h.handSet k .start o.part).trans ho
    split
    · exact h1
    · exact (h.enter o1 k .standby).trans h1
  · rfl

theorem Bystander.abandonRequest (h : Bystander g) (k : SetNo) (p : Part) : g (abandonRequest k p).part = g p := by
  unfold Machine.abandonRequest
  split
  · refine (h.enter _ k .onBus).trans ?_
    exact (h.seq _ _).trans (h.seq _ _)
  · rfl

theorem Bystander.tests (h : Bystander g)
    (ht : ∀ p i (f : Island → Island), (∀ r, (f r).kept = r.kept) → g (onIsland i f p) = g p) (x : α) :
    Tests (fun q => g q = x) where
  share p v hp := (h.share p v).trans hp
  gov p v _ hp := (h.gov p v).trans hp
  selection p v hp := (h.selection p v).trans hp
  inFlight p v hp := (h.inFlight p v).trans hp
  occurs p k o hp := (h.occur k o p).trans hp
  tables p i f hf hp := (ht p i f hf).trans hp
  starts p k hp := (h.startRequest k p).trans hp
  abandons p k hp := (h.abandonRequest k p).trans hp

theorem Bystander.grants (h : Bystander g)
    (ht : ∀ p i (f : Island → Island), (∀ r, (f r).kept = r.kept) → g (onIsland i f p) = g p)
    (hg : ∀ p i (f : List HeavyGrant → List HeavyGrant), g (onReserve i (fun r => { r with grants := f r.grants }) p) = g p)
    (x : α) : Grants (fun q => g q = x) where
  toTests := h.tests ht x
  grants p i f hp := (hg p i f).trans hp

end

theorem bystander_entry : Bystander Part.entry :=
  ⟨⟨fun _ _ _ _ _ => rfl, fun _ _ _ _ _ => rfl, fun _ _ _ _ => rfl⟩, fun _ _ => rfl, fun _ _ => rfl, fun _ _ => rfl,
    fun _ _ => rfl, fun _ _ => rfl⟩

theorem bystander_held {α : Type} (g : Island → α) : Bystander (held g) :=
  ⟨⟨fun _ _ _ _ _ => rfl, fun _ _ _ _ _ => rfl, fun _ _ _ _ => rfl⟩, fun _ _ => rfl, fun _ _ => rfl, fun _ _ => rfl,
    fun _ _ => rfl, fun _ _ => rfl⟩

/-- The Reserve Unit's tests, the hand-on and the release of a grant change no entry. -/
theorem grants_entry (x) : Grants (fun q => q.entry = x) :=
  bystander_entry.grants (fun _ _ _ _ => rfl) (fun _ _ _ => rfl) x

/-- What the release of a grant leaves alone in an island record: the heavy queue, the contexts and the history. -/
def keptBesideGrants (r : Island) := (r.reserve.queue, r.shed, r.restore, r.history)

theorem grants_held (x) : Grants (fun q => held keptBesideGrants q = x) :=
  (bystander_held keptBesideGrants).grants
    (fun _ _ _ hf => held_onIsland fun r => by
      have := hf r
      simp only [Island.kept, Prod.mk.injEq] at this
      obtain ⟨hqueue, -, hshed, hrestore, hhistory⟩ := this
      simp only [keptBesideGrants, hqueue, hshed, hrestore, hhistory])
    (fun _ _ _ => held_onIsland fun _ => rfl) x

/-- The Reserve Unit's tests and the hand-on change neither a heavy queue, nor a grant, nor a context, nor a history. -/
theorem tests_held (x) : Tests (fun q => held Island.kept q = x) :=
  (bystander_held Island.kept).tests (fun _ _ _ hf => held_onIsland hf) x

end Sys2Proof.Proofs
end

section
/-! The figures of an island as sums over all sets (R68): a list sum over the sets that pass a test is a sum over the
eight sets. -/

namespace Sys2Proof.Proofs

open Sys2Proof.Machine Sys2Proof.Claims

theorem sum_filter_map {α : Type} (b : α → Bool) (f : α → Nat) (l : List α) :
    ((l.filter b).map f).sum = (l.map fun a => if b a = true then f a else 0).sum := by
  induction l with
  | nil => rfl
  | cons a l ih => cases hb : b a <;> simp [hb, ih]

theorem sum_allSets (f : SetNo → Nat) : (allSets.map f).sum = ∑ k, f k := by
  rw [Fin.sum_univ_def]
  rfl

/-- A sum over the sets that pass a test, in the integers. -/
theorem sum_sets (b : SetNo → Bool) (f : SetNo → Nat) :
    (((allSets.filter b).map f).sum : Int) = ∑ k, if b k = true then (f k : Int) else 0 := by
  rw [sum_filter_map, sum_allSets]
  push_cast
  rfl

theorem inIsland_iff (p : Part) (i : IslandNo) (s : SectionNo) : inIsland p i s = true ↔ islandOf p s = some i := by
  simp [inIsland]

theorem onIslandBus_eq (p : Part) (i : IslandNo) (k : SetNo) :
    onIslandBus p i k
      = (setConfigured p k && decide (islandOf p p.cfg.sets[k].sect = some i) && p.setImage[k].closed) := by
  rw [Bool.eq_iff_iff]
  simp [onIslandBus, inIsland, setCfg]

/-- Settles O24: the figures are list sums over the sets that pass a test, and so sums over all sets. -/
theorem figuresAreSums : Obligations.FiguresAreSums := by
  unfold Obligations.FiguresAreSums
  intro p i
  extract_lets bus leaving f
  have hbus : ∀ k, onIslandBus p i k = bus k := onIslandBus_eq p i
  have hcounts : ∀ k, countsInCapacity p i k = (bus k && !leaving k) := by
    intro k
    have h1 : ∀ st : SetState, (p.seq[k].state != some st) = !decide (p.seq[k].state = some st) := by
      intro st
      rw [Bool.eq_iff_iff]
      simp
    simp only [countsInCapacity, hbus, h1, leaving, Bool.not_or, Bool.and_assoc]
  refine ⟨?_, ?_, rfl, ?_, rfl⟩
  · change ((islandLoad p i : Nat) : Int) = _
    rw [islandLoad, sum_sets]
    simp only [hbus]
  · change ((islandCapacity p i : Nat) : Int) = _
    rw [islandCapacity, countedSets, sum_sets]
    simp only [hcounts, Bool.and_eq_true, Bool.not_eq_true', setCfg]
  · have hrelief : ∀ e : EntryConfig, (entryInIsland p i e && p.entry[e.consumer].state == some .shedPending)
        = decide (1 ≤ e.station ∧ e.station ≤ 62 ∧ islandOf p e.sect = some i
            ∧ p.entry[e.consumer].state = some .shedPending) := by
      intro e
      rw [Bool.eq_iff_iff, Bool.and_eq_true, entryInIsland_iff, decide_eq_true_iff, beq_iff_eq]
      tauto
    change ((islandLoad p i : Nat) : Int) - (pendingRelief p i : Nat) = _
    simp only [pendingRelief, hrelief]
    rfl

end Sys2Proof.Proofs
end

section
/-! The division of a remainder (R72 to R76). The water-filling keeps the account and, as long as a group's remainder lies
between the sums of its bounds, keeps it there; outside them it pins every set at one end. What is left for the rounding
then lies between the sums of the bounds of the sets still active, so that the residue is placed whole. -/

namespace Sys2Proof.Proofs

open Sys2Proof.Machine Sys2Proof.Claims

/-! ### Sums over a group -/

def sumLo (group : List ShareItem) : Int := (group.map ShareItem.lo).sum

def sumHi (group : List ShareItem) : Int := (group.map ShareItem.hi).sum

theorem sum_filter_not (f : ShareItem → Int) (b : ShareItem → Bool) (l : List ShareItem) :
    ((l.filter b).map f).sum + ((l.filter fun a => !b a).map f).sum = (l.map f).sum := by
  induction l with
  | nil => rfl
  | cons a l ih => cases hb : b a <;> simp [hb] <;> omega

theorem sum_map_le {l : List ShareItem} {f g : ShareItem → Int} (h : ∀ a ∈ l, f a ≤ g a) :
    (l.map f).sum ≤ (l.map g).sum := by
  induction l with
  | nil => simp
  | cons a l ih =>
    have ha := h a (by simp)
    have hl := ih fun b hb => h b (by simp [hb])
    simp only [List.map_cons, List.sum_cons]
    omega

/-- The items of a group have positive weights and bounds that are not crossed. -/
def Sound (group : List ShareItem) : Prop := ∀ a ∈ group, 0 < a.weight ∧ a.lo ≤ a.hi

theorem Sound.filter {group : List ShareItem} (h : Sound group) (b : ShareItem → Bool) : Sound (group.filter b) :=
  fun a ha => h a (List.mem_of_mem_filter ha)

theorem weightSum_pos {group : List ShareItem} (h : Sound group) (hne : group ≠ []) : 0 < weightSum group := by
  induction group with
  | nil => exact absurd rfl hne
  | cons a rest ih =>
    have ha := (h a (by simp)).1
    have hrest : 0 ≤ weightSum rest := by
      by_cases hr : rest = []
      · simp [hr, weightSum]
      · exact (ih (fun b hb => h b (by simp [hb])) hr).le
    simp only [weightSum, List.map_cons, List.sum_cons] at hrest ⊢
    omega

/-! ### One pass of the water-filling (R72, R73) -/

/-- The provisional share times the sum of weights, brought within the bounds. -/
def clamped (s e : Int) (a : ShareItem) : Int :=
  if isHigh s e a then a.hi * e else if isLow s e a then a.lo * e else s * a.weight

section Pass

variable {s e : Int} {group : List ShareItem}

theorem isHigh_iff (a : ShareItem) : isHigh s e a = true ↔ a.hi * e < s * a.weight := by simp [isHigh]

theorem isLow_iff (a : ShareItem) : isLow s e a = true ↔ s * a.weight < a.lo * e := by simp [isLow]

theorem not_high_and_low (he : 0 < e) {a : ShareItem} (hb : a.lo ≤ a.hi) (hh : isHigh s e a = true) :
    isLow s e a = false := by
  have hmul := mul_le_mul_of_nonneg_right hb he.le
  rw [isHigh_iff] at hh
  rw [← Bool.not_eq_true, isLow_iff]
  omega

/-- The sum of the shares brought within the bounds is the whole, less the excess and with the shortfall. -/
theorem sum_clamped (he : 0 < e) (h : Sound group) :
    (group.map (clamped s e)).sum
      = s * weightSum group - excess s e (group.filter (isHigh s e)) + shortfall s e (group.filter (isLow s e)) := by
  induction group with
  | nil => simp [weightSum, excess, shortfall]
  | cons a rest ih =>
    have hrest := ih fun b hb => h b (by simp [hb])
    have hnot := not_high_and_low (s := s) he (h a (by simp)).2
    cases hh : isHigh s e a <;> cases hl : isLow s e a
    · simp [hh, hl, clamped, weightSum, excess, shortfall, mul_add] at hrest ⊢; omega
    · simp [hh, hl, clamped, weightSum, excess, shortfall, mul_add] at hrest ⊢; omega
    · simp [hh, hl, clamped, weightSum, excess, shortfall, mul_add] at hrest ⊢; omega
    · simp [hnot hh] at hl

theorem clamped_le_hi (he : 0 < e) {a : ShareItem} (hb : a.lo ≤ a.hi) : clamped s e a ≤ a.hi * e := by
  have hmul := mul_le_mul_of_nonneg_right hb he.le
  unfold clamped
  split
  · omega
  · next hh =>
    rw [isHigh_iff] at hh
    split <;> omega

theorem lo_le_clamped (he : 0 < e) {a : ShareItem} (hb : a.lo ≤ a.hi) : a.lo * e ≤ clamped s e a := by
  have hmul := mul_le_mul_of_nonneg_right hb he.le
  unfold clamped
  split
  · omega
  · split
    · omega
    · next hl =>
      rw [isLow_iff] at hl
      omega

theorem sum_clamped_le_hi (he : 0 < e) (h : Sound group) : (group.map (clamped s e)).sum ≤ sumHi group * e := by
  rw [sumHi, ← List.sum_map_mul_right]
  exact sum_map_le fun a ha => clamped_le_hi he (h a ha).2

theorem lo_le_sum_clamped (he : 0 < e) (h : Sound group) : sumLo group * e ≤ (group.map (clamped s e)).sum := by
  rw [sumLo, ← List.sum_map_mul_right]
  exact sum_map_le fun a ha => lo_le_clamped he (h a ha).2

theorem sum_clamped_high : ((group.filter (isHigh s e)).map (clamped s e)).sum = sumHi (group.filter (isHigh s e)) * e := by
  rw [sumHi, ← List.sum_map_mul_right]
  refine congrArg List.sum (List.map_congr_left fun a ha => ?_)
  rw [clamped, if_pos (List.of_mem_filter ha)]

theorem sum_clamped_low (he : 0 < e) (h : Sound group) :
    ((group.filter (isLow s e)).map (clamped s e)).sum = sumLo (group.filter (isLow s e)) * e := by
  rw [sumLo, ← List.sum_map_mul_right]
  refine congrArg List.sum (List.map_congr_left fun a ha => ?_)
  have hl := List.of_mem_filter ha
  have hh : ¬isHigh s e a = true := fun hh => by
    simp [not_high_and_low he (h a (List.mem_of_mem_filter ha)).2 hh] at hl
  rw [clamped, if_neg hh, if_pos hl]

end Pass

theorem sumHi_filter (group : List ShareItem) (b : ShareItem → Bool) :
    sumHi (group.filter b) + sumHi (group.filter fun a => !b a) = sumHi group := sum_filter_not _ _ _

theorem sumLo_filter (group : List ShareItem) (b : ShareItem → Bool) :
    sumLo (group.filter b) + sumLo (group.filter fun a => !b a) = sumLo group := sum_filter_not _ _ _

/-- Where the sets above their upper bound are pinned, the rest's lower bounds are still covered. -/
theorem lo_le_of_high_pass {s : Int} {group : List ShareItem} (h : Sound group) (hne : group ≠ [])
    (hle : shortfall s (weightSum group) (group.filter (isLow s (weightSum group)))
      ≤ excess s (weightSum group) (group.filter (isHigh s (weightSum group)))) :
    sumLo (group.filter fun a => !isHigh s (weightSum group) a)
      ≤ s - sumHi (group.filter (isHigh s (weightSum group))) := by
  have he := weightSum_pos h hne
  set e := weightSum group with hdef
  have htotal := sum_clamped (s := s) he h
  have hparts := sum_filter_not (clamped s e) (isHigh s e) group
  rw [sum_clamped_high] at hparts
  have hrest := lo_le_sum_clamped (s := s) he (h.filter fun a => !isHigh s e a)
  rw [← hdef] at htotal
  have hmul : sumLo (group.filter fun a => !isHigh s e a) * e ≤ (s - sumHi (group.filter (isHigh s e))) * e := by
    rw [sub_mul]
    omega
  exact le_of_mul_le_mul_right hmul he

/-- Where the sets below their lower bound are pinned, what is left is below the rest's upper bounds. -/
theorem le_hi_of_low_pass {s : Int} {group : List ShareItem} (h : Sound group) (hne : group ≠ [])
    (hlt : ¬shortfall s (weightSum group) (group.filter (isLow s (weightSum group)))
      ≤ excess s (weightSum group) (group.filter (isHigh s (weightSum group)))) :
    s - sumLo (group.filter (isLow s (weightSum group)))
      < sumHi (group.filter fun a => !isLow s (weightSum group) a) := by
  have he := weightSum_pos h hne
  set e := weightSum group with hdef
  have htotal := sum_clamped (s := s) he h
  have hparts := sum_filter_not (clamped s e) (isLow s e) group
  rw [sum_clamped_low he h] at hparts
  have hrest := sum_clamped_le_hi (s := s) he (h.filter fun a => !isLow s e a)
  rw [← hdef] at htotal
  have hmul : (s - sumLo (group.filter (isLow s e))) * e < sumHi (group.filter fun a => !isLow s e a) * e := by
    rw [sub_mul]
    omega
  exact lt_of_mul_lt_mul_right hmul he.le

/-! ### The water-filling -/

/-- What the water-filling of a group with a remainder comes to. -/
structure FillsTo (group : List ShareItem) (s : Int) (f : Filled) : Prop where
  sets : (f.pinned.map Prod.fst ++ f.active.map ShareItem.set).Perm (group.map ShareItem.set)
  account : (f.pinned.map Prod.snd).sum + f.left = s
  pinned : ∀ x ∈ f.pinned, ∃ a ∈ group, x.1 = a.set ∧ a.lo ≤ x.2 ∧ x.2 ≤ a.hi
  active : ∀ a ∈ f.active, a ∈ group ∧ a.lo * weightSum f.active ≤ f.left * a.weight
    ∧ f.left * a.weight ≤ a.hi * weightSum f.active
  aboveLo : sumLo group ≤ s → sumLo f.active ≤ f.left
  belowHi : s ≤ sumHi group → f.left ≤ sumHi f.active
  allHigh : sumHi group < s → ∀ a ∈ group, a ∈ f.active ∨ (a.set, a.hi) ∈ f.pinned
  allLow : s < sumLo group → ∀ a ∈ group, a ∈ f.active ∨ (a.set, a.lo) ∈ f.pinned

/-- The water-filling ends where no set is beyond its bounds. -/
theorem fillsTo_done {group : List ShareItem} {s : Int}
    (hh : group.filter (isHigh s (weightSum group)) = []) (hl : group.filter (isLow s (weightSum group)) = []) :
    FillsTo group s { pinned := [], active := group, left := s } where
  sets := .rfl
  account := by simp
  pinned := nofun
  active a ha := by
    have hnh := List.filter_eq_nil_iff.1 hh a ha
    have hnl := List.filter_eq_nil_iff.1 hl a ha
    rw [isHigh_iff] at hnh
    rw [isLow_iff] at hnl
    exact ⟨ha, Int.not_lt.1 hnl, Int.not_lt.1 hnh⟩
  aboveLo h := h
  belowHi h := h
  allHigh _ a ha := .inl ha
  allLow _ a ha := .inl ha

/-- The sets of a group as one part pinned at a bound and the fill of the other part. -/
theorem sets_of_pinned {group : List ShareItem} {b : ShareItem → Bool} {g : ShareItem → Int} {s : Int} {f : Filled}
    (h : FillsTo (group.filter fun a => !b a) s f) :
    ((((group.filter b).map fun a => (a.set, g a)) ++ f.pinned).map Prod.fst ++ f.active.map ShareItem.set).Perm
      (group.map ShareItem.set) := by
  have hfst : ((group.filter b).map fun a => (a.set, g a)).map Prod.fst = (group.filter b).map ShareItem.set := by
    rw [List.map_map]
    rfl
  rw [List.map_append, hfst, List.append_assoc]
  refine (h.sets.append_left _).trans ?_
  rw [← List.map_append]
  exact (List.filter_append_perm b group).map _

theorem account_of_pinned {group : List ShareItem} {b : ShareItem → Bool} {g : ShareItem → Int} {s : Int} {f : Filled}
    (h : (f.pinned.map Prod.snd).sum + f.left = s - ((group.filter b).map g).sum) :
    ((((group.filter b).map fun a => (a.set, g a)) ++ f.pinned).map Prod.snd).sum + f.left = s := by
  have hsnd : ((group.filter b).map fun a => (a.set, g a)).map Prod.snd = (group.filter b).map g := by
    rw [List.map_map]
    rfl
  rw [List.map_append, hsnd, List.sum_append]
  omega

/-- A pass that pins the sets above their upper bounds. -/
theorem fillsTo_high {group : List ShareItem} {s : Int} {f : Filled} (h : Sound group) (hne : group ≠ [])
    (hle : shortfall s (weightSum group) (group.filter (isLow s (weightSum group)))
      ≤ excess s (weightSum group) (group.filter (isHigh s (weightSum group))))
    (hf : FillsTo (group.filter fun a => !isHigh s (weightSum group) a)
      (s - ((group.filter (isHigh s (weightSum group))).map ShareItem.hi).sum) f) :
    FillsTo group s { f with
      pinned := (group.filter (isHigh s (weightSum group))).map (fun a => (a.set, a.hi)) ++ f.pinned } := by
  have hrestLo := lo_le_of_high_pass h hne hle
  have hhi := sumHi_filter group (isHigh s (weightSum group))
  have hlo := sumLo_filter group (isHigh s (weightSum group))
  have hlohi : sumLo (group.filter (isHigh s (weightSum group))) ≤ sumHi (group.filter (isHigh s (weightSum group))) :=
    sum_map_le fun a ha => (h a (List.mem_of_mem_filter ha)).2
  refine ⟨sets_of_pinned hf, account_of_pinned hf.account, ?_, ?_, ?_, ?_, ?_, ?_⟩
  · intro x hx
    rcases List.mem_append.1 hx with hx | hx
    · obtain ⟨a, ha, rfl⟩ := List.mem_map.1 hx
      have hmem := List.mem_of_mem_filter ha
      exact ⟨a, hmem, rfl, (h a hmem).2, le_rfl⟩
    · obtain ⟨a, ha, hx'⟩ := hf.pinned x hx
      exact ⟨a, List.mem_of_mem_filter ha, hx'⟩
  · intro a ha
    obtain ⟨hmem, hbounds⟩ := hf.active a ha
    exact ⟨List.mem_of_mem_filter hmem, hbounds⟩
  · exact fun _ => hf.aboveLo hrestLo
  · intro hs
    refine hf.belowHi ?_
    change s - sumHi _ ≤ _
    omega
  · intro hs a ha
    by_cases hb : isHigh s (weightSum group) a = true
    · exact .inr (List.mem_append_left _ (List.mem_map.2 ⟨a, List.mem_filter.2 ⟨ha, hb⟩, rfl⟩))
    · have hrest : sumHi (group.filter fun a => !isHigh s (weightSum group) a)
          < s - ((group.filter (isHigh s (weightSum group))).map ShareItem.hi).sum := by
        change _ < s - sumHi _
        omega
      exact (hf.allHigh hrest a (List.mem_filter.2 ⟨ha, by simpa using hb⟩)).imp_right
        (List.mem_append_right _)
  · intro hs
    exact absurd hs (by omega)

/-- A pass that pins the sets below their lower bounds. -/
theorem fillsTo_low {group : List ShareItem} {s : Int} {f : Filled} (h : Sound group) (hne : group ≠ [])
    (hlt : ¬shortfall s (weightSum group) (group.filter (isLow s (weightSum group)))
      ≤ excess s (weightSum group) (group.filter (isHigh s (weightSum group))))
    (hf : FillsTo (group.filter fun a => !isLow s (weightSum group) a)
      (s - ((group.filter (isLow s (weightSum group))).map ShareItem.lo).sum) f) :
    FillsTo group s { f with
      pinned := (group.filter (isLow s (weightSum group))).map (fun a => (a.set, a.lo)) ++ f.pinned } := by
  have hrestHi := le_hi_of_low_pass h hne hlt
  have hhi := sumHi_filter group (isLow s (weightSum group))
  have hlo := sumLo_filter group (isLow s (weightSum group))
  have hlohi : sumLo (group.filter (isLow s (weightSum group))) ≤ sumHi (group.filter (isLow s (weightSum group))) :=
    sum_map_le fun a ha => (h a (List.mem_of_mem_filter ha)).2
  refine ⟨sets_of_pinned hf, account_of_pinned hf.account, ?_, ?_, ?_, ?_, ?_, ?_⟩
  · intro x hx
    rcases List.mem_append.1 hx with hx | hx
    · obtain ⟨a, ha, rfl⟩ := List.mem_map.1 hx
      have hmem := List.mem_of_mem_filter ha
      exact ⟨a, hmem, rfl, le_rfl, (h a hmem).2⟩
    · obtain ⟨a, ha, hx'⟩ := hf.pinned x hx
      exact ⟨a, List.mem_of_mem_filter ha, hx'⟩
  · intro a ha
    obtain ⟨hmem, hbounds⟩ := hf.active a ha
    exact ⟨List.mem_of_mem_filter hmem, hbounds⟩
  · intro hs
    refine hf.aboveLo ?_
    change _ ≤ s - sumLo _
    omega
  · exact fun _ => hf.belowHi hrestHi.le
  · intro hs
    exact absurd hs (by omega)
  · intro hs a ha
    by_cases hb : isLow s (weightSum group) a = true
    · exact .inr (List.mem_append_left _ (List.mem_map.2 ⟨a, List.mem_filter.2 ⟨ha, hb⟩, rfl⟩))
    · have hrest : s - ((group.filter (isLow s (weightSum group))).map ShareItem.lo).sum
          < sumLo (group.filter fun a => !isLow s (weightSum group) a) := by
        change s - sumLo _ < _
        omega
      exact (hf.allLow hrest a (List.mem_filter.2 ⟨ha, by simpa using hb⟩)).imp_right
        (List.mem_append_right _)

/-- A pass that pins a set leaves a smaller group. -/
theorem length_filter_not_lt {group : List ShareItem} {b : ShareItem → Bool} (h : group.filter b ≠ []) :
    (group.filter fun a => !b a).length < group.length := by
  have hpos := List.length_pos_iff.2 h
  have hperm := (List.filter_append_perm b group).length_eq
  rw [List.length_append] at hperm
  omega

/-- The sums of excess and shortfall are those of positive terms, so that a pass which finds a set pins one. -/
theorem excess_nonneg {s e : Int} (group : List ShareItem) : 0 ≤ excess s e (group.filter (isHigh s e)) := by
  refine List.sum_nonneg fun x hx => ?_
  obtain ⟨a, ha, rfl⟩ := List.mem_map.1 hx
  have hh := (isHigh_iff a).1 (List.of_mem_filter ha)
  omega

theorem shortfall_pos {s e : Int} {group : List ShareItem} (h : group.filter (isLow s e) ≠ []) :
    0 < shortfall s e (group.filter (isLow s e)) := by
  refine List.sum_pos _ (fun x hx => ?_) (by simpa using h)
  obtain ⟨a, ha, rfl⟩ := List.mem_map.1 hx
  have hl := (isLow_iff a).1 (List.of_mem_filter ha)
  omega

/-- The water-filling of a group, with a pass for each of its sets and one more. -/
theorem waterFill_fills : ∀ (fuel : Nat) (group : List ShareItem) (s : Int), Sound group → group.length < fuel →
    FillsTo group s (waterFill fuel group s) := by
  intro fuel
  induction fuel with
  | zero => exact fun _ _ _ hlen => absurd hlen (Nat.not_lt_zero _)
  | succ fuel ih =>
    intro group s h hlen
    unfold waterFill
    extract_lets e high low
    by_cases hdone : (high.isEmpty && low.isEmpty) = true
    · rw [if_pos hdone]
      obtain ⟨hh, hl⟩ := Bool.and_eq_true_iff.1 hdone
      exact fillsTo_done (List.isEmpty_iff.1 hh) (List.isEmpty_iff.1 hl)
    · rw [if_neg hdone]
      have hne : group ≠ [] := by
        rintro rfl
        exact hdone rfl
      by_cases hle : shortfall s e low ≤ excess s e high
      · rw [if_pos hle]
        have hhigh : high ≠ [] := by
          intro hh
          by_cases hl : low = []
          · exact hdone (by rw [hh, hl]; rfl)
          · have hpos := shortfall_pos hl
            have hzero : excess s e high = 0 := by rw [hh]; rfl
            change 0 < shortfall s e low at hpos
            omega
        exact fillsTo_high h hne hle (ih _ _ (h.filter _) ((length_filter_not_lt hhigh).trans_le (Nat.le_of_lt_succ hlen)))
      · rw [if_neg hle]
        have hlow : low ≠ [] := by
          intro hl
          have hnn := excess_nonneg (s := s) (e := e) group
          have hzero : shortfall s e low = 0 := by rw [hl]; rfl
          change 0 ≤ excess s e high at hnn
          omega
        exact fillsTo_low h hne hle (ih _ _ (h.filter _) ((length_filter_not_lt hlow).trans_le (Nat.le_of_lt_succ hlen)))

/-! ### Rounding and the residue (R74, R75) -/

/-- A rounded share lies within bounds that hold for the share itself (R74). -/
theorem roundedShare_bounds {s e : Int} {a : ShareItem} (he : 0 < e) (hlo : a.lo * e ≤ s * a.weight)
    (hhi : s * a.weight ≤ a.hi * e) : a.lo ≤ roundedShare s e a ∧ roundedShare s e a ≤ a.hi := by
  have hassoc : 2 * s * a.weight = 2 * (s * a.weight) := by ring
  constructor
  · refine (Int.le_ediv_iff_mul_le (by omega)).2 ?_
    have : a.lo * (2 * e) = 2 * (a.lo * e) := by ring
    omega
  · refine Int.lt_add_one_iff.1 (Int.ediv_lt_of_lt_mul (by omega) ?_)
    have : (a.hi + 1) * (2 * e) = 2 * (a.hi * e) + 2 * e := by ring
    omega

/-- The target of a candidate lies within its bounds. -/
def Within (c : Candidate) : Prop := c.item.lo ≤ c.target ∧ c.target ≤ c.item.hi

def targetSum (cs : List Candidate) : Int := (cs.map Candidate.target).sum

/-- The candidates after `d` kW have been placed on them. -/
structure Placed (cs cs' : List Candidate) (d : Int) : Prop where
  items : cs'.map Candidate.item = cs.map Candidate.item
  total : targetSum cs' = targetSum cs + d
  within : (∀ c ∈ cs, Within c) → ∀ c ∈ cs', Within c

theorem Placed.refl (cs : List Candidate) : Placed cs cs 0 := ⟨rfl, (Int.add_zero _).symm, id⟩

theorem Placed.trans {cs cs' cs'' : List Candidate} {d d' : Int} (h : Placed cs cs' d) (h' : Placed cs' cs'' d') :
    Placed cs cs'' (d + d') :=
  ⟨h'.items.trans h.items, by rw [h'.total, h.total, Int.add_assoc], h'.within ∘ h.within⟩

theorem placeOn_some {r : Int} : ∀ {cs cs' : List Candidate}, placeOn r cs = some cs' → Placed cs cs' r
  | [], _, h => nomatch h
  | c :: cs, cs', h => by
    rw [placeOn] at h
    by_cases hfits : (decide (c.item.lo ≤ c.target + r) && decide (c.target + r ≤ c.item.hi)) = true
    · rw [if_pos hfits, Option.some.injEq] at h
      subst h
      simp only [Bool.and_eq_true, decide_eq_true_eq] at hfits
      refine ⟨rfl, ?_, fun hin d hd => ?_⟩
      · simp only [targetSum, List.map_cons, List.sum_cons]
        omega
      · rcases List.mem_cons.1 hd with rfl | hd
        · exact hfits
        · exact hin d (List.mem_cons_of_mem _ hd)
    · rw [if_neg hfits] at h
      obtain ⟨cs₁, hcs, rfl⟩ := Option.map_eq_some_iff.1 h
      have hp := placeOn_some hcs
      refine ⟨by simp only [List.map_cons, hp.items], ?_, fun hin d hd => ?_⟩
      · have htotal := hp.total
        simp only [targetSum, List.map_cons, List.sum_cons] at htotal ⊢
        omega
      · rcases List.mem_cons.1 hd with rfl | hd
        · exact hin _ (List.mem_cons_self)
        · exact hp.within (fun c hc => hin c (List.mem_cons_of_mem _ hc)) d hd

theorem placeOn_none {r : Int} : ∀ {cs : List Candidate}, placeOn r cs = none →
    ∀ c ∈ cs, ¬(c.item.lo ≤ c.target + r ∧ c.target + r ≤ c.item.hi)
  | [], _, _, hc => nomatch hc
  | c :: cs, h, d, hd => by
    rw [placeOn] at h
    by_cases hfits : (decide (c.item.lo ≤ c.target + r) && decide (c.target + r ≤ c.item.hi)) = true
    · simp [hfits] at h
    · rw [if_neg hfits, Option.map_eq_none_iff] at h
      rcases List.mem_cons.1 hd with rfl | hd
      · simpa using hfits
      · exact placeOn_none h d hd

/-- Placing steps one at a time: what is placed, and that no candidate takes a further step where some are left. -/
theorem placeSteps_placed (step : Int) : ∀ (n : Nat) (cs : List Candidate),
    Placed cs (placeSteps step n cs).1 (step * (n - (placeSteps step n cs).2 : Int))
    ∧ (placeSteps step n cs).2 ≤ n
    ∧ ((placeSteps step n cs).2 ≠ 0 → placeOn step (placeSteps step n cs).1 = none)
  | 0, cs => ⟨by simpa [placeSteps] using Placed.refl cs, le_rfl, fun h => absurd rfl h⟩
  | n + 1, cs => by
    rw [placeSteps]
    cases hon : placeOn step cs with
    | none => exact ⟨by simpa using Placed.refl cs, le_rfl, fun _ => hon⟩
    | some cs' =>
      obtain ⟨hp, hle, hnone⟩ := placeSteps_placed step n cs'
      refine ⟨?_, Nat.le_succ_of_le hle, hnone⟩
      have hsum : step * ((n + 1 : Nat) - (placeSteps step n cs').2 : Int)
          = step + step * (n - (placeSteps step n cs').2 : Int) := by
        push_cast
        ring
      simp only [hsum]
      exact (placeOn_some hon).trans hp

/-- A residue goes whole onto the candidates, unless they all stand at the end of their bounds that it pushes to (R75). -/
theorem placeResidue_placed (r : Int) (cs : List Candidate) (hin : ∀ c ∈ cs, Within c) :
    Placed cs (placeResidue r cs).1 (r - (placeResidue r cs).2)
    ∧ (0 < (placeResidue r cs).2 → ∀ c ∈ (placeResidue r cs).1, c.target = c.item.hi)
    ∧ ((placeResidue r cs).2 < 0 → ∀ c ∈ (placeResidue r cs).1, c.target = c.item.lo) := by
  unfold placeResidue
  by_cases hzero : (r == 0) = true
  · rw [if_pos hzero]
    refine ⟨?_, fun h => absurd h (lt_irrefl _), fun h => absurd h (lt_irrefl _)⟩
    rw [eq_of_beq hzero]
    exact Placed.refl cs
  · rw [if_neg hzero]
    cases hon : placeOn r cs with
    | some cs' =>
      refine ⟨?_, fun h => absurd h (lt_irrefl _), fun h => absurd h (lt_irrefl _)⟩
      have hr : r - 0 = r := Int.sub_zero r
      simp only [hr]
      exact placeOn_some hon
    | none =>
      have hr : r ≠ 0 := fun h => hzero (by rw [h]; rfl)
      dsimp only
      by_cases hpos : 0 < r
      · rw [if_pos hpos]
        obtain ⟨hp, hle, hnone⟩ := placeSteps_placed 1 r.natAbs cs
        have habs : (r.natAbs : Int) = r := Int.natAbs_of_nonneg hpos.le
        refine ⟨by simpa [habs] using hp, fun hleft c hc => ?_, fun hleft => absurd hleft (by omega)⟩
        have hstuck := placeOn_none (hnone (by omega)) c hc
        obtain ⟨hlo, hhi⟩ := hp.within hin c hc
        omega
      · rw [if_neg hpos]
        obtain ⟨hp, hle, hnone⟩ := placeSteps_placed (-1) r.natAbs cs
        have habs : (r.natAbs : Int) = -r := by omega
        refine ⟨?_, fun hleft => absurd hleft (by omega), fun hleft c hc => ?_⟩
        · have hd : (-1 : Int) * (r.natAbs - (placeSteps (-1) r.natAbs cs).2)
              = r - -1 * (placeSteps (-1) r.natAbs cs).2 := by
            rw [habs]
            ring
          rw [← hd]
          exact hp
        · have hstuck := placeOn_none (hnone (by omega)) c hc
          obtain ⟨hlo, hhi⟩ := hp.within hin c hc
          omega

theorem joinCandidate_perm (c : Candidate) : ∀ cs : List Candidate, (joinCandidate c cs).Perm (c :: cs)
  | [] => .rfl
  | d :: ds => by
    rw [joinCandidate]
    split
    · exact .rfl
    · exact ((joinCandidate_perm c ds).cons d).trans (.swap c d ds)

theorem candidateOrder_perm (cs : List Candidate) : (candidateOrder cs).Perm cs := by
  induction cs with
  | nil => exact .rfl
  | cons c cs ih => exact (joinCandidate_perm c _).trans (ih.cons c)

/-! ### The division (R72 to R76) -/

/-- The rounded candidates of an active group, in the order in which they are offered the residue. -/
def roundedOf (f : Filled) : List Candidate :=
  candidateOrder (f.active.map fun a => { item := a, target := roundedShare f.left (weightSum f.active) a })

/-- The division's last stage: rounding, and what the residue makes of the candidates. -/
theorem divideRemainder_eq (items : List ShareItem) (s : Int) :
    let f := waterFill (items.length + 1) items s
    let placed := placeResidue (f.left - targetSum (roundedOf f)) (roundedOf f)
    divideRemainder items s =
      if f.active = [] then { targets := f.pinned, residual := f.left }
      else { targets := f.pinned ++ placed.1.map (fun c => (c.item.set, c.target)), residual := placed.2 } := by
  intro f placed
  have hsum : targetSum (roundedOf f)
      = ((f.active.map fun a => ({ item := a, target := roundedShare f.left (weightSum f.active) a } : Candidate)).map
          Candidate.target).sum := ((candidateOrder_perm _).map _).sum_eq
  unfold divideRemainder
  simp only [List.isEmpty_iff]
  by_cases hact : f.active = []
  · rw [if_pos hact]
    exact (if_pos hact).symm
  · rw [if_neg hact]
    refine Eq.trans ?_ (if_neg hact).symm
    simp only [placed, hsum]
    rfl

/-- What the division of a sound group comes to. -/
structure Divides (items : List ShareItem) (s : Int) (r : Shared) : Prop where
  sets : (r.targets.map Prod.fst).Perm (items.map ShareItem.set)
  account : (r.targets.map Prod.snd).sum + r.residual = s
  within : ∀ x ∈ r.targets, ∃ a ∈ items, x.1 = a.set ∧ a.lo ≤ x.2 ∧ x.2 ≤ a.hi
  none : sumLo items ≤ s → s ≤ sumHi items → r.residual = 0
  high : 0 < r.residual → ∀ a ∈ items, (a.set, a.hi) ∈ r.targets
  low : r.residual < 0 → ∀ a ∈ items, (a.set, a.lo) ∈ r.targets

/-- A fill that leaves no set active is the division itself. -/
theorem divides_of_pinned {items : List ShareItem} {s : Int} {f : Filled} (hf : FillsTo items s f)
    (hact : f.active = []) : Divides items s { targets := f.pinned, residual := f.left } := by
  obtain ⟨hsets, haccount, hpinned, hactive, haboveLo, hbelowHi, hhigh, hlow⟩ := hf
  simp only [hact, List.map_nil, List.append_nil, List.not_mem_nil, false_or, sumLo, sumHi, List.sum_nil] at *
  refine ⟨hsets, haccount, hpinned, fun hlo hhi => ?_, fun hres => hhigh ?_, fun hres => hlow ?_⟩
  · exact le_antisymm (hbelowHi hhi) (haboveLo hlo)
  · by_contra hcon
    have := hbelowHi (Int.not_lt.1 hcon)
    dsimp only at hres
    omega
  · by_contra hcon
    have := haboveLo (Int.not_lt.1 hcon)
    dsimp only at hres
    omega

section Active

variable {items : List ShareItem} {s : Int} {f : Filled}

theorem mem_roundedOf {c : Candidate} (hc : c ∈ roundedOf f) :
    c.item ∈ f.active ∧ c.target = roundedShare f.left (weightSum f.active) c.item := by
  obtain ⟨a, ha, rfl⟩ := List.mem_map.1 ((candidateOrder_perm _).mem_iff.1 hc)
  exact ⟨ha, rfl⟩

/-- The sets still active are candidates within their bounds. -/
theorem roundedOf_within (hf : FillsTo items s f) (he : 0 < weightSum f.active) : ∀ c ∈ roundedOf f, Within c := by
  intro c hc
  obtain ⟨hmem, htarget⟩ := mem_roundedOf hc
  obtain ⟨-, hlo, hhi⟩ := hf.active _ hmem
  rw [Within, htarget]
  exact roundedShare_bounds he hlo hhi

theorem roundedOf_items : ((roundedOf f).map Candidate.item).Perm f.active := by
  refine ((candidateOrder_perm _).map _).trans (.of_eq ?_)
  rw [List.map_map]
  exact List.map_id _

/-- Neither beyond its upper nor its lower bound, the sets still active leave between them a remainder within the sums of
their bounds. -/
theorem left_within (hf : FillsTo items s f) (he : 0 < weightSum f.active) :
    sumLo f.active ≤ f.left ∧ f.left ≤ sumHi f.active := by
  have hleft : (f.active.map fun a => f.left * a.weight).sum = f.left * weightSum f.active :=
    List.sum_map_mul_left _ _ _
  constructor
  · have h : (f.active.map fun a => a.lo * weightSum f.active).sum ≤ (f.active.map fun a => f.left * a.weight).sum :=
      sum_map_le fun a ha => (hf.active a ha).2.1
    rw [hleft, List.sum_map_mul_right] at h
    exact le_of_mul_le_mul_right h he
  · have h : (f.active.map fun a => f.left * a.weight).sum ≤ (f.active.map fun a => a.hi * weightSum f.active).sum :=
      sum_map_le fun a ha => (hf.active a ha).2.2
    rw [hleft, List.sum_map_mul_right] at h
    exact le_of_mul_le_mul_right h he

/-- Where sets are still active, the residue is placed whole on them, so that nothing is left. -/
theorem divides_of_active (hsound : Sound items) (hf : FillsTo items s f) (hact : f.active ≠ []) :
    Divides items s
      { targets := f.pinned ++ (placeResidue (f.left - targetSum (roundedOf f)) (roundedOf f)).1.map
          (fun c => (c.item.set, c.target))
        residual := (placeResidue (f.left - targetSum (roundedOf f)) (roundedOf f)).2 } := by
  have hsoundActive : Sound f.active := fun a ha => hsound a (hf.active a ha).1
  have he := weightSum_pos hsoundActive hact
  have hin := roundedOf_within hf he
  obtain ⟨hplaced, hhigh, hlow⟩ := placeResidue_placed (f.left - targetSum (roundedOf f)) _ hin
  obtain ⟨hlo, hhi⟩ := left_within hf he
  set placed := placeResidue (f.left - targetSum (roundedOf f)) (roundedOf f)
  have hperm : (placed.1.map Candidate.item).Perm f.active := hplaced.items ▸ roundedOf_items
  have hsumOf : ∀ g : ShareItem → Int, (placed.1.map fun c => g c.item).sum = (f.active.map g).sum := by
    intro g
    rw [← (hperm.map g).sum_eq, List.map_map]
    rfl
  have htotal : targetSum placed.1 + placed.2 = f.left := by
    rw [hplaced.total]
    omega
  have hzero : placed.2 = 0 := by
    rcases lt_trichotomy placed.2 0 with hneg | hz | hpos
    · have hall : targetSum placed.1 = sumLo f.active := by
        rw [sumLo, ← hsumOf]
        exact congrArg List.sum (List.map_congr_left (hlow hneg))
      omega
    · exact hz
    · have hall : targetSum placed.1 = sumHi f.active := by
        rw [sumHi, ← hsumOf]
        exact congrArg List.sum (List.map_congr_left (hhigh hpos))
      omega
  refine ⟨?_, ?_, ?_, fun _ _ => hzero, fun h => absurd h (by dsimp only; omega), fun h => absurd h (by dsimp only; omega)⟩
  · refine (List.Perm.of_eq ?_).trans (((hperm.map ShareItem.set).append_left _).trans hf.sets)
    simp only [List.map_append, List.map_map]
    rfl
  · have haccount := hf.account
    have hmap : (placed.1.map (Prod.snd ∘ fun c => (c.item.set, c.target))).sum = targetSum placed.1 := rfl
    simp only [List.map_append, List.map_map, List.sum_append, hmap]
    omega
  · intro x hx
    rcases List.mem_append.1 hx with hx | hx
    · exact hf.pinned x hx
    · obtain ⟨c, hc, rfl⟩ := List.mem_map.1 hx
      have hmem := hperm.mem_iff.1 (List.mem_map_of_mem hc)
      exact ⟨c.item, (hf.active _ hmem).1, rfl, hplaced.within hin c hc⟩

end Active

theorem divideRemainder_divides {items : List ShareItem} (hsound : Sound items) (s : Int) :
    Divides items s (divideRemainder items s) := by
  have hf := waterFill_fills (items.length + 1) items s hsound (Nat.lt_succ_self _)
  rw [divideRemainder_eq]
  split
  · next hact => exact divides_of_pinned hf hact
  · next hact => exact divides_of_active hsound hf hact

/-- Settles O25: the division as `Divides` says it, where a set number stands for one item. -/
theorem divisionTakesTheRemainder : Obligations.DivisionTakesTheRemainder := by
  unfold Obligations.DivisionTakesTheRemainder
  intro items s hnodup hitems _ r
  have hsound : Sound items := fun a ha => ⟨(hitems a ha).1, (hitems a ha).2.2⟩
  have hd : Divides items s r := divideRemainder_divides hsound s
  refine ⟨hd.sets, hd.account, fun a ha t ht => ?_, hd.none, hd.high, hd.low⟩
  obtain ⟨b, hb, hset, hlo, hhi⟩ := hd.within _ ht
  have heq : a = b := List.inj_on_of_nodup_map hnodup ha hb hset
  subst heq
  exact ⟨hlo, hhi⟩

end Sys2Proof.Proofs
end

section
/-! A share period (R67 to R83): what the stages of its computation leave in the share records and hand on. Stage 2 changes
the records of the sets of the bus alone, so that the sets' roles and the shadow targets are read from the ramp values it
leaves. -/

namespace Sys2Proof.Proofs

open Sys2Proof.Machine Sys2Proof.Claims

/-! ### Changing the share records of a list of sets -/

/-- A fold that gives each set of a list its own change of its share record, judged from the part with that record as it
was. -/
theorem foldl_onShare (F : Part → SetNo → ShareRecord → ShareRecord) (p : Part)
    (hF : ∀ (sh : Vector ShareRecord 8) (k : SetNo), sh[k] = p.share[k] →
      F { p with share := sh } k p.share[k] = F p k p.share[k]) :
    ∀ (l : List SetNo) (sh : Vector ShareRecord 8), l.Nodup → (∀ k ∈ l, sh[k] = p.share[k]) →
      ∃ sh' : Vector ShareRecord 8,
        l.foldl (fun q k => onShare k (F q k) q) { p with share := sh } = { p with share := sh' }
        ∧ ∀ k : SetNo, sh'[k] = if k ∈ l then F p k p.share[k] else sh[k]
  | [], sh, _, _ => ⟨sh, rfl, fun k => by simp⟩
  | j :: l, sh, hnodup, hsame => by
    obtain ⟨hj, hl⟩ := List.nodup_cons.1 hnodup
    have hself : sh[j] = p.share[j] := hsame j (by simp)
    have hrest : ∀ k ∈ l, (modifyAt sh j (F { p with share := sh } j))[k] = p.share[k] := fun k hk =>
      (modifyAt_other _ _ _ _ (by rintro rfl; exact hj hk)).trans (hsame k (by simp [hk]))
    obtain ⟨sh', heq, hget⟩ := foldl_onShare F p hF l _ hl hrest
    refine ⟨sh', heq, fun k => (hget k).trans ?_⟩
    by_cases hk : k = j
    · subst hk
      rw [if_neg hj, if_pos (by simp)]
      refine (modifyAt_self _ _ _).trans ?_
      change F _ k sh[k] = _
      rw [hself]
      exact hF sh k hself
    · have hmem : k ∈ j :: l ↔ k ∈ l := by simp [hk]
      simp only [hmem]
      split
      · rfl
      · exact modifyAt_other _ _ _ _ (Ne.symm hk)

theorem allSets_nodup : allSets.Nodup := by decide

/-- The same over the sets that pass a test. -/
theorem foldl_onShare_filter (F : Part → SetNo → ShareRecord → ShareRecord) (p : Part) (b : SetNo → Bool)
    (hF : ∀ (sh : Vector ShareRecord 8) (k : SetNo), sh[k] = p.share[k] →
      F { p with share := sh } k p.share[k] = F p k p.share[k]) :
    ∃ sh' : Vector ShareRecord 8,
      (allSets.filter b).foldl (fun q k => onShare k (F q k) q) p = { p with share := sh' }
      ∧ ∀ k : SetNo, sh'[k] = if b k = true then F p k p.share[k] else p.share[k] := by
  obtain ⟨sh', heq, hget⟩ := foldl_onShare F p hF (allSets.filter b) p.share (allSets_nodup.filter _) fun _ _ => rfl
  refine ⟨sh', heq, fun k => (hget k).trans ?_⟩
  simp only [List.mem_filter, mem_allSets, true_and]

/-! ### Stage 2: the ramps (R79, R81, R83) -/

/-- The part as a share period finds it after stage 2. -/
def ramped (i : IslandNo) (p : Part) : Part := advanceRamps i (keepFigures i (figuresOf p i) p)

theorem ramped_eq (i : IslandNo) (p : Part) : ∃ sh : Vector ShareRecord 8,
    ramped i p = { keepFigures i (figuresOf p i) p with share := sh }
    ∧ ∀ k : SetNo, sh[k] = if onIslandBus p i k = true then advanceRamp p k p.share[k] else p.share[k] := by
  refine foldl_onShare_filter advanceRamp (keepFigures i (figuresOf p i) p) _ fun sh k hk => ?_
  have hramp : rampValue { keepFigures i (figuresOf p i) p with share := sh } k
      = rampValue (keepFigures i (figuresOf p i) p) k := by
    change sh[k].ramp.getD _ = _
    rw [hk]
    rfl
  unfold advanceRamp
  rw [hramp]
  rfl

section Ramped

variable (i : IslandNo) (p : Part)

@[simp] theorem ramped_seq : (ramped i p).seq = p.seq := by
  obtain ⟨sh, h, -⟩ := ramped_eq i p
  rw [h]
  rfl

@[simp] theorem ramped_cfg : (ramped i p).cfg = p.cfg := by
  obtain ⟨sh, h, -⟩ := ramped_eq i p
  rw [h]
  rfl

@[simp] theorem ramped_setImage : (ramped i p).setImage = p.setImage := by
  obtain ⟨sh, h, -⟩ := ramped_eq i p
  rw [h]
  rfl

@[simp] theorem ramped_clock : (ramped i p).clock = p.clock := by
  obtain ⟨sh, h, -⟩ := ramped_eq i p
  rw [h]
  rfl

@[simp] theorem ramped_islandMap : (ramped i p).islandMap = p.islandMap := by
  obtain ⟨sh, h, -⟩ := ramped_eq i p
  rw [h]
  rfl

theorem ramped_share (k : SetNo) :
    (ramped i p).share[k] = if onIslandBus p i k = true then advanceRamp p k p.share[k] else p.share[k] := by
  obtain ⟨sh, h, hget⟩ := ramped_eq i p
  rw [h]
  exact hget k

@[simp] theorem ramped_onIslandBus (j : IslandNo) (k : SetNo) : onIslandBus (ramped i p) j k = onIslandBus p j k := by
  simp only [onIslandBus, setConfigured, setCfg, inIsland, islandOf, ramped_cfg, ramped_setImage, ramped_islandMap]

@[simp] theorem ramped_busSets (j : IslandNo) : busSets (ramped i p) j = busSets p j := by
  simp only [busSets, funext (ramped_onIslandBus i p j)]

end Ramped

theorem mem_busSets (p : Part) (i : IslandNo) (k : SetNo) : k ∈ busSets p i ↔ onIslandBus p i k = true := by
  simp only [busSets, List.mem_filter, mem_allSets, true_and]

/-! ### Stages 3 to 6 -/

/-- The sets whose ramps are complete (R80, R82). -/
def periodDone (i : IslandNo) (p : Part) : List SetNo :=
  (busSets (ramped i p) i).filter (rampDone (ramped i p) i (figuresOf p i).load)

/-- The role and contribution of a set in the period (R69). -/
def periodRole (i : IslandNo) (p : Part) (k : SetNo) : ShareRole × Int := shareRole (ramped i p) (periodDone i p) k

/-- Every set of the bus with its role and contribution. -/
def periodRoles (i : IslandNo) (p : Part) : List (SetNo × ShareRole × Int) :=
  (busSets (ramped i p) i).map fun k => (k, periodRole i p k)

/-- The sum of the fixed contributions (R70). -/
def periodFixed (i : IslandNo) (p : Part) : Int := ((periodRoles i p).map fun r => r.2.2).sum

/-- The items of the period's division (R71). -/
def periodItems (i : IslandNo) (p : Part) : List ShareItem :=
  ((periodRoles i p).filter fun r => r.2.1 == .sharing).map fun r => shareItem (ramped i p) r.1

/-- The remainder of the period (R70). -/
def periodRemainder (i : IslandNo) (p : Part) : Int := remainderOf (figuresOf p i).load (periodFixed i p)

/-- The division of the period's remainder (R72 to R76). -/
def periodShared (i : IslandNo) (p : Part) : Shared := divideRemainder (periodItems i p) (periodRemainder i p)

/-- The sharing sets (R69). -/
def periodSharing (i : IslandNo) (p : Part) : List SetNo := (busSets p i).filter fun k => (periodRole i p k).1 == .sharing

theorem computePeriod_done (i : IslandNo) (p : Part) : (computePeriod i p).2.done = periodDone i p := rfl

theorem mem_periodDone (i : IslandNo) (p : Part) (k : SetNo) :
    k ∈ periodDone i p ↔ onIslandBus p i k = true ∧ rampDone (ramped i p) i (figuresOf p i).load k = true := by
  rw [periodDone, ramped_busSets, List.mem_filter, mem_busSets]

theorem periodFixed_eq (i : IslandNo) (p : Part) :
    periodFixed i p = ((busSets p i).map fun k => (periodRole i p k).2).sum := by
  rw [periodFixed, periodRoles, ramped_busSets, List.map_map]
  rfl

theorem periodItems_eq (i : IslandNo) (p : Part) : periodItems i p = (periodSharing i p).map (shareItem (ramped i p)) := by
  rw [periodItems, periodRoles, ramped_busSets, List.filter_map, List.map_map]
  rfl

/-- The sharing sets, as the period hands its roles on (R78). -/
theorem computePeriod_sharing (i : IslandNo) (p : Part) :
    ((computePeriod i p).2.roles.filter fun r => r.2 == .sharing).map Prod.fst = periodSharing i p := by
  have hroles : (computePeriod i p).2.roles = (busSets p i).map fun k => (k, (periodRole i p k).1) := by
    change (periodRoles i p).map _ = _
    rw [periodRoles, ramped_busSets, List.map_map]
    rfl
  rw [hroles, List.filter_map, List.map_map]
  exact List.map_id _

/-- The fields of the island's record that stage 6 writes (R66, R76). -/
def recordPeriod (i : IslandNo) (p : Part) (r : Island) : Island :=
  { r with pFixed := some (periodFixed i p), remainder := some (periodRemainder i p),
           residual := some (periodShared i p).residual, periodAt := some p.clock, nextPeriod := some (p.clock + 200) }

/-- The part that a share period leaves: the share records of its island's sets, and the island's record. -/
theorem computePeriod_part (i : IslandNo) (p : Part) : ∃ sh : Vector ShareRecord 8,
    (computePeriod i p).1
      = onIsland i (recordPeriod i p) { keepFigures i (figuresOf p i) p with share := sh }
    ∧ ∀ k : SetNo, sh[k] =
        if setConfigured p k = true ∧ islandOf p p.cfg.sets[k].sect = some i then
          { (ramped i p).share[k] with target := periodTarget (ramped i p) (periodDone i p) (periodShared i p).targets k }
        else (ramped i p).share[k] := by
  obtain ⟨sh, hramped, -⟩ := ramped_eq i p
  obtain ⟨sh', htargeted, hget⟩ := foldl_onShare_filter
    (fun _ k r => { r with target := periodTarget (ramped i p) (periodDone i p) (periodShared i p).targets k })
    (ramped i p) (fun k => setConfigured (ramped i p) k && inIsland (ramped i p) i (setCfg (ramped i p) k).sect)
    fun _ _ _ => rfl
  refine ⟨sh', ?_, fun k => (hget k).trans ?_⟩
  · have hpart : ({ ramped i p with share := sh' } : Part) = { keepFigures i (figuresOf p i) p with share := sh' } := by
      rw [hramped]
    rw [← hpart, ← htargeted]
    rfl
  · simp only [setConfigured, setCfg, inIsland, islandOf, ramped_cfg, ramped_islandMap, Bool.and_eq_true, beq_iff_eq]
    rfl

theorem computePeriod_ramp (i : IslandNo) (p : Part) (k : SetNo) :
    (computePeriod i p).1.share[k].ramp = (ramped i p).share[k].ramp := by
  obtain ⟨sh, hpart, hget⟩ := computePeriod_part i p
  rw [hpart]
  change sh[k].ramp = _
  rw [hget]
  split <;> rfl

theorem computePeriod_pminTime (i : IslandNo) (p : Part) (k : SetNo) :
    (computePeriod i p).1.share[k].pminTime = (ramped i p).share[k].pminTime := by
  obtain ⟨sh, hpart, hget⟩ := computePeriod_part i p
  rw [hpart]
  change sh[k].pminTime = _
  rw [hget]
  split <;> rfl

theorem computePeriod_target (i : IslandNo) (p : Part) (k : SetNo) (hk : setConfigured p k = true)
    (hi : islandOf p p.cfg.sets[k].sect = some i) :
    (computePeriod i p).1.share[k].target
      = periodTarget (ramped i p) (periodDone i p) (periodShared i p).targets k := by
  obtain ⟨sh, hpart, hget⟩ := computePeriod_part i p
  rw [hpart]
  change sh[k].target = _
  rw [hget, if_pos ⟨hk, hi⟩]

/-- The ramp value that a set has after stage 2. -/
theorem rampValue_ramped (i : IslandNo) (p : Part) (k : SetNo) :
    rampValue (ramped i p) k = (computePeriod i p).1.share[k].ramp.getD p.setImage[k].kw := by
  rw [computePeriod_ramp, rampValue, ramped_setImage]

/-! ### Roles (R69) -/

/-- A set's role and contribution, as one value: none for a sharing set. -/
theorem shareRole_fixedContribution (p : Part) (done : List SetNo) (k : SetNo) :
    ((shareRole p done k).1 = .sharing ↔ fixedContribution p k (decide (k ∈ done)) (rampValue p k) = none)
    ∧ (shareRole p done k).2 = ((fixedContribution p k (decide (k ∈ done)) (rampValue p k)).getD 0 : Nat) := by
  have hdone : done.contains k = decide (k ∈ done) := by
    rw [Bool.eq_iff_iff, List.contains_iff_mem, decide_eq_true_iff]
  unfold shareRole fixedContribution onBusRole setCfg
  rw [hdone]
  generalize decide (k ∈ done) = isDone, rampValue p k = v, p.setImage[k] = r, p.cfg.sets[k] = c, p.seq[k].state = state
  by_cases hfresh : r.fresh.state = .qualified
  · cases state with
    | none => simp [hfresh]
    | some st =>
      cases st
      case onBus => cases hmode : c.mode <;> simp [hfresh]
      case rampIn => cases hmode : c.mode <;> cases isDone <;> simp [hfresh]
      case rampOut => cases isDone <;> simp [hfresh]
      all_goals simp [hfresh]
  · simp [hfresh]

/-- A set's contribution is judged from its configuration, held values and state. -/
theorem fixedContribution_ramped (i : IslandNo) (p : Part) (k : SetNo) (done : Bool) (v : Nat) :
    fixedContribution (ramped i p) k done v = fixedContribution p k done v := by
  simp only [fixedContribution, ramped_cfg, ramped_setImage, ramped_seq]

/-- The role and contribution of a set in the period, as its fixed contribution. -/
theorem periodRole_fixedContribution (i : IslandNo) (p : Part) (k : SetNo) :
    let fixed := fixedContribution p k (decide (k ∈ (computePeriod i p).2.done))
      ((computePeriod i p).1.share[k].ramp.getD p.setImage[k].kw)
    ((periodRole i p k).1 = .sharing ↔ fixed = none) ∧ (periodRole i p k).2 = (fixed.getD 0 : Nat) := by
  have h := shareRole_fixedContribution (ramped i p) (periodDone i p) k
  rw [fixedContribution_ramped, rampValue_ramped] at h
  exact h

/-- A sum over the sets that pass a test, as a sum over all sets. -/
theorem sum_filter_sets (b : SetNo → Bool) (f : SetNo → Int) :
    ((allSets.filter b).map f).sum = ∑ k : SetNo, if b k = true then f k else 0 := by
  rw [Fin.sum_univ_def]
  change _ = (allSets.map _).sum
  induction allSets with
  | nil => rfl
  | cons a l ih => cases hb : b a <;> simp [hb, ih]

theorem mem_periodSharing (i : IslandNo) (p : Part) (k : SetNo) :
    k ∈ periodSharing i p ↔ onIslandBus p i k = true ∧ (periodRole i p k).1 = .sharing := by
  rw [periodSharing, List.mem_filter, mem_busSets, beq_iff_eq]

/-! ### The targets (R72 to R77) -/

theorem periodItems_sets (i : IslandNo) (p : Part) : (periodItems i p).map ShareItem.set = periodSharing i p := by
  rw [periodItems_eq, List.map_map]
  exact List.map_id _

theorem periodItems_sound (i : IslandNo) (p : Part) (hfit : p.cfg.fits) : Sound (periodItems i p) := by
  intro a ha
  rw [periodItems_eq] at ha
  obtain ⟨k, -, rfl⟩ := List.mem_map.1 ha
  obtain ⟨hrated, hpmin, hweight, -⟩ := hfit.1 k
  simp only [shareItem, setCfg, ramped_cfg]
  refine ⟨mul_pos ?_ ?_, ?_⟩ <;> omega

theorem periodShared_divides (i : IslandNo) (p : Part) (hfit : p.cfg.fits) :
    Divides (periodItems i p) (periodRemainder i p) (periodShared i p) :=
  divideRemainder_divides (periodItems_sound i p hfit) _

/-- A list of pairs with different keys is searched by its keys. -/
theorem find?_key {l : List (SetNo × Int)} (h : (l.map Prod.fst).Nodup) {x : SetNo × Int} (hx : x ∈ l) :
    l.find? (fun t => t.1 == x.1) = some x := by
  obtain ⟨y, hy⟩ := Option.isSome_iff_exists.1 (List.find?_isSome (p := fun t => t.1 == x.1).2
    ⟨x, hx, beq_self_eq_true x.1⟩)
  rw [hy, List.inj_on_of_nodup_map h (List.mem_of_find?_eq_some hy) hx
    (eq_of_beq (List.find?_some (p := fun t : SetNo × Int => t.1 == x.1) hy))]

section Targets

variable (i : IslandNo) (p : Part) (hfit : p.cfg.fits)
include hfit

theorem periodShared_keys : ((periodShared i p).targets.map Prod.fst).Perm (periodSharing i p) :=
  periodItems_sets i p ▸ (periodShared_divides i p hfit).sets

theorem periodShared_nodup : ((periodShared i p).targets.map Prod.fst).Nodup :=
  (periodShared_keys i p hfit).nodup_iff.2 ((allSets_nodup.filter _).filter _)

/-- A sharing set has a target within its bounds (R72). -/
theorem periodShared_within {x : SetNo × Int} (hx : x ∈ (periodShared i p).targets) :
    (p.cfg.sets[x.1].pmin : Int) ≤ x.2 ∧ x.2 ≤ p.cfg.sets[x.1].rated := by
  obtain ⟨a, ha, hset, hlo, hhi⟩ := (periodShared_divides i p hfit).within x hx
  rw [periodItems_eq] at ha
  obtain ⟨k, -, rfl⟩ := List.mem_map.1 ha
  simp only [shareItem, setCfg, ramped_cfg] at hset hlo hhi
  subst hset
  exact ⟨hlo, hhi⟩

/-- The target that the period gives a sharing set is the division's (R76, R77). -/
theorem periodTarget_shared {x : SetNo × Int} (hx : x ∈ (periodShared i p).targets) :
    (computePeriod i p).1.share[x.1].target = some x.2.toNat := by
  have hmem := (periodShared_keys i p hfit).mem_iff.1 (List.mem_map_of_mem hx)
  have hbus := ((mem_periodSharing i p x.1).1 hmem).1
  simp only [onIslandBus, Bool.and_eq_true, inIsland_iff] at hbus
  rw [computePeriod_target i p x.1 hbus.1.1 hbus.1.2, periodTarget, find?_key (periodShared_nodup i p hfit) hx]

theorem exists_target {k : SetNo} (hk : k ∈ periodSharing i p) : ∃ x ∈ (periodShared i p).targets, x.1 = k :=
  List.mem_map.1 ((periodShared_keys i p hfit).mem_iff.2 hk)

/-- The targets of the sharing sets sum up to those of the division. -/
theorem sum_targets :
    ((periodSharing i p).map fun k => (((computePeriod i p).1.share[k].target.getD 0 : Nat) : Int)).sum
      = ((periodShared i p).targets.map Prod.snd).sum := by
  rw [← ((periodShared_keys i p hfit).map _).sum_eq, List.map_map]
  refine congrArg List.sum (List.map_congr_left fun x hx => ?_)
  have hlo := (periodShared_within i p hfit hx).1
  simp only [Function.comp, periodTarget_shared i p hfit hx, Option.getD_some]
  omega

/-- A set of the island that does not share is not found among the division's targets (R77). -/
theorem periodTarget_other {k : SetNo} (hk : k ∉ periodSharing i p) :
    (periodShared i p).targets.find? (fun t => t.1 == k) = none := by
  rw [List.find?_eq_none]
  rintro x hx hkey
  exact hk (eq_of_beq hkey ▸ (periodShared_keys i p hfit).mem_iff.1 (List.mem_map_of_mem hx))

end Targets

/-- Settles O26: the share records as `computePeriod_part` gives them, with the division of `periodShared`. -/
theorem periodSharesTheRemainder : Obligations.PeriodSharesTheRemainder := by
  unfold Obligations.PeriodSharesTheRemainder
  intro p i hfit hsome
  extract_lets c sharing ramp fixed
  have hsharing : sharing = periodSharing i p := computePeriod_sharing i p
  have hrole : ∀ k, ((periodRole i p k).1 = .sharing ↔ fixed k = none) ∧ (periodRole i p k).2 = ((fixed k).getD 0 : Nat) :=
    periodRole_fixedContribution i p
  have hmem : ∀ k, k ∈ sharing ↔ onIslandBus p i k = true ∧ fixed k = none := by
    intro k
    rw [hsharing, mem_periodSharing, (hrole k).1]
  have hdivides := periodShared_divides i p hfit
  obtain ⟨sh, hpart, -⟩ := computePeriod_part i p
  have hr : island c.1 i = recordPeriod i p { island p i with figures := some (figuresOf p i) } := by
    change island (computePeriod i p).1 i = _
    rw [hpart]
    exact (island_onIsland_self (p := { keepFigures i (figuresOf p i) p with share := sh })
      ((onIsland_isSome ..).trans hsome)).trans (congrArg _ (island_onIsland_self hsome))
  have hpart' : SameAside p c.1 ∧ c.1.seq = p.seq ∧ c.1.gov = p.gov ∧ c.1.entry = p.entry := by
    change SameAside p (computePeriod i p).1 ∧ (computePeriod i p).1.seq = p.seq ∧ (computePeriod i p).1.gov = p.gov
      ∧ (computePeriod i p).1.entry = p.entry
    rw [hpart]
    exact ⟨⟨⟨rfl, .inl ⟨rfl, rfl⟩⟩, rfl, rfl, rfl, rfl, rfl, rfl, .inl rfl⟩, rfl, rfl, rfl⟩
  obtain ⟨haside, hseq, hgov, hentry⟩ := hpart'
  rw [hr]
  refine ⟨rfl, rfl, rfl, rfl, haside, hseq, hgov, hentry, hmem,
    ⟨periodFixed i p, periodRemainder i p, (periodShared i p).residual, rfl, rfl, rfl, ?_, rfl, ?_, ?_, ?_⟩, ?_⟩
  · rw [periodFixed_eq, busSets, sum_filter_sets]
    simp only [(hrole _).2]
  · rw [hsharing]
    exact (congrArg (· + _) (sum_targets i p hfit)).trans hdivides.account
  · intro k hk
    obtain ⟨x, hx, rfl⟩ := exists_target i p hfit (hsharing ▸ hk)
    obtain ⟨hlo, hhi⟩ := periodShared_within i p hfit hx
    exact ⟨_, periodTarget_shared i p hfit hx, by omega, by omega⟩
  · intro hres k hk
    have hitem : shareItem (ramped i p) k ∈ periodItems i p := by
      rw [periodItems_eq]
      exact List.mem_map_of_mem (hsharing ▸ hk)
    rcases lt_or_gt_of_ne hres with hneg | hpos
    · have h := periodTarget_shared i p hfit (hdivides.low hneg _ hitem)
      simp only [shareItem, setCfg, ramped_cfg, Int.toNat_natCast] at h
      exact .inl h
    · have h := periodTarget_shared i p hfit (hdivides.high hpos _ hitem)
      simp only [shareItem, setCfg, ramped_cfg, Int.toNat_natCast] at h
      exact .inr h
  · intro k hk hi hnot
    refine (computePeriod_target i p k hk hi).trans ?_
    rw [periodTarget, periodTarget_other i p hfit (hsharing ▸ hnot)]
    simp only [ramped_seq, setCfg, ramped_cfg, rampValue_ramped, List.contains_iff_mem]
    rfl

/-! ### Ramps and shadow targets (R79 to R83) -/

/-- The contribution of a set to the remainder of the shadow targets, as one value (R80). -/
theorem shadowContribution_eq (i : IslandNo) (p : Part) (k : SetNo) :
    let ramp := (computePeriod i p).1.share[k].ramp.getD p.setImage[k].kw
    let fixed := if decide (p.seq[k].state = some .rampIn ∨ p.seq[k].state = some .rampOut) = true then some ramp
      else fixedContribution p k false 0
    shadowContribution (ramped i p) k = ((fixed.getD 0 : Nat) : Int)
    ∧ ((!ramping (ramped i p) k && (shareRole (ramped i p) [] k).1 == .sharing) = true ↔ fixed = none) := by
  intro ramp fixed
  have hramping : ramping (ramped i p) k
      = decide (p.seq[k].state = some .rampIn ∨ p.seq[k].state = some .rampOut) := by
    rw [Bool.eq_iff_iff]
    simp [ramping]
  have hrole := shareRole_fixedContribution (ramped i p) [] k
  rw [fixedContribution_ramped] at hrole
  by_cases h : p.seq[k].state = some .rampIn ∨ p.seq[k].state = some .rampOut
  · simp only [shadowContribution, hramping, fixed, decide_eq_true h, if_true, rampValue_ramped]
    exact ⟨rfl, by simp⟩
  · have hsame : fixedContribution p k (decide (k ∈ [])) (rampValue (ramped i p) k) = fixedContribution p k false 0 := by
      have hin : p.seq[k].state ≠ some .rampIn := fun e => h (.inl e)
      have hout : p.seq[k].state ≠ some .rampOut := fun e => h (.inr e)
      unfold fixedContribution
      generalize p.seq[k].state = st at hin hout
      simp only [List.not_mem_nil, decide_false]
      split
      · rfl
      · split <;> simp_all
    rw [hsame] at hrole
    simp only [shadowContribution, hramping, fixed, decide_eq_false h]
    refine ⟨hrole.2, ?_⟩
    simpa using hrole.1

theorem rampOutDone_iff (p : Part) (k : SetNo) : rampOutDone p k = true ↔ rampValue p k = p.cfg.sets[k].pmin
    ∧ (p.setImage[k].fresh.state = .qualified
        ∧ p.setImage[k].kw ≤ p.cfg.sets[k].pmin + p.cfg.sets[k].rated * p.cfg.sets[k].deadband / 1000
      ∨ ∃ t, p.share[k].pminTime = some t ∧ t + 30000 ≤ p.clock) := by
  unfold rampOutDone
  simp only [Bool.and_eq_true, Bool.or_eq_true, beq_iff_eq, decide_eq_true_eq]
  refine and_congr .rfl (or_congr .rfl ?_)
  cases p.share[k].pminTime with
  | none => simp
  | some t =>
    simp only [decide_eq_true_eq, Option.some.injEq, exists_eq_left']
    rfl

/-- Settles O27: stage 2 sets the ramp values, and stage 3 compares them with the shadow target that they leave. -/
theorem periodAdvancesRamps : Obligations.PeriodAdvancesRamps := by
  unfold Obligations.PeriodAdvancesRamps
  intro p i k
  extract_lets c v q bus ramp ramps effective fixed left sharing shadow fallen
  have hramp : ∀ j, rampValue (ramped i p) j = ramp j := rampValue_ramped i p
  have hcontribution := fun j => shadowContribution_eq i p j
  have hshadow : shadowTarget (ramped i p) i (figuresOf p i).load k = shadow := by
    have htotal : (((busSets (ramped i p) i).filter fun j =>
        !ramping (ramped i p) j && (shareRole (ramped i p) [] j).1 == .sharing).map
          fun j => (shareItem (ramped i p) j).weight).sum = sharing := by
      rw [ramped_busSets, busSets, List.filter_filter, sum_filter_sets]
      simp only [Bool.and_eq_true (_ && _), (hcontribution _).2, and_comm, shareItem, setCfg, ramped_cfg]
      rfl
    have hsum : ((busSets (ramped i p) i).map (shadowContribution (ramped i p))).sum
        = ∑ j : SetNo, (if bus j = true then ((fixed j).getD 0 : Int) else 0) := by
      rw [ramped_busSets, busSets, sum_filter_sets]
      simp only [(hcontribution _).1]
      rfl
    unfold shadowTarget
    simp only [htotal, hsum, setCfg, ramped_cfg]
    rfl
  refine ⟨fun hbus hstate => ?_, fun hbus hstate => ?_, fun hnot => ?_, ?_⟩
  · refine (computePeriod_ramp i p k).trans ?_
    rw [ramped_share, if_pos hbus, advanceRamp, hstate]
    rfl
  · have hrecord : (ramped i p).share[k] = advanceRamp p k p.share[k] := by rw [ramped_share, if_pos hbus]
    rw [advanceRamp, hstate] at hrecord
    refine ⟨(computePeriod_ramp i p k).trans (by rw [hrecord]; rfl), (computePeriod_pminTime i p k).trans ?_⟩
    rw [hrecord]
    simp only [bne_iff_ne, beq_iff_eq]
    rfl
  · refine (computePeriod_ramp i p k).trans ?_
    rw [ramped_share]
    split
    · next hbus =>
      rcases hnot with hoff | ⟨hin, hout⟩
      · exact absurd (hbus.symm.trans hoff) (by decide)
      · unfold advanceRamp
        split
        · next h => exact absurd h hin
        · next h => exact absurd h hout
        · rfl
    · rfl
  · rw [computePeriod_done, mem_periodDone]
    refine and_congr_right fun hbus => ?_
    have hout := rampOutDone_iff (ramped i p) k
    rw [hramp, ramped_cfg, ramped_setImage, ramped_clock, ← computePeriod_pminTime] at hout
    unfold rampDone
    rw [ramped_seq, hshadow, hramp]
    generalize p.seq[k].state = state
    split
    · simp
    · exact ⟨fun h => .inr ⟨rfl, hout.1 h⟩, fun h => h.elim (fun h => nomatch h.1) fun h => hout.2 h.2⟩
    · next hin hnot => exact ⟨nofun, fun h => h.elim (fun h => (hin h.1).elim) fun h => (hnot h.1).elim⟩

end Sys2Proof.Proofs
end

section
/-! WRITE STANDBY ORDER (R101): the numbers sent are sets, none twice, or nothing is changed; what follows the write is a test
occasion of every island. -/

namespace Sys2Proof.Proofs

open Sys2Proof.Machine Sys2Proof.Claims

/-- A request in service leaves the desk as the part had it before the request was numbered. -/
theorem sameDesk_numbered {p q : Part} (h : SameDesk (numberedPart p) q) :
    SameDesk p { q with nextRequest := p.nextRequest } := by
  obtain ⟨hd, ht⟩ := h
  simp only [Prod.mk.injEq, numberedPart] at hd
  obtain ⟨h1, h2, h3, h4, h5, h6, h7, h8, h9, -⟩ := hd
  refine ⟨?_, ht⟩
  simp only [h1, h2, h3, h4, h5, h6, h7, h8, h9]

/-- A request is answered from what serving it makes of the numbered part. -/
theorem answers_by {p q : Part} {w : List Instr} {c : Instr} {kind : Nat} {tag : Byte} {payload : List Byte} {r : Request}
    {code : ResultCode} {data : List Byte} (hf : Free p)
    (hc : exec c { part := p, pending := w } = request kind tag payload { part := p, pending := w })
    (hp : parseRequest (byteOf kind) payload = some r) (hs : storeGuarded r = false ∨ p.store.saving = none)
    (hsave : r ≠ .save) (ho : serveOwn r p.nextRequest (numberedPart p) = { part := q, code := code, data := data }) :
    Answers c p w kind tag payload code data { q with nextRequest := p.nextRequest } := by
  have h := answers_own hf hc hp hs hsave
  rw [ho] at h
  exact h

/-- A number's set, and the list of the numbers' sets. -/
theorem numbered_ofNat {n : Nat} (h : 1 ≤ n ∧ n ≤ 8) : numbered 8 n = some (Fin.ofNat 8 (n - 1)) := by
  refine numbered_val ?_
  simp only [Fin.val_ofNat]
  omega

theorem mapM_numbered {sets : List Byte} (h : ∀ n ∈ sets, 1 ≤ n.toNat ∧ n.toNat ≤ 8) :
    (sets.mapM fun n => numbered 8 n.toNat) = some (sets.map fun n => Fin.ofNat 8 (n.toNat - 1)) := by
  induction sets with
  | nil => rfl
  | cons n sets ih =>
    rw [List.mapM_cons, numbered_ofNat (h n (by simp)), ih fun m hm => h m (by simp [hm])]
    rfl

theorem mapM_numbered_outside {sets : List Byte} (h : ∃ n ∈ sets, n.toNat = 0 ∨ 8 < n.toNat) :
    (sets.mapM fun n => numbered 8 n.toNat) = none := by
  induction sets with
  | nil => simp at h
  | cons n sets ih =>
    rw [List.mapM_cons]
    by_cases hn : n.toNat = 0 ∨ 8 < n.toNat
    · rw [numbered_outside hn]
      rfl
    · obtain ⟨m, hm, hout⟩ := h
      have hmem : m ∈ sets := (List.mem_cons.1 hm).resolve_left (by rintro rfl; exact hn hout)
      rw [ih ⟨m, hmem, hout⟩]
      cases numbered 8 n.toNat <;> rfl

theorem hasRepeat_iff (l : List SetNo) : hasRepeat l = true ↔ ¬l.Nodup := by
  induction l with
  | nil => simp [hasRepeat]
  | cons k ks ih =>
    rw [hasRepeat, Bool.or_eq_true, ih, List.nodup_cons, List.contains_iff_mem]
    tauto

theorem nodup_sets {sets : List Byte} (h : ∀ n ∈ sets, 1 ≤ n.toNat ∧ n.toNat ≤ 8) :
    (sets.map fun n => (Fin.ofNat 8 (n.toNat - 1) : SetNo)).Nodup ↔ sets.Nodup := by
  refine ⟨List.Nodup.of_map _, fun hn => hn.map_on fun m hm n hn' heq => BitVec.eq_of_toNat_eq ?_⟩
  have hval := congrArg Fin.val heq
  simp only [Fin.val_ofNat] at hval
  have := h m hm
  have := h n hn'
  omega

section Orders

variable {sets : List Byte} {p : Part}

theorem writeStandbyOrder_noSuch (h : ∃ n ∈ sets, n.toNat = 0 ∨ 8 < n.toNat) :
    writeStandbyOrder sets p = answered .noSuch p := by rw [writeStandbyOrder, mapM_numbered_outside h]

theorem writeStandbyOrder_duplicate (h : ∀ n ∈ sets, 1 ≤ n.toNat ∧ n.toNat ≤ 8) (hn : ¬sets.Nodup) :
    writeStandbyOrder sets p = answered .duplicate p := by
  rw [writeStandbyOrder, mapM_numbered h]
  exact if_pos ((hasRepeat_iff _).2 (mt (nodup_sets h).1 hn))

theorem writeStandbyOrder_done (h : ∀ n ∈ sets, 1 ≤ n.toNat ∧ n.toNat ≤ 8) (hn : sets.Nodup) :
    writeStandbyOrder sets p = answered .done
      (testAll { p with cfg := { p.cfg with standby := sets.map fun n => Fin.ofNat 8 (n.toNat - 1) } }) := by
  have hnodup := (nodup_sets h).2 hn
  have hlength := hnodup.length_le_card
  rw [Fintype.card_fin] at hlength
  rw [writeStandbyOrder, mapM_numbered h]
  exact (if_neg (mt (hasRepeat_iff _).1 (not_not.2 hnodup))).trans (if_neg (Nat.not_lt.2 hlength))

end Orders

/-- Settles O48: the three outcomes of the write; the last is a test of every island, beside the records of objects and
entries. -/
theorem standbyOrderTakesEffect : Obligations.StandbyOrderTakesEffect := by
  unfold Obligations.StandbyOrderTakesEffect
  intro p w tag sets hfree hsaving hlength
  have hparse : parseRequest (byteOf 14) (byteOf sets.length :: sets) = some (.writeStandbyOrder sets) :=
    parse_writeStandbyOrder (by omega)
  refine ⟨fun hout => ?_, fun hin hrepeat => ?_, fun hin hnodup => ?_⟩
  · exact answers_served hfree rfl hparse (.inr hsaving) nofun (writeStandbyOrder_noSuch hout)
  · exact answers_served hfree rfl hparse (.inr hsaving) nofun (writeStandbyOrder_duplicate hin hrepeat)
  · obtain ⟨start, hstart⟩ : ∃ start : Part, start = { numberedPart p with
        cfg := { p.cfg with standby := sets.map fun n => Fin.ofNat 8 (n.toNat - 1) } } := ⟨_, rfl⟩
    have hserve : serveOwn (.writeStandbyOrder sets) p.nextRequest (numberedPart p) = answered .done (testAll start) :=
      hstart ▸ writeStandbyOrder_done (p := numberedPart p) hin hnodup
    have hbeside : Beside start (testAll start) := handing_testAll (units_beside start).toHanding (.refl start)
    have hentry : (testAll start).entry = start.entry := tests_testAll (grants_entry _).toTests rfl
    have hheld : held Island.kept (testAll start) = held Island.kept start := tests_testAll (tests_held _) rfl
    refine ⟨_, answers_by hfree rfl hparse (.inr hsaving) nofun hserve, ?_⟩
    generalize testAll start = q at hbeside hentry hheld
    subst hstart
    exact ⟨hbeside.cfg, sameDesk_numbered hbeside.desk, hbeside.clock, hbeside.map, hbeside.images, hbeside.sameLine, hentry,
      field_of_held (held_of_held (fun x => x.2.2.2.2) hheld)⟩

end Sys2Proof.Proofs
end

section
/-! The reads (R174 to R176): what a number or a section code names, and the data answered. A read sees of the part what it was
before the request was numbered. -/

namespace Sys2Proof.Proofs

open Sys2Proof.Machine Sys2Proof.Claims

/-! ### Numbers and codes -/

theorem numbered_some {m n : Nat} {k : Fin m} (h : numbered m n = some k) : n = k.val + 1 := by
  unfold numbered at h
  split at h
  · next hn =>
    have hk := congrArg Fin.val (Option.some.inj h)
    dsimp only at hk
    omega
  · exact nomatch h

theorem bind_numbered {α : Type} {m : Nat} {n : Byte} {k : Fin m} (f : Fin m → Option α) (h : n.toNat = k.val + 1) :
    (numbered m n.toNat).bind f = f k := by rw [numbered_val h, Option.bind_some]

theorem bind_numbered_none {α : Type} {m : Nat} {n : Byte} {f : Fin m → Option α}
    (h : ∀ k : Fin m, n.toNat = k.val + 1 → f k = none) : (numbered m n.toNat).bind f = none :=
  Option.bind_eq_none_iff.2 fun k hk => h k (numbered_some hk)

/-! ### Figures in four bytes (log entry 16) -/

theorem byteOf_eq_extract (n k : Nat) (v : Word) (h : v.toNat = n % 4294967296) (hk : k ≤ 24) :
    v.extractLsb' k 8 = byteOf (n / 2 ^ k) := by
  refine BitVec.eq_of_toNat_eq ?_
  rw [BitVec.extractLsb'_toNat, h, byteOf, BitVec.toNat_ofNat, Nat.shiftRight_eq_div_pow]
  have hsplit : (4294967296 : Nat) = 2 ^ k * (2 ^ (24 - k) * 2 ^ 8) := by
    rw [← Nat.pow_add, ← Nat.pow_add, show k + (24 - k + 8) = 32 by omega]
  rw [hsplit, Nat.mod_mul_right_div_self, Nat.mod_mod_of_dvd _ (Dvd.intro_left _ rfl)]

theorem numData_natCast (n : Nat) : numData (n : Int) = be32 n := by
  have h : (BitVec.ofInt 32 (n : Int)).toNat = n % 4294967296 := by
    rw [BitVec.ofInt_natCast, BitVec.toNat_ofNat]
  have hbyte := fun k hk => byteOf_eq_extract n k _ h hk
  rw [numData, wordBytes, hbyte 24 (by omega), hbyte 16 (by omega), hbyte 8 (by omega), hbyte 0 (by omega)]
  simp only [be32, Nat.reducePow, Nat.div_one]

theorem identifyData_eq (p : Part) : identifyData p
    = be32 4260 ++ be32 1 ++ be32 (match p.rate with | .r115200 => 115200 | .r460800 => 460800)
        ++ [match p.phase with | .acquire => 0#8 | .run => 1#8] ++ be32 p.clock ++ [if p.store.valid then 1#8 else 0#8] := by
  rw [identifyData, numData_natCast, numData_natCast, numData_natCast]
  cases p.rate <;> cases p.phase <;> cases p.store.valid <;> rfl

theorem readFlagsData_eq (p : Part) : readFlagsData p
    = be32 p.rawFlags.toNat ++ be32 p.cfg.enable.toNat ++ be32 p.reports.length ++ be32 p.allowance := by
  rw [readFlagsData, numData_natCast, numData_natCast]
  rfl

/-! ### Serving -/

section

variable {p : Part} {w : List Instr} {c : Instr} {kind : Nat} {tag : Byte} {payload data : List Byte} {r : Request}

/-- A read answered from the part as it stands. -/
theorem answers_read (hf : Free p)
    (hc : exec c { part := p, pending := w } = request kind tag payload { part := p, pending := w })
    (hp : parseRequest (byteOf kind) payload = some r) (hs : storeGuarded r = false)
    (ho : serveOwn r p.nextRequest (numberedPart p) = readDone data (numberedPart p)) :
    Answers c p w kind tag payload .done data p :=
  answers_served hf hc hp (.inl hs) (by rintro rfl; exact nomatch hs) ho

/-- A read of what is not there. -/
theorem answers_noSuch (hf : Free p)
    (hc : exec c { part := p, pending := w } = request kind tag payload { part := p, pending := w })
    (hp : parseRequest (byteOf kind) payload = some r) (hs : storeGuarded r = false)
    (ho : serveOwn r p.nextRequest (numberedPart p) = answered .noSuch (numberedPart p)) :
    Answers c p w kind tag payload .noSuch [] p :=
  answers_served hf hc hp (.inl hs) (by rintro rfl; exact nomatch hs) ho

end

section

variable {p : Part} {n m first : Byte}

theorem serveReadSet_done {k : SetNo} (h : n.toNat = k.val + 1) : serveReadSet n p = readDone (readSetData p k) p := by
  rw [serveReadSet, numbered_val h]

theorem serveReadSet_noSuch (h : n.toNat = 0 ∨ 8 < n.toNat) : serveReadSet n p = answered .noSuch p := by
  rw [serveReadSet, numbered_outside h]

theorem serveReadConsumer_done {c : ConsumerNo} {e : EntryConfig} (h : n.toNat = c.val + 1) (he : entryCfg p c = some e) :
    serveReadConsumer n p = readDone (readConsumerData p e) p := by
  rw [serveReadConsumer, bind_numbered _ h, he]

theorem serveReadConsumer_noSuch (h : ∀ c : ConsumerNo, n.toNat = c.val + 1 → entryCfg p c = none) :
    serveReadConsumer n p = answered .noSuch p := by rw [serveReadConsumer, bind_numbered_none h]

theorem namedIsland_some {s : SectionNo} {i : IslandNo} (h : n.toNat = s.val + 1) (hi : islandOf p s = some i) :
    namedIsland p n = some i := (bind_numbered _ h).trans hi

theorem serveReadIsland_done {i : IslandNo} (h : namedIsland p n = some i) :
    serveReadIsland n first p = readDone (readIslandData p i (figuresOf p i) first.toNat) (takeFigures i p) := by
  rw [serveReadIsland, h]

theorem serveReadHistory_done {i : IslandNo} (h : namedIsland p n = some i) :
    serveReadHistory n first p = readDone (numberData i ++ numData (island p i).history.length
      ++ listData (historyData p) (((island p i).history.drop first.toNat).take 20)) p := by
  rw [serveReadHistory, h]
  rfl

theorem serveReadContingency_table {i : IslandNo} (h : namedIsland p n = some i) :
    serveReadContingency n 0#8 first p = readDone (numberData i ++ timeOr (island p i).rebuiltAt
      ++ listData (fun s => numberData s.set ++ selectionData s) (island p i).table) p := by
  rw [serveReadContingency, h]
  exact if_pos rfl

theorem readSelection_some {i : IslandNo} {k : SetNo} {sel : Selection}
    (h : (island p i).table.find? (fun s => s.set == k) = some sel) :
    readSelection i k first.toNat p = readDone
      (numberData i ++ selectionData sel ++ listData actionData ((sel.actions.drop first.toNat).take 32)) p := by
  rw [readSelection, h]
  rfl

theorem readSelection_none {i : IslandNo} {k : SetNo} (h : (island p i).table.find? (fun s => s.set == k) = none) :
    readSelection i k first.toNat p = answered .noSuch p := by
  rw [readSelection, h]

theorem serveReadContingency_selection {i : IslandNo} {k : SetNo} {sel : Selection} (h : namedIsland p n = some i)
    (hm : m.toNat = k.val + 1) (hsel : (island p i).table.find? (fun s => s.set == k) = some sel) :
    serveReadContingency n m first p = readDone
      (numberData i ++ selectionData sel ++ listData actionData ((sel.actions.drop first.toNat).take 32)) p := by
  have hne : m ≠ 0#8 := by
    rintro rfl
    exact absurd hm (Nat.succ_ne_zero _).symm
  rw [serveReadContingency, h]
  refine (if_neg hne).trans ?_
  rw [numbered_val hm]
  exact readSelection_some hsel

theorem serveReadContingency_noSuch {i : IslandNo} (h : namedIsland p n = some i) (hne : m ≠ 0#8)
    (hm : ∀ k : SetNo, m.toNat = k.val + 1 → (island p i).table.find? (fun s => s.set == k) = none) :
    serveReadContingency n m first p = answered .noSuch p := by
  rw [serveReadContingency, h]
  refine (if_neg hne).trans ?_
  split
  · next k hk => exact readSelection_none (hm k (numbered_some hk))
  · rfl

end

/-- Settles O43: each read's answer, from what its number or code names. -/
theorem readsAnswer : Obligations.ReadsAnswer := by
  unfold Obligations.ReadsAnswer
  intro p w tag n m first hf
  refine ⟨?_, ?_, ?_, fun k hk => ?_, fun hn => ?_, fun c e hc he => ?_, fun hc => ?_, fun s i hs hi => ?_, fun hs => ?_⟩
  · have h : Answers (.identify tag) p w 1 tag [] .done (identifyData p) p := answers_read hf rfl rfl rfl rfl
    rw [identifyData_eq] at h
    exact h
  · rw [← readFlagsData_eq]
    exact answers_read hf rfl rfl rfl rfl
  · exact answers_read hf rfl rfl rfl rfl
  · exact answers_read hf rfl rfl rfl (serveReadSet_done (p := numberedPart p) hk)
  · exact answers_noSuch hf rfl rfl rfl (serveReadSet_noSuch (p := numberedPart p) hn)
  · exact answers_read hf rfl rfl rfl (serveReadConsumer_done (p := numberedPart p) hc he)
  · exact answers_noSuch hf rfl rfl rfl (serveReadConsumer_noSuch (p := numberedPart p) hc)
  · have hi' : namedIsland (numberedPart p) n = some i := namedIsland_some hs hi
    refine ⟨?_, ?_, ?_, fun k sel hm hsel => ?_, fun hne hm => ?_⟩
    · exact answers_served hf rfl rfl (.inl rfl) nofun (serveReadIsland_done hi')
    · exact answers_read hf rfl rfl rfl (serveReadHistory_done hi')
    · rintro rfl
      exact answers_read hf rfl rfl rfl (serveReadContingency_table (first := first) hi')
    · exact answers_read hf rfl rfl rfl (serveReadContingency_selection hi' hm hsel)
    · exact answers_noSuch hf rfl rfl rfl (serveReadContingency_noSuch hi' hne hm)
  · have hi' : namedIsland (numberedPart p) n = none := bind_numbered_none hs
    refine ⟨?_, ?_, ?_⟩
    · exact answers_noSuch hf rfl rfl rfl (show serveReadIsland n first _ = _ by rw [serveReadIsland, hi'])
    · exact answers_noSuch hf rfl rfl rfl (show serveReadHistory n first _ = _ by rw [serveReadHistory, hi'])
    · exact answers_noSuch hf rfl rfl rfl (show serveReadContingency n m first _ = _ by rw [serveReadContingency, hi'])

end Sys2Proof.Proofs
end

section
/-! What an event, a taking of the figures and a rebuild of a contingency table change (R68, R140, R182): flags, reports, the
selections, and the figures and tables of the island records. Everything else is as it was. -/

namespace Sys2Proof.Proofs

open Sys2Proof.Machine Sys2Proof.Claims

/-- An island record but for its figures and its table. -/
def unbuilt (r : Island) :=
  (r.pFixed, r.remainder, r.residual, r.periodAt, r.nextPeriod, r.reserve, r.shed, r.restore, r.history)

/-- The part after events, takings of figures and rebuilds. -/
def Noted (p q : Part) : Prop :=
  (∃ sel f r t n v, q = { p with selection := sel, rawFlags := f, reports := r, supTx := t, allowance := n, islands := v })
  ∧ held unbuilt q = held unbuilt p
  ∧ ∀ k, Flagged p k → Flagged q k

namespace Noted

variable {p q : Part}

theorem refl (p : Part) : Noted p p :=
  ⟨⟨p.selection, p.rawFlags, p.reports, p.supTx, p.allowance, p.islands, rfl⟩, rfl, fun _ h => h⟩

theorem trans {r : Part} (h : Noted p q) (h' : Noted q r) : Noted p r := by
  obtain ⟨⟨sel, f, rs, t, n, v, rfl⟩, hheld, hflag⟩ := h
  obtain ⟨⟨sel', f', rs', t', n', v', rfl⟩, hheld', hflag'⟩ := h'
  exact ⟨⟨sel', f', rs', t', n', v', rfl⟩, hheld'.trans hheld, fun k hk => hflag' k (hflag k hk)⟩

theorem occur (h : Noted p q) (k : EventKind) (o : EventObject) : Noted p (Machine.occur k o q) := by
  refine h.trans ?_
  have hflag : ∀ j, Flagged q j → Flagged (Machine.occur k o q) j := fun j hj => occur_keeps_flag k j o hj
  obtain ⟨f, r, t, n, e⟩ := occur_eq k o q
  exact ⟨⟨q.selection, f, r, t, n, q.islands, e⟩, held_congr _ (by rw [e]), hflag⟩

theorem onSelection (h : Noted p q) (k : SetNo) (f : SelectionRecord → SelectionRecord) :
    Noted p (Machine.onSelection k f q) :=
  h.trans ⟨⟨_, q.rawFlags, q.reports, q.supTx, q.allowance, q.islands, rfl⟩, rfl, fun _ h => h⟩

theorem onIsland (h : Noted p q) (i : IslandNo) (f : Island → Island) (hf : ∀ r, unbuilt (f r) = unbuilt r) :
    Noted p (Machine.onIsland i f q) :=
  h.trans ⟨⟨q.selection, q.rawFlags, q.reports, q.supTx, q.allowance, _, rfl⟩, held_onIsland hf, fun _ h => h⟩

theorem takeFigures (h : Noted p q) (i : IslandNo) : Noted p (Machine.takeFigures i q) := h.onIsland i _ fun _ => rfl

theorem noteSelection (h : Noted p q) (s : Selection) : Noted p (Machine.noteSelection s q) := by
  unfold Machine.noteSelection
  extract_lets kept
  have hkept : Noted p kept := h.onSelection _ _
  split
  · exact hkept.occur _ _
  · exact hkept

theorem leaveTable (h : Noted p q) (i : IslandNo) : Noted p (Machine.leaveTable i q) :=
  fold_keeps (I := Noted p) _ _ (fun _ _ hq => hq.onSelection _ _) h

theorem rebuildWith (h : Noted p q) (i : IslandNo) (f : Figures) (counted : List SetNo) :
    Noted p (Machine.rebuildWith i f counted q) :=
  (fold_keeps (I := Noted p) _ _ (fun _ _ hq => hq.noteSelection _) (h.leaveTable i)).onIsland i _ fun _ => rfl

theorem rebuild (h : Noted p q) (i : IslandNo) : Noted p (Machine.rebuild i q) := (h.takeFigures i).rebuildWith i _ _

theorem rebuildFor (h : Noted p q) (c : ConsumerNo) : Noted p (Machine.rebuildFor c q) := by
  unfold Machine.rebuildFor
  split
  · exact h.rebuild _
  · exact h

/-! What stays. -/

theorem flag (h : Noted p q) {k : EventKind} (hk : Flagged p k) : Flagged q k := h.2.2 k hk

theorem seq (h : Noted p q) : q.seq = p.seq := by obtain ⟨⟨_, _, _, _, _, _, rfl⟩, -⟩ := h; rfl
theorem share (h : Noted p q) : q.share = p.share := by obtain ⟨⟨_, _, _, _, _, _, rfl⟩, -⟩ := h; rfl
theorem gov (h : Noted p q) : q.gov = p.gov := by obtain ⟨⟨_, _, _, _, _, _, rfl⟩, -⟩ := h; rfl
theorem inFlight (h : Noted p q) : q.inFlight = p.inFlight := by obtain ⟨⟨_, _, _, _, _, _, rfl⟩, -⟩ := h; rfl
theorem entry (h : Noted p q) : q.entry = p.entry := by obtain ⟨⟨_, _, _, _, _, _, rfl⟩, -⟩ := h; rfl
theorem urgent (h : Noted p q) : q.urgent = p.urgent := by obtain ⟨⟨_, _, _, _, _, _, rfl⟩, -⟩ := h; rfl
theorem normal (h : Noted p q) : q.normal = p.normal := by obtain ⟨⟨_, _, _, _, _, _, rfl⟩, -⟩ := h; rfl
theorem fieldTx (h : Noted p q) : q.fieldTx = p.fieldTx := by obtain ⟨⟨_, _, _, _, _, _, rfl⟩, -⟩ := h; rfl
theorem feedback (h : Noted p q) : q.feedback = p.feedback := by obtain ⟨⟨_, _, _, _, _, _, rfl⟩, -⟩ := h; rfl
theorem nextOrder (h : Noted p q) : q.nextOrder = p.nextOrder := by obtain ⟨⟨_, _, _, _, _, _, rfl⟩, -⟩ := h; rfl
theorem cfg (h : Noted p q) : q.cfg = p.cfg := by obtain ⟨⟨_, _, _, _, _, _, rfl⟩, -⟩ := h; rfl
theorem clock (h : Noted p q) : q.clock = p.clock := by obtain ⟨⟨_, _, _, _, _, _, rfl⟩, -⟩ := h; rfl
theorem phase (h : Noted p q) : q.phase = p.phase := by obtain ⟨⟨_, _, _, _, _, _, rfl⟩, -⟩ := h; rfl
theorem islandMap (h : Noted p q) : q.islandMap = p.islandMap := by obtain ⟨⟨_, _, _, _, _, _, rfl⟩, -⟩ := h; rfl
theorem setImage (h : Noted p q) : q.setImage = p.setImage := by obtain ⟨⟨_, _, _, _, _, _, rfl⟩, -⟩ := h; rfl
theorem consumerImage (h : Noted p q) : q.consumerImage = p.consumerImage := by
  obtain ⟨⟨_, _, _, _, _, _, rfl⟩, -⟩ := h; rfl

theorem isSome (h : Noted p q) (j : IslandNo) : q.islands[j].isSome = p.islands[j].isSome := isSome_of_held h.2.1 j

theorem unbuilt_eq (h : Noted p q) (j : IslandNo) : unbuilt (island q j) = unbuilt (island p j) := field_of_held h.2.1 j

theorem reserve (h : Noted p q) (j : IslandNo) : (island q j).reserve = (island p j).reserve :=
  congrArg (fun x => x.2.2.2.2.2.1) (h.unbuilt_eq j)
theorem shed (h : Noted p q) (j : IslandNo) : (island q j).shed = (island p j).shed :=
  congrArg (fun x => x.2.2.2.2.2.2.1) (h.unbuilt_eq j)
theorem restore (h : Noted p q) (j : IslandNo) : (island q j).restore = (island p j).restore :=
  congrArg (fun x => x.2.2.2.2.2.2.2.1) (h.unbuilt_eq j)
theorem history (h : Noted p q) : SameHistory p q := fun j => congrArg (fun x => x.2.2.2.2.2.2.2.2) (h.unbuilt_eq j)
theorem nextPeriod (h : Noted p q) (j : IslandNo) : (island q j).nextPeriod = (island p j).nextPeriod :=
  congrArg (fun x => x.2.2.2.2.1) (h.unbuilt_eq j)
theorem periodAt (h : Noted p q) (j : IslandNo) : (island q j).periodAt = (island p j).periodAt :=
  congrArg (fun x => x.2.2.2.1) (h.unbuilt_eq j)

/-- An order handed over before is still there. -/
theorem raised {o : Part} {b : OrderBody} (h : Noted p q) (hr : Raised o p b) : Raised o q b := by
  unfold Raised
  rw [h.urgent, h.normal, h.fieldTx]
  exact hr

end Noted

end Sys2Proof.Proofs
end

section
/-! An order handed over is raised: it stands in a queue, or the idle transmitter has taken it (R28, R29, R32); and the set orders
of the Set Sequencer, with what it records of them (R56). -/

namespace Sys2Proof.Proofs

open Sys2Proof.Machine Sys2Proof.Claims

/-! ### Raising an order -/

/-- The order that is handed over. -/
def raisedOrder (b : OrderBody) (urgent : Bool) (p : Part) : Order :=
  { serial := p.nextOrder, body := b, urgent := urgent }

theorem isFor_of_queuedFor {p : Part} {o : ObjectRef} {old : Order} (h : queuedFor p o = some old) :
    old ∈ p.urgent ++ p.normal ∧ old.isFor o = true :=
  ⟨List.mem_of_find?_eq_some h, List.find?_some h⟩

/-- An order for a configured object that finds room joins the queues (R28, R29). -/
theorem joinQueues_raises {b : OrderBody} {u : Bool} {p : Part} (hc : objectConfigured p b.object = true)
    (hr : u = true ∨ Room p) :
    (joinQueues b u p).queued = some p.nextOrder
    ∧ raisedOrder b u p ∈ (joinQueues b u p).part.urgent ++ (joinQueues b u p).part.normal := by
  cases hq : queuedFor p b.object with
  | none =>
    cases u with
    | true =>
      rw [joinQueues_urgent hc hq]
      exact ⟨rfl, by simp [withUrgent, raisedOrder]⟩
    | false =>
      rw [joinQueues_normal hc hq (hr.resolve_left nofun)]
      exact ⟨rfl, by simp [withNormal, raisedOrder]⟩
  | some old =>
    obtain ⟨hmem, hfor⟩ := isFor_of_queuedFor hq
    have heq : joinQueues b u p = replaceOrder (raisedOrder b u p) old p := by
      simp only [joinQueues, hc, hq]
      rfl
    rw [heq]
    unfold replaceOrder
    extract_lets next swap
    split
    · refine ⟨rfl, ?_⟩
      change _ ∈ p.urgent.map swap ++ p.normal.map swap
      rw [← List.map_append]
      exact List.mem_map.2 ⟨old, hmem, if_pos hfor⟩
    · split
      · exact ⟨rfl, by simp⟩
      · next hu =>
        have hroom : p.normal.length < Config.normalMax := hr.resolve_left hu
        rw [if_pos hroom]
        exact ⟨rfl, by simp⟩

/-- What the arbiter takes it does not lose (R32). -/
theorem arbitrate_raised {p : Part} {o : Order} (h : o ∈ p.urgent ++ p.normal) :
    o ∈ (arbitrate p).urgent ++ (arbitrate p).normal ∨ (arbitrate p).fieldTx.map OrderInTransmission.order = some o := by
  unfold arbitrate
  split
  · split
    · next x rest hu =>
      rw [hu] at h
      rcases List.mem_cons.1 h with rfl | h
      · exact .inr rfl
      · exact .inl h
    · next x rest hu hn =>
      rw [hu, hn] at h
      rcases List.mem_cons.1 h with rfl | h
      · exact .inr rfl
      · exact .inl (by simpa [beginOrder, hu] using h)
    · exact .inl h
  · exact .inl h

theorem handOver_queued (b : OrderBody) (u : Bool) (p : Part) : (handOver b u p).queued = (joinQueues b u p).queued := by
  unfold handOver
  extract_lets h
  split <;> rfl

theorem handOver_replaced (b : OrderBody) (u : Bool) (p : Part) :
    (handOver b u p).replaced = (joinQueues b u p).replaced := by
  unfold handOver
  extract_lets h
  split <;> rfl

theorem handOver_raises {b : OrderBody} {u : Bool} {p : Part} (hc : objectConfigured p b.object = true)
    (hr : u = true ∨ Room p) : (handOver b u p).queued = some p.nextOrder ∧ Raised p (handOver b u p).part b := by
  obtain ⟨hq, hmem⟩ := joinQueues_raises hc hr
  refine ⟨(handOver_queued b u p).trans hq, raisedOrder b u p, rfl, Nat.le_refl _, ?_⟩
  rw [handOver_part]
  split
  · exact arbitrate_raised hmem
  · exact .inl hmem

/-- A normal order that finds neither room nor a queued order of its object is not queued, with ORDER_QUEUE_FULL (R28). -/
theorem handOver_full {b : OrderBody} {p : Part} (hc : objectConfigured p b.object = true)
    (hfull : 32 ≤ p.normal.length) (hq : queuedFor p b.object = none) :
    handOver b false p
      = { part := occur .orderQueueFull (objectNamed b.object) p, queued := none, replaced := none } := by
  have hno : ¬p.normal.length < Config.normalMax := Nat.not_lt.2 hfull
  have hj : joinQueues b false p = queueFull b p := by
    simp only [joinQueues, hc, hq, hno, Bool.not_true, Bool.false_eq_true, if_false]
  have hne : p.normal.isEmpty = false := by
    cases h : p.normal with
    | nil => simp [h] at hfull
    | cons => rfl
  unfold handOver
  rw [hj, hne, Bool.and_false]
  rfl

/-- An order of a later hand-over is one since an earlier part. -/
theorem raised_since {o p q : Part} {b : OrderBody} (h : Raised p q b) (hn : o.nextOrder ≤ p.nextOrder) : Raised o q b := by
  obtain ⟨x, hb, hs, hx⟩ := h
  exact ⟨x, hb, hn.trans hs, hx⟩

theorem raised_congr {p q r : Part} {b : OrderBody} (h : Raised p q b) (hu : r.urgent = q.urgent) (hn : r.normal = q.normal)
    (ht : r.fieldTx = q.fieldTx) : Raised p r b := by
  unfold Raised
  rw [hu, hn, ht]
  exact h

/-! ### Set orders (R56) -/

/-- The last outcome of a set's order, as an update of its record. -/
def withOutcome (l : SeqRecord → Option (SetOrder × OrderOutcome)) (r : SeqRecord) : SeqRecord :=
  { r with lastOutcome := l r }

theorem noteReplaced_eq (k : SetNo) (o : Option Order) (p : Part) : ∃ l, noteReplaced k o p = onSeq k (withOutcome l) p := by
  unfold noteReplaced
  split
  · exact ⟨_, rfl⟩
  · refine ⟨fun r => r.lastOutcome, ?_⟩
    have hself : modifyAt p.seq k (withOutcome fun r => r.lastOutcome) = p.seq := Vector.set_getElem_self k.isLt
    change p = { p with seq := modifyAt p.seq k _ }
    rw [hself]

/-- Handing a set order over changes of the set's record its last outcome alone. -/
theorem handSet_eq (k : SetNo) (a : SetOrder) (p : Part) :
    (∃ l, (handSet k a p).1 = onSeq k (withOutcome l) (handOver (.set k a) false p).part)
    ∧ (handSet k a p).2 = (handOver (.set k a) false p).queued.isSome := by
  obtain ⟨l, hl⟩ := noteReplaced_eq k (handOver (.set k a) false p).replaced (handOver (.set k a) false p).part
  unfold handSet noteHanded
  rw [hl]
  split
  · next h => exact ⟨⟨l, rfl⟩, h.symm⟩
  · next h =>
    refine ⟨⟨fun _ => some (a, .notQueued), ?_⟩, by simpa using h⟩
    simp only [noteOutcome, onSeq, modifyAt, Fin.getElem_fin, Vector.getElem_set_self, Vector.set_set]
    rfl

end Sys2Proof.Proofs
end

section
/-! A set's change of state as it is handed on where the Reserve Unit makes no request of its own for it (R44, R103): the Share and
Governor Output Units' records, the sets in flight and the table follow it, and no more. -/

namespace Sys2Proof.Proofs

open Sys2Proof.Machine Sys2Proof.Claims

/-- The part after changes have been handed on from which no other follows. -/
def Heard (p q : Part) : Prop := ∃ sh g f, Noted { p with share := sh, gov := g, inFlight := f } q

namespace Heard

variable {p q : Part}

theorem refl (p : Part) : Heard p p := ⟨p.share, p.gov, p.inFlight, .refl p⟩

theorem noted {r : Part} (h : Heard p q) (hn : Noted q r) : Heard p r := by
  obtain ⟨sh, g, f, h⟩ := h
  exact ⟨sh, g, f, h.trans hn⟩

theorem flag (h : Heard p q) {k : EventKind} (hk : Flagged p k) : Flagged q k := by
  obtain ⟨sh, g, f, h⟩ := h
  exact h.flag hk

theorem seq (h : Heard p q) : q.seq = p.seq := by obtain ⟨_, _, _, h⟩ := h; exact h.seq
theorem entry (h : Heard p q) : q.entry = p.entry := by obtain ⟨_, _, _, h⟩ := h; exact h.entry
theorem urgent (h : Heard p q) : q.urgent = p.urgent := by obtain ⟨_, _, _, h⟩ := h; exact h.urgent
theorem normal (h : Heard p q) : q.normal = p.normal := by obtain ⟨_, _, _, h⟩ := h; exact h.normal
theorem fieldTx (h : Heard p q) : q.fieldTx = p.fieldTx := by obtain ⟨_, _, _, h⟩ := h; exact h.fieldTx
theorem nextOrder (h : Heard p q) : q.nextOrder = p.nextOrder := by obtain ⟨_, _, _, h⟩ := h; exact h.nextOrder
theorem cfg (h : Heard p q) : q.cfg = p.cfg := by obtain ⟨_, _, _, h⟩ := h; exact h.cfg
theorem clock (h : Heard p q) : q.clock = p.clock := by obtain ⟨_, _, _, h⟩ := h; exact h.clock
theorem islandMap (h : Heard p q) : q.islandMap = p.islandMap := by obtain ⟨_, _, _, h⟩ := h; exact h.islandMap
theorem reserve (h : Heard p q) (j : IslandNo) : (island q j).reserve = (island p j).reserve := by
  obtain ⟨_, _, _, h⟩ := h; exact h.reserve j
theorem shed (h : Heard p q) (j : IslandNo) : (island q j).shed = (island p j).shed := by
  obtain ⟨_, _, _, h⟩ := h; exact h.shed j
theorem restore (h : Heard p q) (j : IslandNo) : (island q j).restore = (island p j).restore := by
  obtain ⟨_, _, _, h⟩ := h; exact h.restore j
theorem nextPeriod (h : Heard p q) (j : IslandNo) : (island q j).nextPeriod = (island p j).nextPeriod := by
  obtain ⟨_, _, _, h⟩ := h; exact h.nextPeriod j
theorem history (h : Heard p q) : SameHistory p q := by obtain ⟨_, _, _, h⟩ := h; exact h.history
theorem isSome (h : Heard p q) (j : IslandNo) : q.islands[j].isSome = p.islands[j].isSome := by
  obtain ⟨_, _, _, h⟩ := h; exact h.isSome j

theorem raised {o : Part} {b : OrderBody} (h : Heard p q) (hr : Raised o p b) : Raised o q b :=
  raised_congr hr h.urgent h.normal h.fieldTx

end Heard

/-! ### One change -/

/-- The Share and Governor Output Units take a change (R77, R79, R81, R95). -/
theorem govChange_shareChange (c : SetChange) (p : Part) :
    ∃ sh g, govChange c (shareChange c p) = { p with share := sh, gov := g } := by
  unfold govChange
  split
  · exact ⟨_, p.gov, rfl⟩
  · exact ⟨_, _, rfl⟩

/-- The Reserve Unit takes a change in this part: the set is in flight or not, and the figures are taken afresh (R103, R106). -/
def followed (c : SetChange) (i : IslandNo) (p : Part) : Part :=
  takeFigures i { p with inFlight := modifyAt p.inFlight c.set fun _ => flightState c.new }

theorem followed_heard (c : SetChange) (i : IslandNo) (p : Part) : Heard p (followed c i p) :=
  ⟨p.share, p.gov, _, (Noted.refl _).takeFigures i⟩

/-- A change is heard where the Reserve Unit's own part of it is. -/
theorem deliverChange_heard {c : SetChange} {p : Part}
    (h : ∀ sh g, c.toReserve = true →
      (reserveChange c { p with share := sh, gov := g }).changes = []
      ∧ Heard p (reserveChange c { p with share := sh, gov := g }).part) :
    (deliverChange c p).changes = [] ∧ Heard p (deliverChange c p).part := by
  obtain ⟨sh, g, hunits⟩ := govChange_shareChange c p
  unfold deliverChange
  extract_lets units o
  have hu : units = { p with share := sh, gov := g } := hunits
  have ho : o.changes = [] ∧ Heard p o.part := by
    by_cases hr : c.toReserve = true
    · have : o = reserveChange c units := if_pos hr
      rw [this, hu]
      exact h sh g hr
    · have : o = sequenced units := if_neg hr
      rw [this, hu]
      exact ⟨rfl, sh, g, p.inFlight, .refl _⟩
  refine ⟨ho.1, ?_⟩
  change Heard p (match setIsland o.part c.set with
    | some i => rebuild i o.part
    | none => o.part)
  split
  · exact ho.2.noted ((Noted.refl _).rebuild _)
  · exact ho.2

theorem followed_state {c : SetChange} {p : Part} {i : IslandNo} :
    (island (followed c i p) i).reserve = (island p i).reserve := (followed_heard c i p).reserve i

/-- A change in an island in START_IN_FLIGHT (R109). -/
theorem reserveChange_inFlight {c : SetChange} {p : Part} {i : IslandNo} (hi : setIsland p c.set = some i)
    (hstate : (island p i).reserve.state = .startInFlight) :
    reserveChange c p =
      if (p.inFlight[c.set] && !flightState c.new) && !flightIn (followed c i p) i then
        if c.new == some .onBus then sequenced (quietThenJudge i
          (figuresOf { p with inFlight := modifyAt p.inFlight c.set fun _ => flightState c.new } i).spare (followed c i p))
        else flightFailed i
          (figuresOf { p with inFlight := modifyAt p.inFlight c.set fun _ => flightState c.new } i).spare (followed c i p)
      else sequenced (followed c i p) := by
  have hst : (island (followed c i p) i).reserve.state = .startInFlight :=
    (congrArg ReserveRecord.state followed_state).trans hstate
  unfold reserveChange
  extract_lets fol
  split
  · next h => exact nomatch h.symm.trans hi
  · next j h =>
    obtain rfl : j = i := Option.some.inj (h.symm.trans hi)
    extract_lets p1 spare
    split
    · rfl
    · next h' => exact nomatch h'.symm.trans hst
    · next h' _ => exact absurd hst h'

/-- A change in an island in STOPPING (R111). -/
theorem reserveChange_stopping {c : SetChange} {p : Part} {i : IslandNo} (hi : setIsland p c.set = some i)
    (hstate : (island p i).reserve.state = .stopping) :
    reserveChange c p =
      if (island p i).reserve.stoppingSet == some c.set && c.new != some .rampOut then
        sequenced (reserveState i .quiet (followed c i p))
      else reserveJudge i (figuresOf { p with inFlight := modifyAt p.inFlight c.set fun _ => flightState c.new } i).spare
        (followed c i p) := by
  have hst : (island (followed c i p) i).reserve = (island p i).reserve := followed_state
  unfold reserveChange
  extract_lets fol
  split
  · next h => exact nomatch h.symm.trans hi
  · next j h =>
    obtain rfl : j = i := Option.some.inj (h.symm.trans hi)
    extract_lets p1 spare
    split
    · next h' => exact nomatch h'.symm.trans ((congrArg _ hst).trans hstate)
    · rw [← hst]
      rfl
    · next h' => exact absurd ((congrArg _ hst).trans hstate) h'

/-- A change into flight is heard by an island in START_IN_FLIGHT (R109). -/
theorem deliverChange_intoFlight {c : SetChange} {p : Part} {i : IslandNo} (hi : setIsland p c.set = some i)
    (hstate : (island p i).reserve.state = .startInFlight) (hnew : flightState c.new = true) :
    (deliverChange c p).changes = [] ∧ Heard p (deliverChange c p).part := by
  refine deliverChange_heard fun sh g _ => ?_
  have hreserve : reserveChange c { p with share := sh, gov := g }
      = sequenced (followed c i { p with share := sh, gov := g }) :=
    (reserveChange_inFlight (p := { p with share := sh, gov := g }) hi hstate).trans
      (if_neg (by rw [hnew, Bool.not_true, Bool.and_false]; exact Bool.false_ne_true))
  rw [hreserve]
  exact ⟨rfl, sh, g, _, (Noted.refl _).takeFigures i⟩

/-- One change from which no other follows. -/
theorem handOn_single {o : Sequenced} {c : SetChange} (ho : o.changes = [c]) (h : (deliverChange c o.part).changes = []) :
    o.handOn = (deliverChange c o.part).part := by
  unfold Sequenced.handOn
  rw [ho]
  change handOnAll 63 ([] ++ (deliverChange c o.part).changes) _ = _
  rw [h]
  rfl

theorem handOn_nil {o : Sequenced} (ho : o.changes = []) : o.handOn = o.part := by
  unfold Sequenced.handOn
  rw [ho]
  rfl

end Sys2Proof.Proofs
end

section
/-! What the operations of the Set Sequencer change (R44 to R60): the sets' records, the order queues and what an event changes.
Each acts on the record of one set. -/

namespace Sys2Proof.Proofs

open Sys2Proof.Machine Sys2Proof.Claims

/-- The part after operations of the Set Sequencer on the set `k`. -/
structure Sequenced.Steps (k : SetNo) (p q : Part) : Prop where
  fields : ∃ sq x y n f r t m v, q = { p with
    seq := sq, urgent := x, normal := y, nextOrder := n, rawFlags := f, reports := r, supTx := t, allowance := m, fieldTx := v }
  others : ∀ j : SetNo, j ≠ k → q.seq[j] = p.seq[j]
  orders : p.nextOrder ≤ q.nextOrder
  flag : ∀ e, Flagged p e → Flagged q e

open Sequenced

namespace Sequenced.Steps

variable {k : SetNo} {p q : Part}

theorem refl (k : SetNo) (p : Part) : Steps k p p :=
  ⟨⟨p.seq, p.urgent, p.normal, p.nextOrder, p.rawFlags, p.reports, p.supTx, p.allowance, p.fieldTx, rfl⟩,
    fun _ _ => rfl, Nat.le_refl _, fun _ h => h⟩

theorem trans {r : Part} (h : Steps k p q) (h' : Steps k q r) : Steps k p r := by
  obtain ⟨⟨sq, x, y, n, f, rs, t, m, v, rfl⟩, hothers, horders, hflag⟩ := h
  obtain ⟨⟨sq', x', y', n', f', rs', t', m', v', rfl⟩, hothers', horders', hflag'⟩ := h'
  exact ⟨⟨sq', x', y', n', f', rs', t', m', v', rfl⟩, fun j hj => (hothers' j hj).trans (hothers j hj),
    horders.trans horders', fun e he => hflag' e (hflag e he)⟩

theorem onSeq (h : Steps k p q) (f : SeqRecord → SeqRecord) : Steps k p (Machine.onSeq k f q) :=
  h.trans ⟨⟨_, q.urgent, q.normal, q.nextOrder, q.rawFlags, q.reports, q.supTx, q.allowance, q.fieldTx, rfl⟩,
    fun j hj => onSeq_other k j f q hj.symm, Nat.le_refl _, fun _ h => h⟩

theorem occur (h : Steps k p q) (e : EventKind) (o : EventObject) : Steps k p (Machine.occur e o q) := by
  refine h.trans ?_
  have hflag : ∀ j, Flagged q j → Flagged (Machine.occur e o q) j := fun j hj => occur_keeps_flag e j o hj
  obtain ⟨f, r, t, n, heq⟩ := occur_eq e o q
  rw [heq] at hflag ⊢
  exact ⟨⟨q.seq, q.urgent, q.normal, q.nextOrder, f, r, t, n, q.fieldTx, rfl⟩, fun _ _ => rfl, Nat.le_refl _, hflag⟩

theorem handOver (h : Steps k p q) (b : OrderBody) (u : Bool) : Steps k p (Machine.handOver b u q).part := by
  refine h.trans ?_
  have hflag : ∀ j, Flagged q j → Flagged (Machine.handOver b u q).part j := fun j hj => handOver_flag b u j hj
  have horders := (handOver_line b u q).1
  obtain ⟨x, y, n, f, r, t, m, v, heq⟩ := handOver_eq b u q
  rw [heq] at hflag horders ⊢
  exact ⟨⟨q.seq, x, y, n, f, r, t, m, v, rfl⟩, fun _ _ => rfl, horders, hflag⟩

theorem joinQueues (h : Steps k p q) (b : OrderBody) (u : Bool) : Steps k p (Machine.joinQueues b u q).part := by
  refine h.trans ?_
  have hflag : ∀ j, Flagged q j → Flagged (Machine.joinQueues b u q).part j := fun j hj => joinQueues_flag b u j hj
  have horders := (joinQueues_apart b u q).2.1
  obtain ⟨x, y, n, f, r, t, m, heq⟩ := joinQueues_eq b u q
  rw [heq] at hflag horders ⊢
  exact ⟨⟨q.seq, x, y, n, f, r, t, m, q.fieldTx, rfl⟩, fun _ _ => rfl, horders, hflag⟩

theorem dropQueued (h : Steps k p q) (o : ObjectRef) : Steps k p (Machine.dropQueued o q) :=
  h.trans ⟨⟨q.seq, _, _, q.nextOrder, q.rawFlags, q.reports, q.supTx, q.allowance, q.fieldTx, rfl⟩,
    fun _ _ => rfl, Nat.le_refl _, fun _ h => h⟩

theorem noteReplaced (h : Steps k p q) (o : Option Order) : Steps k p (Machine.noteReplaced k o q) := by
  obtain ⟨l, hl⟩ := noteReplaced_eq k o q
  rw [hl]
  exact h.onSeq _

theorem noteHanded (a : SetOrder) (o : HandedOver) (h : Steps k p o.part) : Steps k p (Machine.noteHanded k a o).1 := by
  unfold Machine.noteHanded
  extract_lets noted
  split
  · exact h.noteReplaced _
  · exact (h.noteReplaced _).onSeq _

theorem handSet (h : Steps k p q) (a : SetOrder) : Steps k p (Machine.handSet k a q).1 :=
  noteHanded a _ (h.handOver _ _)

theorem withdrawSet (h : Steps k p q) : Steps k p (Machine.withdrawSet k q) := by
  unfold Machine.withdrawSet
  split
  · exact (h.dropQueued _).onSeq _
  · exact h

/-! What stays. -/

theorem islands (h : Steps k p q) : q.islands = p.islands := by
  obtain ⟨_, _, _, _, _, _, _, _, _, rfl⟩ := h.fields; rfl
theorem islandMap (h : Steps k p q) : q.islandMap = p.islandMap := by
  obtain ⟨_, _, _, _, _, _, _, _, _, rfl⟩ := h.fields; rfl
theorem cfg (h : Steps k p q) : q.cfg = p.cfg := by obtain ⟨_, _, _, _, _, _, _, _, _, rfl⟩ := h.fields; rfl
theorem clock (h : Steps k p q) : q.clock = p.clock := by obtain ⟨_, _, _, _, _, _, _, _, _, rfl⟩ := h.fields; rfl
theorem entry (h : Steps k p q) : q.entry = p.entry := by obtain ⟨_, _, _, _, _, _, _, _, _, rfl⟩ := h.fields; rfl
theorem inFlight (h : Steps k p q) : q.inFlight = p.inFlight := by
  obtain ⟨_, _, _, _, _, _, _, _, _, rfl⟩ := h.fields; rfl
theorem setImage (h : Steps k p q) : q.setImage = p.setImage := by
  obtain ⟨_, _, _, _, _, _, _, _, _, rfl⟩ := h.fields; rfl
theorem consumerImage (h : Steps k p q) : q.consumerImage = p.consumerImage := by
  obtain ⟨_, _, _, _, _, _, _, _, _, rfl⟩ := h.fields; rfl
theorem selection (h : Steps k p q) : q.selection = p.selection := by
  obtain ⟨_, _, _, _, _, _, _, _, _, rfl⟩ := h.fields; rfl
theorem gov (h : Steps k p q) : q.gov = p.gov := by obtain ⟨_, _, _, _, _, _, _, _, _, rfl⟩ := h.fields; rfl
theorem share (h : Steps k p q) : q.share = p.share := by obtain ⟨_, _, _, _, _, _, _, _, _, rfl⟩ := h.fields; rfl
theorem phase (h : Steps k p q) : q.phase = p.phase := by obtain ⟨_, _, _, _, _, _, _, _, _, rfl⟩ := h.fields; rfl
theorem feedback (h : Steps k p q) : q.feedback = p.feedback := by
  obtain ⟨_, _, _, _, _, _, _, _, _, rfl⟩ := h.fields; rfl

theorem island (h : Steps k p q) (j : IslandNo) : Machine.island q j = Machine.island p j := by
  rw [Machine.island, Machine.island, h.islands]
theorem islandOf (h : Steps k p q) (s : SectionNo) : Machine.islandOf q s = Machine.islandOf p s := by
  rw [Machine.islandOf, Machine.islandOf, h.islandMap]
theorem setIsland (h : Steps k p q) (j : SetNo) : Machine.setIsland q j = Machine.setIsland p j := by
  rw [Machine.setIsland, Machine.setIsland, setCfg, setCfg, h.cfg, h.islandOf]
theorem setConfigured (h : Steps k p q) (j : SetNo) : Machine.setConfigured q j = Machine.setConfigured p j := by
  rw [Machine.setConfigured, Machine.setConfigured, setCfg, setCfg, h.cfg]
theorem islandLive (h : Steps k p q) (j : IslandNo) : Machine.islandLive q j = Machine.islandLive p j := by
  obtain ⟨_, _, _, _, _, _, _, _, _, rfl⟩ := h.fields; rfl
theorem history (h : Steps k p q) : SameHistory p q := fun j => by rw [h.island]

end Sequenced.Steps

/-! ### A set order handed over (R27, R56) -/

section HandSet

variable {k : SetNo} {a : SetOrder} {p : Part}

theorem handSet_seq_self (k : SetNo) (a : SetOrder) (p : Part) :
    ∃ l, (handSet k a p).1.seq[k] = withOutcome l p.seq[k] := by
  obtain ⟨⟨l, hl⟩, -⟩ := handSet_eq k a p
  refine ⟨l, ?_⟩
  rw [hl]
  refine (modifyAt_self _ _ _).trans (congrArg _ ?_)
  rw [handOver_seq]
  rfl

/-- A set order that finds room is queued (R28). -/
theorem handSet_raises (hc : setConfigured p k = true) (hr : Room p) :
    (handSet k a p).2 = true ∧ Raised p (handSet k a p).1 (.set k a) := by
  obtain ⟨⟨l, hl⟩, hq⟩ := handSet_eq k a p
  obtain ⟨hqueued, hraised⟩ := handOver_raises (b := .set k a) (u := false) hc (.inr hr)
  refine ⟨by rw [hq, hqueued]; rfl, ?_⟩
  rw [hl]
  exact hraised

/-- One that finds none, and no order of the set's to replace, is not (R28, R56). -/
theorem handSet_full (hc : setConfigured p k = true) (hfull : 32 ≤ p.normal.length) (hq : queuedFor p (.set k) = none) :
    handSet k a p = (noteOutcome k a .notQueued (occur .orderQueueFull (.set k) p), false) := by
  rw [handSet, handOver_full (b := .set k a) hc hfull hq]
  rfl

end HandSet

/-! ### Entering a state -/

theorem enter_self (o : Sequenced) (k : SetNo) (st : SetState) :
    (o.enter k st).part.seq[k] = { o.part.seq[k] with state := some st, stayFrom := o.part.nextOrder } := modifyAt_self _ _ _

theorem enter_steps {o : Sequenced} {k : SetNo} {p : Part} (st : SetState) (h : Steps k p o.part) :
    Steps k p (o.enter k st).part := h.onSeq _

theorem onSeq_self (k : SetNo) (f : SeqRecord → SeqRecord) (p : Part) : (onSeq k f p).seq[k] = f p.seq[k] :=
  modifyAt_self _ _ _

/-! ### A start request (R45) -/

/-- A start request of a set that stands by is answered as started, its order queued. -/
theorem startRequest_started {k : SetNo} {p : Part} (hc : setConfigured p k = true) (hm : (setCfg p k).mode ≠ .localRun)
    (hs : p.seq[k].state = some .standby) (hr : Room p) :
    ∃ q, startRequest k p
        = ({ part := q, changes := [{ set := k, old := some .standby, new := some .starting, toReserve := true }] }, true)
      ∧ Steps k p q ∧ Raised p q (.set k .start) ∧ q.seq[k].state = some .starting ∧ q.seq[k].timer = none := by
  obtain ⟨o, ho⟩ : ∃ o, o = ((sequenced p).on (stopSetTimer k)).enter k .starting := ⟨_, rfl⟩
  have hsteps : Steps k p o.part := ho ▸ enter_steps _ ((Steps.refl k p).onSeq _)
  have hrecord : o.part.seq[k].state = some .starting ∧ o.part.seq[k].timer = none := by
    rw [ho, enter_self]
    exact ⟨rfl, congrArg SeqRecord.timer (onSeq_self k _ p)⟩
  have hroom : Room o.part := by rw [ho]; exact hr
  have hchanges : o.changes = [{ set := k, old := some .standby, new := some .starting, toReserve := true }] := by
    have hold : (stopSetTimer k p).seq[k].state = some .standby :=
      (congrArg SeqRecord.state (onSeq_self k _ p)).trans hs
    rw [ho]
    change [] ++ [SetChange.mk k (stopSetTimer k p).seq[k].state (some .starting) true] = _
    rw [hold]
    rfl
  have hconf : setConfigured o.part k = true := (hsteps.setConfigured k).trans hc
  obtain ⟨hqueued, hraised⟩ := handSet_raises (a := .start) hconf hroom
  obtain ⟨l, hself⟩ := handSet_seq_self k .start o.part
  refine ⟨(handSet k .start o.part).1, ?_, hsteps.handSet _, raised_since hraised hsteps.orders, ?_, ?_⟩
  · have hmay : (setConfigured p k && (setCfg p k).mode != .localRun && setStateIs p k .standby) = true := by
      rw [hc, setStateIs, hs]
      simpa using hm
    unfold startRequest
    rw [if_pos hmay, ← ho]
    extract_lets begun h o1
    have hq : h.2 = true := hqueued
    rw [if_pos hq]
    simp only [o1, begun, hchanges]
    rfl
  · rw [hself]
    exact hrecord.1
  · rw [hself]
    exact hrecord.2

end Sys2Proof.Proofs
end

section
/-! The Reserve Unit's choices and tests in the terms of the rules (R102 to R105), and the expiry of its two timers (R108, R110,
R112). -/

namespace Sys2Proof.Proofs

open Sys2Proof.Machine Sys2Proof.Claims Sequenced

/-! ### Choices (R102) -/

theorem startChoice_iff (p : Part) (i : IslandNo) (k : SetNo) :
    let may (j : SetNo) : Prop :=
      p.seq[j].state = some .standby ∧ p.cfg.sets[j].mode ≠ .localRun ∧ islandOf p p.cfg.sets[j].sect = some i
    startChoice p i = some k ↔
      may k ∧ ∃ before rest, p.cfg.standby = before ++ k :: rest ∧ ∀ j ∈ before, ¬may j := by
  intro may
  have hmay : ∀ j, (setStateIs p j .standby && (setCfg p j).mode != .localRun && inIsland p i (setCfg p j).sect) = true
      ↔ may j := by
    intro j
    simp only [may, Bool.and_eq_true, setStateIs, beq_iff_eq, bne_iff_ne, inIsland_iff, and_assoc]
    rfl
  rw [startChoice, List.find?_eq_some_iff_append]
  simp only [hmay, Bool.not_eq_true', ← Bool.not_eq_true]

theorem stopChoice_iff (p : Part) (i : IslandNo) (k : SetNo) :
    let may (j : SetNo) : Prop :=
      p.seq[j].state = some .onBus ∧ p.cfg.sets[j].mode = .auto ∧ islandOf p p.cfg.sets[j].sect = some i
    stopChoice p i = some k ↔
      may k ∧ ∃ before rest, p.cfg.standby = before ++ k :: rest ∧ ∀ j ∈ rest, ¬may j := by
  intro may
  have hmay : ∀ j, (setStateIs p j .onBus && (setCfg p j).mode == .auto && inIsland p i (setCfg p j).sect) = true
      ↔ may j := by
    intro j
    simp only [may, Bool.and_eq_true, setStateIs, beq_iff_eq, inIsland_iff, and_assoc]
    rfl
  have hreverse : ∀ as bs : List SetNo, p.cfg.standby.reverse = as ++ k :: bs
      ↔ p.cfg.standby = bs.reverse ++ k :: as.reverse := by
    intro as bs
    rw [List.reverse_eq_iff]
    simp
  rw [stopChoice, List.find?_eq_some_iff_append]
  simp only [hmay, Bool.not_eq_true', ← Bool.not_eq_true, hreverse]
  refine and_congr_right fun _ => ⟨?_, ?_⟩
  · rintro ⟨as, bs, hlist, hnone⟩
    exact ⟨bs.reverse, as.reverse, hlist, fun j hj => hnone j (List.mem_reverse.1 hj)⟩
  · rintro ⟨before, rest, hlist, hnone⟩
    exact ⟨rest.reverse, before.reverse, by simpa using hlist, fun j hj => hnone j (List.mem_reverse.1 hj)⟩

/-- The start choice stands by in the island, and may be started. -/
theorem startChoice_may {p : Part} {i : IslandNo} {k : SetNo} (h : startChoice p i = some k) :
    p.seq[k].state = some .standby ∧ (setCfg p k).mode ≠ .localRun ∧ setIsland p k = some i :=
  ((startChoice_iff p i k).1 h).1

theorem stopChoice_may {p : Part} {i : IslandNo} {k : SetNo} (h : stopChoice p i = some k) :
    p.seq[k].state = some .onBus ∧ (setCfg p k).mode = .auto ∧ setIsland p k = some i :=
  ((stopChoice_iff p i k).1 h).1

/-! ### Tests (R103 to R105) -/

theorem islandLive_iff (p : Part) (i : IslandNo) : islandLive p i = true ↔
    ∃ k, setConfigured p k = true ∧ islandOf p p.cfg.sets[k].sect = some i ∧ p.setImage[k].closed = true := by
  simp only [islandLive, List.any_eq_true, mem_allSets, true_and, onIslandBus_eq, Bool.and_eq_true, decide_eq_true_eq,
    and_assoc]

theorem flightIn_iff (p : Part) (i : IslandNo) : flightIn p i = true ↔
    ∃ k : SetNo, p.inFlight[k] = true ∧ islandOf p p.cfg.sets[k].sect = some i := by
  simp only [flightIn, List.any_eq_true, mem_allSets, true_and, Bool.and_eq_true, inIsland_iff]
  rfl

theorem headWaits_iff (p : Part) (i : IslandNo) (spare : Int) : headWaits p i spare = true ↔
    ∃ head ∈ (island p i).reserve.queue.head?, spare - (head.kw : Int) < (p.cfg.plant.reserve : Int) := by
  unfold headWaits
  cases (island p i).reserve.queue <;> simp

theorem startNeed_iff (p : Part) (i : IslandNo) (spare : Int) : startNeed p i spare = true ↔
    (∀ k, ¬(setConfigured p k = true ∧ islandOf p p.cfg.sets[k].sect = some i ∧ p.setImage[k].closed = true))
      ∨ spare < (p.cfg.plant.reserve : Int)
      ∨ ∃ head ∈ (island p i).reserve.queue.head?, spare - (head.kw : Int) < (p.cfg.plant.reserve : Int) := by
  rw [startNeed, Bool.or_eq_true, Bool.or_eq_true, headWaits_iff, decide_eq_true_eq, Bool.not_eq_true',
    ← Bool.not_eq_true, islandLive_iff, not_exists, or_assoc]

theorem stopCondition_iff (p : Part) (i : IslandNo) (spare : Int) (rating : Nat) : stopCondition p i spare rating = true ↔
    (∃ k, setConfigured p k = true ∧ islandOf p p.cfg.sets[k].sect = some i ∧ p.setImage[k].closed = true)
      ∧ p.cfg.plant.autoStop = true
      ∧ (∀ k : SetNo, ¬(p.inFlight[k] = true ∧ islandOf p p.cfg.sets[k].sect = some i))
      ∧ (island p i).history = [] ∧ (island p i).reserve.queue = []
      ∧ (p.cfg.plant.reserve : Int) + p.cfg.plant.stopHysteresis ≤ spare - rating := by
  rw [stopCondition]
  simp only [Bool.and_eq_true, islandLive_iff, Bool.not_eq_true', ← Bool.not_eq_true (flightIn p i), flightIn_iff,
    not_exists, List.isEmpty_iff, decide_eq_true_eq, and_assoc]

/-! ### The tests see of a part what events and figures do not change -/

section Seen

variable {p q : Part}

theorem Noted.islandLive (h : Noted p q) (i : IslandNo) : Machine.islandLive q i = Machine.islandLive p i := by
  obtain ⟨⟨_, _, _, _, _, _, rfl⟩, -⟩ := h; rfl

theorem Noted.flightIn (h : Noted p q) (i : IslandNo) : Machine.flightIn q i = Machine.flightIn p i := by
  obtain ⟨⟨_, _, _, _, _, _, rfl⟩, -⟩ := h; rfl

theorem Noted.startChoice (h : Noted p q) (i : IslandNo) : Machine.startChoice q i = Machine.startChoice p i := by
  obtain ⟨⟨_, _, _, _, _, _, rfl⟩, -⟩ := h; rfl

theorem Noted.stopChoice (h : Noted p q) (i : IslandNo) : Machine.stopChoice q i = Machine.stopChoice p i := by
  obtain ⟨⟨_, _, _, _, _, _, rfl⟩, -⟩ := h; rfl

theorem Noted.figuresOf (h : Noted p q) (i : IslandNo) : Machine.figuresOf q i = Machine.figuresOf p i := by
  have hheavy : heavyReserved q i = heavyReserved p i := by rw [heavyReserved, heavyReserved, h.reserve]
  have hload : islandLoad q i = islandLoad p i ∧ pendingRelief q i = pendingRelief p i
      ∧ islandCapacity q i = islandCapacity p i := by
    obtain ⟨⟨_, _, _, _, _, _, rfl⟩, -⟩ := h
    exact ⟨rfl, rfl, rfl⟩
  simp only [Machine.figuresOf, hheavy, hload]

theorem Noted.startNeed (h : Noted p q) (i : IslandNo) (spare : Int) :
    Machine.startNeed q i spare = Machine.startNeed p i spare := by
  simp only [Machine.startNeed, headWaits, h.islandLive, h.cfg, h.reserve]

theorem Noted.stopCondition (h : Noted p q) (i : IslandNo) (spare : Int) (rating : Nat) :
    Machine.stopCondition q i spare rating = Machine.stopCondition p i spare rating := by
  simp only [Machine.stopCondition, h.islandLive, h.flightIn, h.cfg, h.reserve, h.history i]

end Seen

/-! ### A reserve timer that runs out -/

section Timer

variable {p : Part} {i : IslandNo} {r : Island} {st : ReserveState} {f : IslandNo → Int → Part → Sequenced}

theorem reserveTimerExpired_stopped (hr : p.islands[i] = some r) (ht : r.reserve.timer = none) :
    reserveTimerExpired st f i p = p := by
  have hnone : reserveTimer p i st = none := by
    rw [reserveTimer, hr, Option.bind_some, ht, ite_self]
  rw [reserveTimerExpired, hnone]

theorem reserveTimerExpired_runs {d : Nat} (hr : p.islands[i] = some r) (hst : r.reserve.state = st)
    (ht : r.reserve.timer = some d) :
    reserveTimerExpired st f i p = (f i (figuresOf (at' d p) i).spare (takeFigures i (at' d p))).handOn := by
  have hsome : reserveTimer p i st = some d := by
    rw [reserveTimer, hr, Option.bind_some, if_pos hst, ht]
  rw [reserveTimerExpired, hsome]
  rfl

end Timer

/-! ### START_CONFIRM (R108, R112) -/

/-- The change that a start makes (R45). -/
def startingChange (k : SetNo) : SetChange :=
  { set := k, old := some .standby, new := some .starting, toReserve := true }

theorem tryStart_eq {p q : Part} {i : IslandNo} {k : SetNo}
    (h : startRequest k p = ({ part := q, changes := [startingChange k] }, true)) :
    tryStart i k p = { part := reserveState i .startInFlight q, changes := [startingChange k] } := by
  unfold tryStart
  rw [h]
  rfl

theorem reserveState_reserve {p : Part} {i : IslandNo} (st : ReserveState) (h : p.islands[i].isSome = true) :
    (island (reserveState i st p) i).reserve
      = { (island p i).reserve with state := st, timer := none, stoppingSet := none } :=
  congrArg Island.reserve (island_onIsland_self h)

/-- A start that is asked for and answered as started: the set is STARTING, its island in START_IN_FLIGHT. -/
theorem tryStart_started {p q : Part} {i : IslandNo} {k : SetNo} (hq : q = (tryStart i k p).handOn)
    (hchoice : startChoice p i = some k) (hc : setConfigured p k = true) (hr : Room p)
    (hisland : p.islands[i].isSome = true) :
    q.seq[k].state = some .starting ∧ Raised p q (.set k .start) ∧ (∀ j : SetNo, j ≠ k → q.seq[j] = p.seq[j])
      ∧ (island q i).reserve.state = .startInFlight ∧ (island q i).reserve.timer = none := by
  obtain ⟨hs, hm, hi⟩ := startChoice_may hchoice
  obtain ⟨begun, hstart, hsteps, hraised, hstate, -⟩ := startRequest_started hc hm hs hr
  have htry := tryStart_eq (i := i) hstart
  have hreserve := reserveState_reserve .startInFlight (hsteps.islands ▸ hisland : begun.islands[i].isSome = true)
  obtain ⟨hnone, hheard⟩ := deliverChange_intoFlight (p := reserveState i .startInFlight begun) (c := startingChange k)
    (i := i) ((hsteps.setIsland k).trans hi) (by rw [hreserve]) rfl
  have hpart : q = (deliverChange (startingChange k) (reserveState i .startInFlight begun)).part := by
    rw [hq, htry]
    exact handOn_single rfl hnone
  rw [← hpart] at hheard
  refine ⟨?_, hheard.raised hraised, fun j hj => ?_, ?_, ?_⟩
  · rw [hheard.seq]
    exact hstate
  · rw [hheard.seq]
    exact hsteps.others j hj
  · rw [hheard.reserve, hreserve]
  · rw [hheard.reserve, hreserve]

/-- A start that is not made is confirmed again, with RESERVE_LOW once in the episode (R108). -/
theorem raiseLow_confirmStart {p q : Part} {i : IslandNo} (hq : q = raiseLow i (confirmStart i p))
    (hisland : p.islands[i].isSome = true) :
    q.seq = p.seq
      ∧ ((island p i).reserve.low = false → Flagged q .reserveLow)
      ∧ (island q i).reserve.state = .startConfirm ∧ (island q i).reserve.low = true
      ∧ (island q i).reserve.timer = some (p.clock + p.cfg.plant.startConfirm * 1000) := by
  have hconfirmed : (island (confirmStart i p) i).reserve = { (island p i).reserve with
      state := .startConfirm, timer := some (p.clock + p.cfg.plant.startConfirm * 1000), stoppingSet := none } :=
    congrArg Island.reserve (island_onIsland_self hisland)
  have hsome : (confirmStart i p).islands[i].isSome = true := (onIsland_isSome ..).trans hisland
  unfold raiseLow at hq
  extract_lets raised at hq
  subst hq
  have hnoted : Noted (confirmStart i p) raised := by
    unfold raised
    split
    · exact .refl _
    · exact (Noted.refl _).occur _ _
  have hreserve : (island (onReserve i (fun r => { r with low := true }) raised) i).reserve
      = { (island p i).reserve with state := .startConfirm, timer := some (p.clock + p.cfg.plant.startConfirm * 1000),
                                    stoppingSet := none, low := true } := by
    have hself := island_onIsland_self (f := fun r => { r with reserve := { r.reserve with low := true } })
      ((hnoted.isSome i).trans hsome)
    refine (congrArg Island.reserve hself).trans ?_
    simp only [hnoted.reserve, hconfirmed]
  refine ⟨hnoted.seq, fun hlow => ?_, ?_, ?_, ?_⟩
  · have hnot : (island (confirmStart i p) i).reserve.low = false := by rw [hconfirmed]; exact hlow
    have hraised : raised = occur .reserveLow (.island i) (confirmStart i p) := if_neg (by rw [hnot]; exact Bool.false_ne_true)
    change Flagged raised .reserveLow
    rw [hraised]
    exact occur_flagged _ _ _
  · rw [hreserve]
  · rw [hreserve]
  · rw [hreserve]

theorem onIsland_onIsland (i : IslandNo) (f g : Island → Island) (p : Part) :
    onIsland i f (onIsland i g p) = onIsland i (fun r => f (g r)) p := by
  have hislands : modifyAt (modifyAt p.islands i (Option.map g)) i (Option.map f)
      = modifyAt p.islands i (Option.map fun r => f (g r)) := by
    simp only [modifyAt, Fin.getElem_fin, Vector.getElem_set_self, Vector.set_set, Option.map_map]
    rfl
  exact congrArg (fun v => { p with islands := v }) hislands

theorem onReserve_onReserve (i : IslandNo) (f g : ReserveRecord → ReserveRecord) (p : Part) :
    onReserve i f (onReserve i g p) = onReserve i (fun r => f (g r)) p := onIsland_onIsland i _ _ p

section StartConfirm

variable {p : Part} {i : IslandNo} {spare : Int}

theorem startConfirmExpired_flight (h : flightIn p i = true) :
    startConfirmExpired i spare p = sequenced (reserveState i .startInFlight p) := if_pos h

theorem startConfirmExpired_quiet (h : flightIn p i = false) (hneed : startNeed p i spare = false) :
    startConfirmExpired i spare p = sequenced (onReserve i (fun x =>
      { x with state := .quiet, timer := none, stoppingSet := none, low := false }) p) := by
  have hif : startConfirmExpired i spare p = sequenced (reserveState i .quiet (clearLow i p)) :=
    (if_neg (by simp [h])).trans (if_pos (by simp [hneed]))
  rw [hif]
  exact congrArg sequenced (onReserve_onReserve i _ _ p)

theorem startConfirmExpired_starts {k : SetNo} (h : flightIn p i = false) (hneed : startNeed p i spare = true)
    (hk : startChoice p i = some k) (hmay : p.cfg.plant.autoStart = true ∨ islandLive p i = false) :
    startConfirmExpired i spare p = tryStart i k p := by
  refine (if_neg (by simp [h])).trans ((if_neg (by simp [hneed])).trans ?_)
  rw [hk]
  exact if_pos (by rcases hmay with hmay | hmay <;> simp [hmay])

theorem startConfirmExpired_waits (h : flightIn p i = false) (hneed : startNeed p i spare = true)
    (hnot : startChoice p i = none ∨ (p.cfg.plant.autoStart = false ∧ islandLive p i = true)) :
    startConfirmExpired i spare p = sequenced (raiseLow i (confirmStart i p)) := by
  refine (if_neg (by simp [h])).trans ((if_neg (by simp [hneed])).trans ?_)
  cases hk : startChoice p i with
  | none => rfl
  | some k =>
    obtain ⟨hauto, hlive⟩ := hnot.resolve_left (by simp [hk])
    exact if_neg (by simp [hauto, hlive])

end StartConfirm

/-- What the hand-on of an expiry leaves beside, with the history and the entries. -/
theorem beside_expired {p : Part} {o : Sequenced} (hb : Beside p o.part) (he : o.part.entry = p.entry)
    (hh : held Island.kept o.part = held Island.kept p) :
    SameAside p o.handOn ∧ SameHistory p o.handOn ∧ o.handOn.entry = p.entry := by
  have hbeside : Beside p o.handOn := units_handOn (units_beside p) o hb
  have hentry : o.handOn.entry = p.entry := tests_handOn (grants_entry p.entry).toTests o he
  have hheld : held Island.kept o.handOn = held Island.kept p := tests_handOn (tests_held _) o hh
  exact ⟨hbeside.sameAside, field_of_held (held_of_held (fun x => x.2.2.2.2) hheld), hentry⟩

/-- Settles O31: the choice and the need as equivalences, and the expiry by the branches of the unit's test. -/
theorem startConfirmEnds : Obligations.StartConfirmEnds := by
  unfold Obligations.StartConfirmEnds
  refine ⟨fun p i k => startChoice_iff p i k, startNeed_iff, flightIn_iff, fun p w i r d ha hr hst =>
    ⟨fun ht => running_of_eq ha (reserveTimerExpired_stopped hr ht), fun ht => ?_⟩⟩
  intro now f need
  have hrun : reserveTimerExpired .startConfirm startConfirmExpired i p = (startConfirmExpired i f.spare now).handOn :=
    reserveTimerExpired_runs hr hst ht
  have hnow : Noted (at' d p) now := (Noted.refl _).takeFigures i
  have hisland : now.islands[i].isSome = true := (hnow.isSome i).trans (by rw [show (at' d p).islands[i] = _ from hr]; rfl)
  have hflight : flightIn now i = flightIn p i := hnow.flightIn i
  have hneed : startNeed now i f.spare = need := hnow.startNeed i f.spare
  refine ⟨fun hf => ?_, fun hf hn => ?_, fun hf hn => ?_⟩
  · rw [startConfirmExpired_flight (hflight.trans hf)] at hrun
    exact running_of_eq ha hrun
  · rw [startConfirmExpired_quiet (hflight.trans hf) (hneed.trans hn)] at hrun
    exact running_of_eq ha hrun
  · have hbeside := beside_expired (p := at' d p) (o := startConfirmExpired i f.spare now)
      (handing_startConfirmExpired (units_beside _).toHanding i _ (calm_takeFigures (units_beside _).toCalm i (.refl _)))
      (tests_startConfirmExpired (grants_entry _).toTests i _ hnow.entry)
      (tests_startConfirmExpired (tests_held _) i _ (steady_takeFigures (tests_held _).toSteady i rfl))
    obtain ⟨haside, hhistory, hentry⟩ := hbeside
    refine ⟨_, running_of_eq ha hrun, haside, hhistory, hentry, fun k hk hmay hconf hroom => ?_, fun hnot => ?_⟩
    · have hchoice : startChoice now i = some k := (hnow.startChoice i).trans hk
      have hstarts := startConfirmExpired_starts (hflight.trans hf) (hneed.trans hn) hchoice
        (hmay.imp_right (hnow.islandLive i).trans)
      obtain ⟨hstate, hraised, hothers, hreserve⟩ := tryStart_started (congrArg Sequenced.handOn hstarts) hchoice hconf
        hroom hisland
      exact ⟨hstate, raised_since hraised (Nat.le_refl _), fun j hj _ => hothers j hj, hreserve⟩
    · have hwaits := startConfirmExpired_waits (hflight.trans hf) (hneed.trans hn)
        (hnot.imp (hnow.startChoice i).trans (And.imp_right (hnow.islandLive i).trans))
      obtain ⟨hseq, hlow, hreserve⟩ := raiseLow_confirmStart (congrArg Sequenced.handOn hwaits) hisland
      have hrec : (island now i).reserve = r.reserve := (hnow.reserve i).trans (congrArg _ (island_some hr))
      rw [hrec] at hlow
      exact ⟨hseq, hlow, hreserve⟩

/-! ### STOP_CONFIRM (R110) -/

/-- A set that leaves the bus takes no more than its rated kW off the capacity (R68). -/
theorem spare_of_rampOut {p q : Part} {i : IslandNo} {k : SetNo} (hcfg : q.cfg = p.cfg) (himage : q.setImage = p.setImage)
    (hmap : q.islandMap = p.islandMap) (hentry : q.entry = p.entry) (hgrants : (island q i).reserve.grants
      = (island p i).reserve.grants) (hothers : ∀ j : SetNo, j ≠ k → q.seq[j] = p.seq[j]) :
    (figuresOf p i).spare - (p.cfg.sets[k].rated : Int) ≤ (figuresOf q i).spare := by
  have hbus : ∀ j, onIslandBus q i j = onIslandBus p i j := fun j => by
    simp only [onIslandBus, setConfigured, setCfg, inIsland, islandOf, hcfg, himage, hmap]
  have hload : islandLoad q i = islandLoad p i := by
    simp only [islandLoad, funext hbus, himage]
  have hrelief : pendingRelief q i = pendingRelief p i := by
    simp only [pendingRelief, entryInIsland, inIsland, islandOf, hcfg, hentry, hmap]
  have hheavy : heavyReserved q i = heavyReserved p i := by rw [heavyReserved, heavyReserved, hgrants]
  have hcapacity : (islandCapacity p i : Int) ≤ islandCapacity q i + p.cfg.sets[k].rated := by
    rw [islandCapacity, islandCapacity, countedSets, countedSets, sum_sets, sum_sets]
    have hk : (p.cfg.sets[k].rated : Int) = ∑ j : SetNo, if j = k then (p.cfg.sets[k].rated : Int) else 0 := by simp
    rw [hk, ← Finset.sum_add_distrib]
    refine Finset.sum_le_sum fun j _ => ?_
    by_cases hj : j = k
    · subst hj
      rw [if_pos rfl]
      have hnonneg : (0 : Int) ≤ if countsInCapacity q i j = true then ((setCfg q j).rated : Int) else 0 := by
        split <;> omega
      have hrated : (if countsInCapacity p i j = true then ((setCfg p j).rated : Int) else 0) ≤ p.cfg.sets[j].rated := by
        split
        · exact le_rfl
        · exact Int.natCast_nonneg _
      omega
    · have hsame : countsInCapacity q i j = countsInCapacity p i j := by
        simp only [countsInCapacity, hbus, hothers j hj]
      rw [if_neg hj, add_zero, hsame, setCfg, setCfg, hcfg]
  change ((islandCapacity p i : Int) - ((islandLoad p i : Int) - pendingRelief p i) - heavyReserved p i) - _
    ≤ (islandCapacity q i : Int) - ((islandLoad q i : Int) - pendingRelief q i) - heavyReserved q i
  rw [hload, hrelief, hheavy]
  omega

theorem reserveJudge_stops {p : Part} {i : IslandNo} {spare : Int} {k : SetNo}
    (hst : (island p i).reserve.state = .stopping) (hk : (island p i).reserve.stoppingSet = some k)
    (hcond : stopCondition p i spare 0 = true) : reserveJudge i spare p = sequenced p := by
  unfold reserveJudge
  rw [hst]
  dsimp only
  rw [hk]
  exact if_pos hcond

/-- An automatic stop that is taken: the set is in RAMP_OUT, its island in STOPPING with it. -/
def stoppingPart (i : IslandNo) (k : SetNo) (p : Part) : Part :=
  onReserve i (fun r => { r with state := .stopping, stoppingSet := some k })
    (((sequenced (reserveState i .quiet p)).on (setOrigin k (some .automatic))).enter k .rampOut).part

def stoppingChange (k : SetNo) : SetChange := { set := k, old := some .onBus, new := some .rampOut, toReserve := true }

theorem stopDelayExpired_stops {p : Part} {i : IslandNo} {k : SetNo} {spare : Int} (hk : stopChoice p i = some k)
    (hcond : stopCondition p i spare (setCfg p k).rated = true) :
    stopDelayExpired i spare p = { part := stoppingPart i k p, changes := [stoppingChange k] } := by
  obtain ⟨hs, hm, -⟩ := stopChoice_may hk
  have hmay : ((setCfg (reserveState i .quiet p) k).mode == .auto && setStateIs (reserveState i .quiet p) k .onBus)
      = true := by
    rw [Bool.and_eq_true, setStateIs, beq_iff_eq, beq_iff_eq]
    exact ⟨hm, hs⟩
  have hold : (setOrigin k (some .automatic) (reserveState i .quiet p)).seq[k].state = some .onBus :=
    (congrArg SeqRecord.state (onSeq_self k _ _)).trans hs
  unfold stopDelayExpired
  extract_lets quiet
  rw [hk]
  refine (if_pos hcond).trans ?_
  extract_lets s
  have hstop : s = (((sequenced quiet).on (setOrigin k (some .automatic))).enter k .rampOut, true) := if_pos hmay
  rw [hstop]
  refine (if_pos rfl).trans ?_
  exact congrArg (fun st => ({ part := stoppingPart i k p, changes := [SetChange.mk k st (some .rampOut) true] } : Sequenced))
    hold

theorem stopDelayExpired_quiet {p : Part} {i : IslandNo} {spare : Int}
    (h : ∀ k, stopChoice p i = some k → stopCondition p i spare (setCfg p k).rated = false) :
    stopDelayExpired i spare p = sequenced (reserveState i .quiet p) := by
  unfold stopDelayExpired
  extract_lets quiet
  cases hk : stopChoice p i with
  | none => rfl
  | some k => exact if_neg (by rw [h k hk]; exact Bool.false_ne_true)

section Stopping

variable {p : Part} {i : IslandNo} {k : SetNo}

theorem stoppingPart_self (i : IslandNo) (k : SetNo) (p : Part) :
    (stoppingPart i k p).seq[k].state = some .rampOut ∧ (stoppingPart i k p).seq[k].origin = some .automatic := by
  have hself : (stoppingPart i k p).seq[k] = { (setOrigin k (some .automatic) p).seq[k] with
      state := some .rampOut, stayFrom := p.nextOrder } := modifyAt_self _ _ _
  rw [hself]
  exact ⟨rfl, congrArg SeqRecord.origin (onSeq_self k _ p)⟩

theorem stoppingPart_other {j : SetNo} (hj : j ≠ k) : (stoppingPart i k p).seq[j] = p.seq[j] :=
  (onSeq_other k j _ _ hj.symm).trans (onSeq_other k j _ _ hj.symm)

theorem stoppingPart_reserve (h : p.islands[i].isSome = true) : (island (stoppingPart i k p) i).reserve
    = { (island p i).reserve with state := .stopping, timer := none, stoppingSet := some k } := by
  have hsome : (reserveState i .quiet p).islands[i].isSome = true := (onIsland_isSome ..).trans h
  refine (congrArg Island.reserve (island_onIsland_self (p := (((sequenced (reserveState i .quiet p)).on
    (setOrigin k (some .automatic))).enter k .rampOut).part) hsome)).trans ?_
  exact congrArg (fun x : ReserveRecord => { x with state := .stopping, stoppingSet := some k }) (reserveState_reserve .quiet h)

theorem kept_onReserve {p : Part} {i : IslandNo} {f : ReserveRecord → ReserveRecord}
    (hf : ∀ r, (f r).queue = r.queue ∧ (f r).grants = r.grants) :
    held Island.kept (onReserve i f p) = held Island.kept p :=
  held_onIsland fun r => by simp only [Island.kept, hf]

theorem stoppingPart_kept : held Island.kept (stoppingPart i k p) = held Island.kept p := by
  have hquiet : held Island.kept (reserveState i .quiet p) = held Island.kept p := kept_onReserve fun _ => ⟨rfl, rfl⟩
  unfold stoppingPart
  refine (kept_onReserve ?_).trans hquiet
  exact fun _ => ⟨rfl, rfl⟩

theorem stoppingPart_cfg : (stoppingPart i k p).cfg = p.cfg := rfl
theorem stoppingPart_setImage : (stoppingPart i k p).setImage = p.setImage := rfl
theorem stoppingPart_islandMap : (stoppingPart i k p).islandMap = p.islandMap := rfl
theorem stoppingPart_entry : (stoppingPart i k p).entry = p.entry := rfl
theorem stoppingPart_inFlight : (stoppingPart i k p).inFlight = p.inFlight := rfl

theorem stoppingPart_setIsland (j : SetNo) : setIsland (stoppingPart i k p) j = setIsland p j := by
  rw [setIsland, setIsland, setCfg, setCfg, islandOf, islandOf, stoppingPart_cfg, stoppingPart_islandMap]

/-- What matters of a part in which the stop has been taken. -/
structure StopTaken (p s : Part) (i : IslandNo) (k : SetNo) : Prop where
  same : (s.cfg, s.setImage, s.islandMap, s.entry, s.inFlight) = (p.cfg, p.setImage, p.islandMap, p.entry, p.inFlight)
  others : ∀ j : SetNo, j ≠ k → s.seq[j] = p.seq[j]
  reserve : (island s i).reserve = { (island p i).reserve with state := .stopping, timer := none, stoppingSet := some k }
  history : (island s i).history = (island p i).history

theorem stoppingPart_taken (h : p.islands[i].isSome = true) : StopTaken p (stoppingPart i k p) i k where
  same := by
    rw [stoppingPart_cfg, stoppingPart_setImage, stoppingPart_islandMap, stoppingPart_entry, stoppingPart_inFlight]
  others _ hj := stoppingPart_other hj
  reserve := stoppingPart_reserve h
  history := by
    have hkept := stoppingPart_kept (i := i) (k := k) (p := p)
    generalize stoppingPart i k p = s at hkept ⊢
    exact field_of_held (held_of_held (fun x => x.2.2.2.2) hkept) i

/-- As the change into RAMP_OUT reaches the Reserve Unit, the stop condition still holds (R110, R111). -/
theorem stopCondition_followed {s : Part} {c : SetChange} (hs : StopTaken p s i k) (hc : c.set = k)
    (hnew : flightState c.new = false)
    (hcond : stopCondition p i (figuresOf p i).spare (setCfg p k).rated = true) :
    stopCondition (followed c i s) i
      (figuresOf { s with inFlight := modifyAt s.inFlight c.set fun _ => flightState c.new } i).spare 0 = true := by
  obtain ⟨hsame, hothers, hreserve, hhistory⟩ := hs
  simp only [Prod.mk.injEq] at hsame
  obtain ⟨hcfg, himage, hmap, hentry, hflightEq⟩ := hsame
  have hgrants : (island s i).reserve.grants = (island p i).reserve.grants := by rw [hreserve]
  have hspare := spare_of_rampOut (p := p) (i := i) (k := k)
    (q := { s with inFlight := modifyAt s.inFlight c.set fun _ => flightState c.new }) hcfg himage hmap hentry
    hgrants hothers
  generalize (figuresOf { s with inFlight := modifyAt s.inFlight c.set fun _ => flightState c.new } i).spare = spare
    at hspare ⊢
  have hheard := followed_heard c i s
  have hconf : ∀ j, setConfigured (followed c i s) j = setConfigured p j := fun j =>
    congrArg (fun x : Configuration => stationAssigned (x.sets[j]).station) hcfg
  have hof : ∀ t, islandOf (followed c i s) t = islandOf p t := fun t =>
    congrArg (Option.map fun m : Vector IslandNo 4 => m[t]) hmap
  have himage' : (followed c i s).setImage = p.setImage := himage
  rw [stopCondition_iff] at hcond ⊢
  obtain ⟨hlive, hauto, hflight, hempty, hqueue, hmargin⟩ := hcond
  simp only [hconf, hof, hheard.cfg, hcfg, himage', hheard.reserve, hreserve, hheard.history i, hhistory]
  refine ⟨hlive, hauto, fun j hj => ?_, hempty, hqueue, ?_⟩
  · have hfl : (followed c i s).inFlight[j] = if c.set = j then flightState c.new else s.inFlight[j] :=
      modifyAt_get s.inFlight c.set j _
    rw [hfl, hc, hnew, hflightEq] at hj
    split at hj
    · exact nomatch hj.1
    · exact hflight j hj
  · exact hmargin.trans (hspare.trans (by rw [Nat.cast_zero, sub_zero]))

/-- The change into RAMP_OUT is heard by the island in STOPPING with the set (R111). -/
theorem deliverChange_stopping {s : Part} (hk : setIsland s k = some i) (hs : StopTaken p s i k)
    (hcond : stopCondition p i (figuresOf p i).spare (setCfg p k).rated = true) :
    (deliverChange (stoppingChange k) s).changes = [] ∧ Heard s (deliverChange (stoppingChange k) s).part := by
  refine deliverChange_heard fun sh g _ => ?_
  have hs' : StopTaken p { s with share := sh, gov := g } i k := ⟨hs.same, hs.others, hs.reserve, hs.history⟩
  have hheard := followed_heard (stoppingChange k) i { s with share := sh, gov := g }
  have hstop := stopCondition_followed (c := stoppingChange k) hs' rfl rfl hcond
  have hreserve := (hheard.reserve i).trans hs'.reserve
  have hchange := reserveChange_stopping (c := stoppingChange k) (i := i) (p := { s with share := sh, gov := g }) hk
    (congrArg ReserveRecord.state hs'.reserve)
  have hstays : ¬((island { s with share := sh, gov := g } i).reserve.stoppingSet == some (stoppingChange k).set
      && (stoppingChange k).new != some .rampOut) = true := by
    simp [stoppingChange]
  rw [hchange, if_neg hstays, reserveJudge_stops (congrArg ReserveRecord.state hreserve)
    (congrArg ReserveRecord.stoppingSet hreserve) hstop]
  obtain ⟨sh', g', f', hnoted⟩ := hheard
  exact ⟨rfl, sh', g', f', hnoted⟩

end Stopping

/-- Settles O32: the choice and the condition as equivalences; the change into RAMP_OUT leaves the stop condition standing, so
that no other change follows it. -/
theorem stopDelayEnds : Obligations.StopDelayEnds := by
  unfold Obligations.StopDelayEnds
  refine ⟨fun p i k => stopChoice_iff p i k, stopCondition_iff, fun p w i r d ha hr hst =>
    ⟨fun ht => running_of_eq ha (reserveTimerExpired_stopped hr ht), fun ht => ?_⟩⟩
  intro f
  obtain ⟨now, hnowDef⟩ : ∃ now, now = takeFigures i (at' d p) := ⟨_, rfl⟩
  have hrun : reserveTimerExpired .stopConfirm stopDelayExpired i p = (stopDelayExpired i f.spare now).handOn :=
    hnowDef ▸ reserveTimerExpired_runs hr hst ht
  have hnow : Noted (at' d p) now := hnowDef ▸ (Noted.refl _).takeFigures i
  have hisland : now.islands[i].isSome = true := (hnow.isSome i).trans (by rw [show (at' d p).islands[i] = _ from hr]; rfl)
  refine ⟨fun k hk hcond => ?_, fun hnone => ?_⟩
  · have hchoice : stopChoice now i = some k := (hnow.stopChoice i).trans hk
    have hcond' : stopCondition now i f.spare (setCfg now k).rated = true := by
      rw [hnow.stopCondition, setCfg, hnow.cfg]
      exact hcond
    have hspare : f = figuresOf now i := (hnow.figuresOf i).symm
    have hstops := stopDelayExpired_stops hchoice hcond'
    obtain ⟨hnone, hheard⟩ := deliverChange_stopping
      ((stoppingPart_setIsland k).trans (stopChoice_may hchoice).2.2) (stoppingPart_taken hisland) (hspare ▸ hcond')
    have hpart : (stopDelayExpired i f.spare now).handOn
        = (deliverChange (stoppingChange k) (stoppingPart i k now)).part := by
      rw [hstops]
      exact handOn_single rfl hnone
    have hbeside := beside_expired (p := at' d p) (o := stopDelayExpired i f.spare now)
      (units_stopDelayExpired (units_beside _) i _ (hnowDef ▸ calm_takeFigures (units_beside _).toCalm i (.refl _)))
      (by rw [hstops]; exact hnow.entry)
      (by
        rw [hstops]
        refine stoppingPart_kept.trans ?_
        rw [hnowDef]
        exact held_onIsland (p := at' d p) fun _ => rfl)
    obtain ⟨haside, hhistory, hentry⟩ := hbeside
    refine ⟨_, running_of_eq ha hrun, ?_⟩
    rw [hpart] at haside hhistory hentry ⊢
    have hreserve := stoppingPart_reserve (k := k) hisland
    obtain ⟨hstate, horigin⟩ := stoppingPart_self i k now
    refine ⟨?_, ?_, ?_, ?_, fun j hj => ?_, haside, hhistory, hentry⟩
    · rw [hheard.seq]; exact hstate
    · rw [hheard.seq]; exact horigin
    · rw [hheard.reserve, hreserve]
    · rw [hheard.reserve, hreserve]
    · rw [hheard.seq, stoppingPart_other hj, hnow.seq]
      rfl
  · have hquiet := stopDelayExpired_quiet (p := now) (i := i) (spare := f.spare) fun k hk => by
      rw [hnow.stopCondition, setCfg, hnow.cfg]
      exact hnone k ((hnow.stopChoice i).symm.trans hk)
    rw [hquiet] at hrun
    exact running_of_eq ha (hnowDef ▸ hrun)

end Sys2Proof.Proofs
end

section
/-! What the Shed Unit changes as an order's outcome reaches it (R144, R161): entries, contexts and histories, with the events and
rebuilds that follow. The reserve records and the share periods are as they were. -/

namespace Sys2Proof.Proofs

open Sys2Proof.Machine Sys2Proof.Claims

/-- An island record but for what the Shed Unit and a rebuild change. -/
def besideShed (r : Island) := (r.pFixed, r.remainder, r.residual, r.periodAt, r.nextPeriod, r.reserve)

/-- The part after operations of the Shed Unit on entries, contexts and histories. -/
structure Moved (p q : Part) : Prop where
  fields : ∃ en sel f r t n v, q = { p with
    entry := en, selection := sel, rawFlags := f, reports := r, supTx := t, allowance := n, islands := v }
  kept : held besideShed q = held besideShed p
  flag : ∀ k, Flagged p k → Flagged q k

namespace Moved

variable {p q : Part}

theorem refl (p : Part) : Moved p p :=
  ⟨⟨p.entry, p.selection, p.rawFlags, p.reports, p.supTx, p.allowance, p.islands, rfl⟩, rfl, fun _ h => h⟩

theorem trans {r : Part} (h : Moved p q) (h' : Moved q r) : Moved p r := by
  obtain ⟨⟨en, sel, f, rs, t, n, v, rfl⟩, hheld, hflag⟩ := h
  obtain ⟨⟨en', sel', f', rs', t', n', v', rfl⟩, hheld', hflag'⟩ := h'
  exact ⟨⟨en', sel', f', rs', t', n', v', rfl⟩, hheld'.trans hheld, fun k hk => hflag' k (hflag k hk)⟩

theorem noted {r : Part} (h : Moved p q) (hn : Noted q r) : Moved p r := by
  refine h.trans ?_
  obtain ⟨⟨sel, f, rs, t, n, v, rfl⟩, hheld, hflag⟩ := hn
  refine ⟨⟨q.entry, sel, f, rs, t, n, v, rfl⟩, ?_, hflag⟩
  have hread := held_of_held (fun x => (x.1, x.2.1, x.2.2.1, x.2.2.2.1, x.2.2.2.2.1, x.2.2.2.2.2.1)) hheld
  exact hread

theorem occur (h : Moved p q) (k : EventKind) (o : EventObject) : Moved p (Machine.occur k o q) :=
  h.noted ((Noted.refl q).occur k o)

theorem rebuild (h : Moved p q) (i : IslandNo) : Moved p (Machine.rebuild i q) := h.noted ((Noted.refl q).rebuild i)

theorem rebuildFor (h : Moved p q) (c : ConsumerNo) : Moved p (Machine.rebuildFor c q) :=
  h.noted ((Noted.refl q).rebuildFor c)

theorem onEntry (h : Moved p q) (c : ConsumerNo) (f : EntryRecord → EntryRecord) : Moved p (Machine.onEntry c f q) :=
  h.trans ⟨⟨_, q.selection, q.rawFlags, q.reports, q.supTx, q.allowance, q.islands, rfl⟩, rfl, fun _ h => h⟩

theorem enterEntry (h : Moved p q) (c : ConsumerNo) (st : EntryState) : Moved p (Machine.enterEntry c st q) := h.onEntry c _

theorem onIsland (h : Moved p q) (i : IslandNo) {f : Island → Island} (hf : ∀ r, besideShed (f r) = besideShed r) :
    Moved p (Machine.onIsland i f q) :=
  h.trans ⟨⟨q.entry, q.selection, q.rawFlags, q.reports, q.supTx, q.allowance, _, rfl⟩, held_onIsland hf, fun _ h => h⟩

theorem onShed (h : Moved p q) (i : IslandNo) (f : ShedContext → ShedContext) : Moved p (Machine.onShed i f q) :=
  h.onIsland i fun _ => rfl

theorem onRestore (h : Moved p q) (i : IslandNo) (f : RestoreContext → RestoreContext) : Moved p (Machine.onRestore i f q) :=
  h.onIsland i fun _ => rfl

theorem retrigger (h : Moved p q) (i : IslandNo) : Moved p (Machine.retrigger i q) := by
  unfold Machine.retrigger
  split
  · exact h.onIsland i fun _ => rfl
  · exact h

theorem endStepFor (h : Moved p q) (c : ConsumerNo) : Moved p (Machine.endStepFor c q) :=
  fold_keeps (I := Moved p) _ _ (fun _ i hq => hq.onIsland i fun r => by split <;> rfl) h

theorem endShedFor (h : Moved p q) (c : ConsumerNo) : Moved p (Machine.endShedFor c q) :=
  fold_keeps (I := Moved p) _ _ (fun _ i hq => hq.onShed i _) h

theorem removeRecord (h : Moved p q) (c : ConsumerNo) : Moved p (Machine.removeRecord c q) :=
  fold_keeps (I := Moved p) _ _ (fun _ i hq => hq.onIsland i fun _ => rfl) h

theorem changeRecord (h : Moved p q) (c : ConsumerNo) (f : HistoryRecord → HistoryRecord) :
    Moved p (Machine.changeRecord c f q) :=
  fold_keeps (I := Moved p) _ _ (fun _ i hq => hq.onIsland i fun _ => rfl) h

theorem entryShed (h : Moved p q) (c : ConsumerNo) : Moved p (Machine.entryShed c q) := by
  unfold Machine.entryShed
  extract_lets r shed
  have hs : Moved p shed := h.enterEntry c _
  split
  · exact hs.onIsland _ fun _ => rfl
  · exact hs

theorem entryShedFailed (h : Moved p q) (c : ConsumerNo) : Moved p (Machine.entryShedFailed c q) := by
  unfold Machine.entryShedFailed
  extract_lets failed
  have hf : Moved p failed := h.occur _ _
  split
  · exact (hf.enterEntry c _).onEntry c _
  · exact hf.enterEntry c _

theorem shedOutcome (h : Moved p q) (c : ConsumerNo) (out : OrderOutcome) : Moved p (Machine.shedOutcome c out q) := by
  unfold Machine.shedOutcome
  split
  · split
    · exact ((h.entryShed c).endShedFor c).rebuildFor c
    · exact ((h.entryShedFailed c).endShedFor c).rebuildFor c
    · exact ((h.entryShedFailed c).endShedFor c).rebuildFor c
    all_goals exact h.endShedFor c
  · exact h.endShedFor c

theorem entryRestored (h : Moved p q) (c : ConsumerNo) (out : OrderOutcome) : Moved p (Machine.entryRestored c out q) := by
  unfold Machine.entryRestored
  split
  · exact ((h.removeRecord c).enterEntry c _).occur _ _
  · exact ((h.occur _ _).onEntry c _).enterEntry c _
  · exact ((h.occur _ _).onEntry c _).enterEntry c _
  all_goals exact h.enterEntry c _

theorem restoreOutcome (h : Moved p q) (c : ConsumerNo) (out : OrderOutcome) : Moved p (Machine.restoreOutcome c out q) := by
  unfold Machine.restoreOutcome
  split
  · exact ((h.entryRestored c out).endStepFor c).rebuildFor c
  · exact h.endStepFor c

/-! What stays. -/

theorem seq (h : Moved p q) : q.seq = p.seq := by obtain ⟨_, _, _, _, _, _, _, rfl⟩ := h.fields; rfl
theorem share (h : Moved p q) : q.share = p.share := by obtain ⟨_, _, _, _, _, _, _, rfl⟩ := h.fields; rfl
theorem gov (h : Moved p q) : q.gov = p.gov := by obtain ⟨_, _, _, _, _, _, _, rfl⟩ := h.fields; rfl
theorem inFlight (h : Moved p q) : q.inFlight = p.inFlight := by obtain ⟨_, _, _, _, _, _, _, rfl⟩ := h.fields; rfl
theorem urgent (h : Moved p q) : q.urgent = p.urgent := by obtain ⟨_, _, _, _, _, _, _, rfl⟩ := h.fields; rfl
theorem normal (h : Moved p q) : q.normal = p.normal := by obtain ⟨_, _, _, _, _, _, _, rfl⟩ := h.fields; rfl
theorem fieldTx (h : Moved p q) : q.fieldTx = p.fieldTx := by obtain ⟨_, _, _, _, _, _, _, rfl⟩ := h.fields; rfl
theorem feedback (h : Moved p q) : q.feedback = p.feedback := by obtain ⟨_, _, _, _, _, _, _, rfl⟩ := h.fields; rfl
theorem nextOrder (h : Moved p q) : q.nextOrder = p.nextOrder := by obtain ⟨_, _, _, _, _, _, _, rfl⟩ := h.fields; rfl
theorem cfg (h : Moved p q) : q.cfg = p.cfg := by obtain ⟨_, _, _, _, _, _, _, rfl⟩ := h.fields; rfl
theorem clock (h : Moved p q) : q.clock = p.clock := by obtain ⟨_, _, _, _, _, _, _, rfl⟩ := h.fields; rfl
theorem islandMap (h : Moved p q) : q.islandMap = p.islandMap := by
  obtain ⟨_, _, _, _, _, _, _, rfl⟩ := h.fields; rfl
theorem setImage (h : Moved p q) : q.setImage = p.setImage := by
  obtain ⟨_, _, _, _, _, _, _, rfl⟩ := h.fields; rfl
theorem consumerImage (h : Moved p q) : q.consumerImage = p.consumerImage := by
  obtain ⟨_, _, _, _, _, _, _, rfl⟩ := h.fields; rfl

theorem isSome (h : Moved p q) (j : IslandNo) : q.islands[j].isSome = p.islands[j].isSome := isSome_of_held h.kept j

theorem reserve (h : Moved p q) (j : IslandNo) : (island q j).reserve = (island p j).reserve :=
  congrArg (fun x => x.2.2.2.2.2) (field_of_held h.kept j)
theorem nextPeriod (h : Moved p q) (j : IslandNo) : (island q j).nextPeriod = (island p j).nextPeriod :=
  congrArg (fun x => x.2.2.2.2.1) (field_of_held h.kept j)

theorem islandLive (h : Moved p q) (j : IslandNo) : Machine.islandLive q j = Machine.islandLive p j := by
  obtain ⟨_, _, _, _, _, _, _, rfl⟩ := h.fields; rfl
theorem islandOf (h : Moved p q) (s : SectionNo) : Machine.islandOf q s = Machine.islandOf p s := by
  obtain ⟨_, _, _, _, _, _, _, rfl⟩ := h.fields; rfl
theorem entryCfg (h : Moved p q) (c : ConsumerNo) : Machine.entryCfg q c = Machine.entryCfg p c := by
  obtain ⟨_, _, _, _, _, _, _, rfl⟩ := h.fields; rfl
theorem entryIsland (h : Moved p q) (c : ConsumerNo) : Machine.entryIsland q c = Machine.entryIsland p c := by
  obtain ⟨_, _, _, _, _, _, _, rfl⟩ := h.fields; rfl

theorem raised {o : Part} {b : OrderBody} (h : Moved p q) (hr : Raised o p b) : Raised o q b :=
  raised_congr hr h.urgent h.normal h.fieldTx

end Moved

end Sys2Proof.Proofs
end

section
/-! Heavy-load requests (R114 to R118): what denying one and releasing a grant leave of the queues and the held grants, and the two
deadlines. -/

namespace Sys2Proof.Proofs

open Sys2Proof.Machine Sys2Proof.Claims

/-! ### Markings -/

theorem islandLive_congr {p q : Part} (hcfg : q.cfg = p.cfg) (himage : q.setImage = p.setImage)
    (hmap : q.islandMap = p.islandMap) (i : IslandNo) : islandLive q i = islandLive p i := by
  have hbus : ∀ k, onIslandBus q i k = onIslandBus p i k := fun k => by
    simp only [onIslandBus, setConfigured, setCfg, inIsland, islandOf, hcfg, himage, hmap]
  simp only [islandLive, funext hbus]

theorem Beside.islandMap {p q : Part} (h : Beside p q) : q.islandMap = p.islandMap := congrArg (fun x => x.2.2.2) h.map

/-! ### Held grants -/

section

variable {p q : Part} {i : IslandNo} {c : ConsumerNo}

theorem grantOf_congr (h : ∀ j : IslandNo, (island q j).reserve.grants = (island p j).reserve.grants) (c : ConsumerNo) :
    grantOf q c = grantOf p c := by simp only [grantOf, h]

theorem grantIsland_congr (h : ∀ j : IslandNo, (island q j).reserve.grants = (island p j).reserve.grants) (c : ConsumerNo) :
    grantIsland q c = grantIsland p c := by simp only [grantIsland, h]

theorem grantIsland_none (h : grantOf p c = none) : grantIsland p c = none := by
  rw [grantOf, List.findSome?_eq_none_iff] at h
  rw [grantIsland, List.find?_eq_none]
  intro j hj
  have hnone := h j hj
  rw [List.find?_eq_none] at hnone
  simpa [List.any_eq_true] using hnone

theorem releaseGrant_none (h : grantOf p c = none) : releaseGrant c p = p := by
  rw [releaseGrant, grantIsland_none h]

/-- An island that holds a grant has a record. -/
theorem isSome_of_grants (h : (island p i).reserve.grants ≠ []) : p.islands[i].isSome = true := by
  cases hi : p.islands[i] with
  | none =>
    rw [island, hi] at h
    exact absurd rfl h
  | some r => rfl

theorem grantIsland_isSome (h : grantIsland p c = some i) : p.islands[i].isSome = true := by
  refine isSome_of_grants fun hnil => ?_
  have hany := List.find?_some h
  simp only [hnil, List.any_nil] at hany
  exact Bool.false_ne_true hany

/-- A test changes neither queue nor grants (R106). -/
theorem testIsland_kept (i : IslandNo) (p : Part) : held Island.kept (testIsland i p) = held Island.kept p :=
  tests_testIsland (tests_held (held Island.kept p)) i rfl

theorem testIsland_queue (i j : IslandNo) (p : Part) :
    (island (testIsland i p) j).reserve.queue = (island p j).reserve.queue :=
  field_of_held (held_of_held (fun x => x.1) (testIsland_kept i p)) j

theorem testIsland_grants (i j : IslandNo) (p : Part) :
    (island (testIsland i p) j).reserve.grants = (island p j).reserve.grants :=
  field_of_held (held_of_held (fun x => x.2.1) (testIsland_kept i p)) j

/-- A released grant is out of its island's held grants (R117). -/
theorem releaseGrant_grants (h : grantIsland p c = some i) (j : IslandNo) :
    (island (releaseGrant c p) j).reserve.grants
      = if i = j then (island p j).reserve.grants.filter fun g => g.consumer != c else (island p j).reserve.grants := by
  rw [releaseGrant, h]
  dsimp only
  rw [testIsland_grants]
  split
  · next hij =>
    subst hij
    exact congrArg (fun r : Island => r.reserve.grants) (island_onIsland_self (grantIsland_isSome h))
  · next hij => exact congrArg (fun r : Island => r.reserve.grants) (island_onIsland_other hij)

theorem releaseGrant_beside (c : ConsumerNo) (h : Beside p q) : Beside p (releaseGrant c q) :=
  handing_releaseGrant (units_beside p).toHanding c h

theorem releaseGrant_entry (c : ConsumerNo) (p : Part) : (releaseGrant c p).entry = p.entry :=
  grants_releaseGrant (grants_entry p.entry) c rfl

theorem releaseGrant_besideGrants (c : ConsumerNo) (p : Part) :
    held keptBesideGrants (releaseGrant c p) = held keptBesideGrants p :=
  grants_releaseGrant (grants_held (held keptBesideGrants p)) c rfl

theorem releaseGrant_queue (c : ConsumerNo) (p : Part) (j : IslandNo) :
    (island (releaseGrant c p) j).reserve.queue = (island p j).reserve.queue :=
  field_of_held (held_of_held (fun x => x.1) (releaseGrant_besideGrants c p)) j

theorem releaseGrant_history (c : ConsumerNo) (p : Part) : SameHistory p (releaseGrant c p) :=
  field_of_held (held_of_held (fun x => x.2.2.2) (releaseGrant_besideGrants c p))

end

/-! ### A GRANT or DENY handed over (R114, R144) -/

/-- Handing an order over changes no island record. -/
theorem handOver_islands (b : OrderBody) (u : Bool) (p : Part) : (handOver b u p).part.islands = p.islands := by
  obtain ⟨x, y, n, f, r, t, m, v, e⟩ := handOver_eq b u p
  rw [e]

theorem replaceOrder_replaced (o old : Order) (p : Part) :
    (replaceOrder o old p).replaced = some old ∨ (replaceOrder o old p).replaced = none := by
  unfold replaceOrder
  extract_lets next swap
  split
  · exact .inl rfl
  · split
    · exact .inl rfl
    · split
      · exact .inl rfl
      · exact .inr rfl

/-- The order replaced is the object's order that was queued (R29). -/
theorem replaced_of_handOver {b : OrderBody} {u : Bool} {p : Part} {old : Order} (h : (handOver b u p).replaced = some old) :
    queuedFor p b.object = some old := by
  rw [handOver_replaced] at h
  unfold joinQueues at h
  extract_lets o at h
  split at h
  · exact nomatch h
  · split at h
    · next x hx =>
      rcases replaceOrder_replaced o x p with hr | hr
      · rw [hx, ← h, hr]
      · exact nomatch hr.symm.trans h
    · split at h
      · exact nomatch h
      · split at h <;> exact nomatch h

theorem handOver_noneReplaced {b : OrderBody} {u : Bool} {p : Part} (h : queuedFor p b.object = none) :
    (handOver b u p).replaced = none := by
  cases hr : (handOver b u p).replaced with
  | none => rfl
  | some old => exact nomatch (replaced_of_handOver hr).symm.trans h

/-- What a GRANT or DENY handed over leaves of the heavy queues, and of the grants where the consumer holds none. -/
theorem handHeavy_reserve (c : ConsumerNo) (a : ConsumerOrder) (p : Part) (j : IslandNo) :
    (island (handHeavy c a p).part j).reserve.queue = (island p j).reserve.queue
    ∧ (grantOf p c = none → (island (handHeavy c a p).part j).reserve.grants = (island p j).reserve.grants) := by
  have hover : ∀ b u (q : Part) (i : IslandNo), island (handOver b u q).part i = island q i := fun b u q i => by
    rw [island, island, handOver_islands]
  unfold handHeavy
  extract_lets h
  have hsame : ∀ i : IslandNo, (island h.part i).reserve = (island p i).reserve := fun i => congrArg _ (hover _ _ _ _)
  split
  · next old hold =>
    split
    · rw [show ∀ b u (q : Part), (island (handOver b u q).part j).reserve = (island q j).reserve from
        fun b u q => congrArg _ (hover b u q j), hsame]
      exact ⟨rfl, fun _ => rfl⟩
    · split
      · rw [((Moved.refl h.part).restoreOutcome c .replaced).reserve, hsame]
        exact ⟨rfl, fun _ => rfl⟩
      · have hqueue : (island (grantLost old h.part) j).reserve.queue = (island h.part j).reserve.queue :=
          field_of_held (held_of_held (fun x => x.1)
            (grants_grantLost (grants_held (held keptBesideGrants h.part)) old rfl)) j
        refine ⟨hqueue.trans (congrArg _ (hsame j)), fun hnone => ?_⟩
        have hfor := (isFor_of_queuedFor (replaced_of_handOver hold)).2
        have hlost : grantLost old h.part = h.part := by
          unfold grantLost
          split
          · next d hd =>
            obtain rfl : d = c := by
              simp only [Order.isFor, hd, OrderBody.object, beq_iff_eq, ObjectRef.consumer.injEq] at hfor
              exact hfor
            rw [grantOf_congr (p := p) fun i => congrArg _ (hsame i), hnone]
          · rfl
        rw [hlost, hsame]
  · rw [hsame]
    exact ⟨rfl, fun _ => rfl⟩

theorem occur_island (k : EventKind) (o : EventObject) (p : Part) (j : IslandNo) : island (occur k o p) j = island p j := by
  obtain ⟨f, r, t, n, e⟩ := occur_eq k o p
  rw [e]
  rfl

theorem deny_reserve (c : ConsumerNo) (p : Part) (j : IslandNo) :
    (island (deny c p) j).reserve.queue = (island p j).reserve.queue
    ∧ (grantOf p c = none → (island (deny c p) j).reserve.grants = (island p j).reserve.grants) := by
  rw [deny, occur_island]
  exact handHeavy_reserve c .deny p j

theorem handHeavy_none {c : ConsumerNo} {a : ConsumerOrder} {p : Part} (hq : queuedFor p (.consumer c) = none) :
    (handHeavy c a p).part = (handOver (.consumer c a) false p).part := by
  unfold handHeavy
  extract_lets h
  have hr : h.replaced = none := handOver_noneReplaced (b := .consumer c a) hq
  rw [hr]

/-! ### A HEAVY REQUEST record (R114) -/

section Deny

variable {p : Part} {c : ConsumerNo}

/-- A DENY that finds room is queued where the transmitter cannot take it at once (R32). -/
theorem deny_queued (hc : objectConfigured p (.consumer c) = true) (hq : queuedFor p (.consumer c) = none) (hr : Room p)
    (h : p.phase = .acquire ∨ p.fieldTx.isSome = true ∨ p.urgent ≠ [] ∨ p.normal ≠ []) :
    deny c p = occur .heavyDeny (.consumer c)
      { p with normal := p.normal ++ [{ serial := p.nextOrder, body := .consumer c .deny, urgent := false }],
               nextOrder := p.nextOrder + 1 } := by
  have hj := joinQueues_normal (b := .consumer c .deny) hc hq hr
  have hjoins : p.urgent ≠ [] ∨ p.normal ≠ []
      ∨ arbitrate (withNormal { serial := p.nextOrder, body := .consumer c .deny, urgent := false } p)
        = withNormal { serial := p.nextOrder, body := .consumer c .deny, urgent := false } p := by
    rcases h with h | h | h | h
    · exact .inr (.inr (arbitrate_acquire h))
    · exact .inr (.inr (arbitrate_sending h))
    · exact .inl h
    · exact .inr (.inl h)
  rw [deny, handHeavy_none hq, handOver_joins hj hjoins]
  rfl

/-- As the one order, it is taken at once by the idle transmitter. -/
theorem deny_taken (hc : objectConfigured p (.consumer c) = true) (hq : queuedFor p (.consumer c) = none) (hr : Room p)
    (hp : p.phase = .run) (ht : p.fieldTx = none) (hu : p.urgent = []) (hn : p.normal = []) :
    deny c p = occur .heavyDeny (.consumer c)
      { p with
        nextOrder := p.nextOrder + 1
        fieldTx := some (taken p { serial := p.nextOrder, body := .consumer c .deny, urgent := false }) } := by
  have hj := joinQueues_normal (b := .consumer c .deny) hc hq hr
  rw [deny, handHeavy_none hq, handOver_taken hu hn hj, arbitrate_withNormal hp ht hu hn]
  rfl

end Deny

section Request

variable {p : Part} {c : ConsumerNo} {kw : Nat} {e : EntryConfig} {i : IslandNo}

theorem heavyRequest_denied
    (h : p.phase = .acquire ∨ entryIsland p c = none ∨ ∀ e, entryCfg p c = some e → e.askFirst = false) :
    heavyRequest c kw p = deny c p := by
  unfold heavyRequest
  extract_lets asks
  split
  · next hphase hisland =>
    rcases h with h | h | h
    · exact nomatch h.symm.trans hphase
    · exact nomatch h.symm.trans hisland
    · have hasks : asks = false := by
        simp only [asks]
        cases he : entryCfg p c with
        | none => rfl
        | some e => exact h e he
      rw [hasks]
      rfl
  · rfl

theorem heavyRequest_asks (hp : p.phase = .run) (he : entryCfg p c = some e) (ha : e.askFirst = true)
    (hi : entryIsland p c = some i) : heavyRequest c kw p = queueHeavy i c kw (releaseGrant c p) := by
  unfold heavyRequest
  rw [hp, hi, he]
  exact if_pos ha

theorem queueHeavy_replaces (h : ∃ q ∈ (island p i).reserve.queue, q.consumer = c) :
    queueHeavy i c kw p = testIsland i
      (onQueue i (fun qs => qs.map fun q => if q.consumer == c then { q with kw := kw } else q) p) := by
  refine if_pos ?_
  simpa only [List.any_eq_true, beq_iff_eq] using h

theorem any_consumer_false (h : ∀ q ∈ (island p i).reserve.queue, q.consumer ≠ c) :
    ¬((island p i).reserve.queue.any fun q => q.consumer == c) = true := by
  simpa only [List.any_eq_true, beq_iff_eq, not_exists, not_and] using h

theorem queueHeavy_denied (h : ∀ q ∈ (island p i).reserve.queue, q.consumer ≠ c)
    (hfull : islandLive p i = false ∨ 8 ≤ (island p i).reserve.queue.length) : queueHeavy i c kw p = deny c p := by
  refine (if_neg (any_consumer_false h)).trans (if_pos ?_)
  rcases hfull with hfull | hfull
  · rw [hfull]
    rfl
  · have hle : decide (Config.heavyMax ≤ (island p i).reserve.queue.length) = true := decide_eq_true hfull
    rw [hle, Bool.or_true]

theorem queueHeavy_joins (h : ∀ q ∈ (island p i).reserve.queue, q.consumer ≠ c) (hlive : islandLive p i = true)
    (hroom : (island p i).reserve.queue.length < 8) :
    queueHeavy i c kw p = testIsland i
      (onQueue i (fun qs => qs ++ [{ consumer := c, kw := kw, arrival := p.clock, deadline := none }]) p) := by
  have hle : decide (Config.heavyMax ≤ (island p i).reserve.queue.length) = false := decide_eq_false (Nat.not_le.2 hroom)
  refine (if_neg (any_consumer_false h)).trans (if_neg ?_)
  rw [hlive, hle]
  exact Bool.false_ne_true

/-- An island's queue after a change of it and a test (R106, R116). -/
theorem testIsland_onQueue (f : List HeavyRequest → List HeavyRequest) (hisland : p.islands[i].isSome = true) :
    (island (testIsland i (onQueue i f p)) i).reserve.queue = headed (headDeadline p) (f (island p i).reserve.queue) := by
  rw [testIsland_queue]
  exact congrArg (fun r : Island => r.reserve.queue) (island_onIsland_self hisland)

theorem testIsland_onQueue_beside {o : Part} (f : List HeavyRequest → List HeavyRequest)
    (h : Beside o p) : Beside o (testIsland i (onQueue i f p)) :=
  handing_testIsland (units_beside o).toHanding i (h.of_eq rfl rfl rfl rfl rfl)

end Request

/-- Settles O17: the record's cases; the release of a grant that the consumer holds leaves the queue as it is. -/
theorem heavyRequestIsQueuedOrDenied : Obligations.HeavyRequestIsQueuedOrDenied := by
  unfold Obligations.HeavyRequestIsQueuedOrDenied
  intro p c kw _
  refine ⟨heavyRequest_denied, fun hc hq hr => ⟨deny_queued hc hq hr, deny_taken hc hq hr⟩, ?_⟩
  intro e i hp he ha hi hisland
  have hasks : deliverRecord (.heavy c kw) p = queueHeavy i c kw (releaseGrant c p) := heavyRequest_asks hp he ha hi
  have hqueue : (island (releaseGrant c p) i).reserve.queue = (island p i).reserve.queue := releaseGrant_queue c p i
  have hbeside : Beside p (releaseGrant c p) := releaseGrant_beside c (.refl p)
  have hisland' : (releaseGrant c p).islands[i].isSome = true :=
    (isSome_of_held (releaseGrant_besideGrants c p) i).trans hisland
  have hdeadline : headDeadline (releaseGrant c p) = p.clock + p.cfg.plant.heavyExpiry * 1000 := by
    rw [headDeadline, after, hbeside.clock, hbeside.cfg]
  refine ⟨fun hnot hfull hnone => ?_, fun hnot hlive hroom => ?_, fun hin => ?_⟩
  · rw [hasks, releaseGrant_none hnone]
    exact queueHeavy_denied hnot hfull
  · have hlive' : islandLive (releaseGrant c p) i = true :=
      (islandLive_congr hbeside.cfg hbeside.setImage hbeside.islandMap i).trans hlive
    rw [hasks, queueHeavy_joins (hqueue ▸ hnot) hlive' (hqueue ▸ hroom)]
    refine ⟨(testIsland_onQueue_beside _ hbeside).sameAside, ?_⟩
    rw [testIsland_onQueue _ hisland', hqueue, hdeadline, hbeside.clock]
  · rw [hasks, queueHeavy_replaces (hqueue ▸ hin)]
    refine ⟨(testIsland_onQueue_beside _ hbeside).sameAside, ?_⟩
    rw [testIsland_onQueue _ hisland', hqueue, hdeadline]
    simp only [beq_iff_eq]

/-! ### Deadlines (R116, R117) -/

/-- An order stands in a queue, or the transmitter has it. -/
def Standing (o : Order) (q : Part) : Prop :=
  o ∈ q.urgent ++ q.normal ∨ q.fieldTx.map OrderInTransmission.order = some o

theorem isFor_false {o : Order} {b : OrderBody} (h : o.body.object ≠ b.object) : o.isFor b.object = false := by
  rw [Order.isFor, beq_eq_false_iff_ne]
  exact h

/-- An order of another object leaves it standing in the queues (R28, R29). -/
theorem joinQueues_standing {b : OrderBody} {u : Bool} {q : Part} {o : Order} (hb : o.body.object ≠ b.object)
    (h : o ∈ q.urgent ++ q.normal) : o ∈ (joinQueues b u q).part.urgent ++ (joinQueues b u q).part.normal := by
  have hfor := isFor_false hb
  have hfull : o ∈ (queueFull b q).part.urgent ++ (queueFull b q).part.normal := by
    obtain ⟨f, r, t, n, e⟩ := occur_eq .orderQueueFull (objectNamed b.object) q
    rw [queueFull, e]
    exact h
  have hmem := List.mem_append.1 h
  unfold joinQueues replaceOrder
  extract_lets x next swap
  split
  · exact h
  · split
    · next old hold =>
      have hswap : ∀ {l : List Order}, o ∈ l → o ∈ l.map swap := fun hl => List.mem_map.2 ⟨o, hl, if_neg (by
        rw [show Order.isFor x.body.object o = false from hfor]; exact Bool.false_ne_true)⟩
      have hfilter : ∀ {l : List Order}, o ∈ l → o ∈ l.filter fun r => !r.isFor x.body.object := fun hl =>
        List.mem_filter.2 ⟨hl, by rw [show Order.isFor x.body.object o = false from hfor]; rfl⟩
      split
      · exact List.mem_append.2 (hmem.imp hswap hswap)
      · split
        · exact List.mem_append.2 (hmem.imp (List.mem_append_left _) hfilter)
        · split
          · exact List.mem_append.2 (hmem.imp hfilter (List.mem_append_left _))
          · exact hfull
    · split
      · exact List.mem_append.2 (hmem.imp (List.mem_append_left _) id)
      · split
        · exact List.mem_append.2 (hmem.imp id (List.mem_append_left _))
        · exact hfull

theorem handOver_standing {b : OrderBody} {u : Bool} {q : Part} {o : Order} (hb : o.body.object ≠ b.object)
    (h : Standing o q) : Standing o (handOver b u q).part := by
  rw [handOver_part]
  have htx := (joinQueues_apart b u q).1
  rcases h with h | h
  · have hj := joinQueues_standing (u := u) hb h
    split
    · exact arbitrate_raised hj
    · exact .inl hj
  · have hsome : (joinQueues b u q).part.fieldTx.isSome = true := by
      rw [htx]
      cases ht : q.fieldTx with
      | none => rw [ht] at h; exact nomatch h
      | some tx => rfl
    split
    · rw [arbitrate_sending hsome]
      exact .inr (htx ▸ h)
    · exact .inr (htx ▸ h)

theorem bystander_standing_occur {o : Order} {q : Part} (k : EventKind) (e : EventObject) (h : Standing o q) :
    Standing o (occur k e q) := by
  obtain ⟨f, r, t, n, heq⟩ := occur_eq k e q
  rw [heq]
  exact h

/-- The tests of the Reserve Unit hand over orders of sets alone, and so leave a consumer's standing. -/
theorem tests_standing {o : Order} {c : ConsumerNo} (ho : o.body.object = .consumer c) : Tests (Standing o) where
  share _ _ h := h
  gov _ _ _ h := h
  selection _ _ h := h
  inFlight _ _ h := h
  occurs _ k e h := bystander_standing_occur k e h
  tables _ _ _ _ h := h
  starts p k h := by
    have hhand : ∀ q : Part, Standing o q → Standing o (handSet k .start q).1 := fun q hq => by
      obtain ⟨⟨l, hl⟩, -⟩ := handSet_eq k .start q
      rw [hl]
      exact handOver_standing (b := .set k .start) (by rw [ho]; exact nofun) hq
    unfold startRequest
    split
    · extract_lets begun handed started
      have h1 : Standing o started.part := hhand begun.part h
      split <;> exact h1
    · exact h
  abandons p k h := by
    unfold abandonRequest
    split <;> exact h

section Deadlines

variable {p : Part} {i : IslandNo} {d : Nat}

/-- The head leaves the queue, is denied, and the island tested (R116). -/
theorem headExpired_eq {q0 : HeavyRequest} {rest : List HeavyRequest} (h : (island p i).reserve.queue = q0 :: rest) :
    headExpired i p = testIsland i (deny q0.consumer (onQueue i List.tail p)) := by
  unfold headExpired
  rw [h]

theorem headDeadlinePassed_runs {q0 : HeavyRequest} {rest : List HeavyRequest}
    (h : (island p i).reserve.queue = q0 :: rest) (hd : q0.deadline = some d) :
    headDeadlinePassed i p = testIsland i (deny q0.consumer (onQueue i List.tail (at' d p))) := by
  have hdue : queueHeadDeadline p i = some d := by
    unfold queueHeadDeadline
    rw [h]
    exact hd
  unfold headDeadlinePassed
  rw [hdue]
  exact headExpired_eq (p := at' d p) h

theorem headDeadlinePassed_empty (h : (island p i).reserve.queue = []) : headDeadlinePassed i p = p := by
  have hdue : queueHeadDeadline p i = none := by
    unfold queueHeadDeadline
    rw [h]
  unfold headDeadlinePassed
  rw [hdue]

theorem holdDeadlinePassed_runs {c : ConsumerNo} {g : HeavyGrant} (h : grantOf p c = some g) (hd : g.hold = some d) :
    holdDeadlinePassed c p = releaseGrant c (at' d p) := by
  unfold holdDeadlinePassed
  rw [h, Option.bind_some, hd]
  rfl

theorem holdDeadlinePassed_stopped {c : ConsumerNo} (h : (grantOf p c).bind HeavyGrant.hold = none) :
    holdDeadlinePassed c p = p := by
  unfold holdDeadlinePassed
  rw [h]

end Deadlines

/-- Settles O33: a head that is denied leaves the queue; a grant that is released leaves the held grants. -/
theorem heavyDeadlinesPass : Obligations.HeavyDeadlinesPass := by
  unfold Obligations.HeavyDeadlinesPass
  intro p w ha
  refine ⟨fun i q0 rest d hisland hqueue hd => ?_, fun i h => running_of_eq ha (headDeadlinePassed_empty h),
    fun c i g d hi hg hd => ?_, fun c h => running_of_eq ha (holdDeadlinePassed_stopped h)⟩
  · obtain ⟨left, hleft⟩ : ∃ left, left = onQueue i List.tail (at' d p) := ⟨_, rfl⟩
    have hrun : headDeadlinePassed i p = testIsland i (deny q0.consumer left) :=
      hleft ▸ headDeadlinePassed_runs hqueue hd
    have hself : (island left i).reserve = { (island p i).reserve with
        queue := headed (max p.clock d + p.cfg.plant.heavyExpiry * 1000) rest } := by
      rw [hleft, onQueue, onReserve, island_onIsland_self (p := at' d p) hisland]
      exact congrArg (fun l => ({ (island p i).reserve with
        queue := headed (max p.clock d + p.cfg.plant.heavyExpiry * 1000) l } : ReserveRecord)) (congrArg List.tail hqueue)
    have hother : ∀ j : IslandNo, j ≠ i → island left j = island p j := fun j hj => by
      rw [hleft]
      exact island_onIsland_other (p := at' d p) (Ne.symm hj)
    have hgrants : ∀ j : IslandNo, (island left j).reserve.grants = (island p j).reserve.grants := fun j => by
      by_cases hj : j = i
      · rw [hj, hself]
      · rw [hother j hj]
    have hbeside : Beside (at' d p) left := hleft ▸ (Beside.refl _).of_eq rfl rfl rfl rfl rfl
    have hdenied : Beside (at' d p) (deny q0.consumer left) := handing_deny (units_beside _).toHanding _ hbeside
    refine ⟨_, running_of_eq ha hrun, ?_, fun j hj => ?_, fun hnone j => ?_, ?_, ?_, fun hc hq hr => ?_⟩
    · rw [testIsland_queue, (deny_reserve _ _ _).1, hself]
    · rw [testIsland_queue, (deny_reserve _ _ _).1, hother j hj]
    · rw [testIsland_grants, (deny_reserve _ _ _).2 ((grantOf_congr hgrants _).trans hnone), hgrants]
    · exact handing_testIsland (units_flag _).toHanding i (occur_flagged _ _ _)
    · exact (handing_testIsland (units_beside _).toHanding i hdenied).sameAside
    · obtain ⟨-, o, hb, hs, ho⟩ := handOver_raises (p := left) (b := .consumer q0.consumer .deny) (u := false)
        (hleft ▸ hc) (.inr (hleft ▸ hr))
      have hstanding : Standing o (deny q0.consumer left) := by
        rw [deny, handHeavy_none (hleft ▸ hq)]
        exact bystander_standing_occur _ _ ho
      exact ⟨o, hb, hbeside.orders.trans hs,
        tests_testIsland (tests_standing (c := q0.consumer) (by rw [hb]; rfl)) i hstanding⟩
  · have hrun := holdDeadlinePassed_runs hg hd
    have hi' : grantIsland (at' d p) c = some i := hi
    refine ⟨_, running_of_eq ha hrun, ?_, fun j hj => ?_, fun j => releaseGrant_queue c _ j,
      (releaseGrant_beside c (.refl _)).sameAside, releaseGrant_entry c _, releaseGrant_history c _⟩
    · exact (releaseGrant_grants hi' i).trans (if_pos rfl)
    · exact (releaseGrant_grants hi' j).trans (if_neg (Ne.symm hj))

end Sys2Proof.Proofs
end

section
/-! What an order's outcome makes of its consumer's entry and history record (R144, R145, R161), and what it leaves alone. -/

namespace Sys2Proof.Proofs

open Sys2Proof.Machine Sys2Proof.Claims

/-! ### The Shed Unit's operations on one consumer -/

section

variable {p q : Part} {c : ConsumerNo} {i : IslandNo}

theorem onEntry_entry (c : ConsumerNo) (f : EntryRecord → EntryRecord) (p : Part) :
    (onEntry c f p).entry = p.entry.set c (f p.entry[c]) := rfl

theorem onEntry_onEntry (c : ConsumerNo) (f g : EntryRecord → EntryRecord) (p : Part) :
    onEntry c f (onEntry c g p) = onEntry c (fun r => f (g r)) p := by
  simp only [onEntry, modifyAt, Fin.getElem_fin, Vector.set_set, Vector.getElem_set_self]

theorem sameHistory_trans {r : Part} (h : SameHistory p q) (h' : SameHistory q r) : SameHistory p r :=
  fun j => (h' j).trans (h j)

theorem occur_history (k : EventKind) (o : EventObject) (p : Part) : SameHistory p (occur k o p) := fun j => by
  rw [occur_island]

theorem occur_entry (k : EventKind) (o : EventObject) (p : Part) : (occur k o p).entry = p.entry := by
  obtain ⟨f, r, t, n, e⟩ := occur_eq k o p
  rw [e]

theorem endShedFor_eq (c : ConsumerNo) (p : Part) : endShedFor c p =
    { p with islands := p.islands.map (Option.map fun r => { r with shed := noteShedOutcome c p r.shed }) } :=
  foldl_onIsland (fun _ r => { r with shed := noteShedOutcome c p r.shed }) (fun _ _ => rfl) p

theorem endStepFor_eq (c : ConsumerNo) (p : Part) : endStepFor c p =
    { p with islands := p.islands.map (Option.map fun r =>
      if r.restore.state == .stepWait && r.restore.stepConsumer == some c then { r with restore := afterStep p r } else r) } :=
  foldl_onIsland (fun q r =>
    if r.restore.state == .stepWait && r.restore.stepConsumer == some c then { r with restore := afterStep q r } else r)
    (fun _ _ => rfl) p

theorem removeRecord_eq (c : ConsumerNo) (p : Part) :
    removeRecord c p = { p with islands := p.islands.map (Option.map (withoutRecord c)) } :=
  foldl_onIsland (fun _ => withoutRecord c) (fun _ _ => rfl) p

theorem island_map {f : Island → Island} {v : Vector (Option Island) 4} (hv : v = p.islands.map (Option.map f)) (j : IslandNo) :
    ({ p with islands := v } : Part).islands[j] = p.islands[j].map f := by
  rw [hv, Fin.getElem_fin, Vector.getElem_map]
  rfl

/-- One field of every island record, where one change was made to all of them that keeps it. -/
theorem held_map {α : Type} {g : Island → α} {f : Island → Island} (hf : ∀ r, g (f r) = g r) :
    held g { p with islands := p.islands.map (Option.map f) } = held g p := by
  funext j
  rw [held, island_map rfl, Option.map_map, held]
  exact congrFun (congrArg Option.map (funext hf)) _

theorem endShedFor_history (c : ConsumerNo) (p : Part) : SameHistory p (endShedFor c p) := by
  rw [endShedFor_eq]
  exact field_of_held (held_map (g := Island.history) fun _ => rfl)

theorem endShedFor_entry (c : ConsumerNo) (p : Part) : (endShedFor c p).entry = p.entry := by rw [endShedFor_eq]

theorem endStepFor_history (c : ConsumerNo) (p : Part) : SameHistory p (endStepFor c p) := by
  rw [endStepFor_eq]
  refine field_of_held (held_map (g := Island.history) fun r => ?_)
  split <;> rfl

theorem endStepFor_entry (c : ConsumerNo) (p : Part) : (endStepFor c p).entry = p.entry := by rw [endStepFor_eq]

theorem removeRecord_entry (c : ConsumerNo) (p : Part) : (removeRecord c p).entry = p.entry := by rw [removeRecord_eq]

theorem removeRecord_gone (c : ConsumerNo) (p : Part) : RecordGone p (removeRecord c p) c := fun j => by
  rw [removeRecord_eq, island, island_map rfl, island]
  cases p.islands[j] <;> rfl

theorem rebuildFor_entry (c : ConsumerNo) (p : Part) : (rebuildFor c p).entry = p.entry := ((Noted.refl p).rebuildFor c).entry
theorem rebuildFor_history (c : ConsumerNo) (p : Part) : SameHistory p (rebuildFor c p) :=
  ((Noted.refl p).rebuildFor c).history

theorem pushRecord_entry (i : IslandNo) (h : HistoryRecord) (p : Part) : (pushRecord i h p).entry = p.entry := rfl

theorem pushRecord_history (h : p.islands[i].isSome = true) (r : HistoryRecord) :
    (island (pushRecord i r p) i).history = r :: (island p i).history := by rw [pushRecord, island_onIsland_self h]

theorem entryIs_iff {st : EntryState} : entryIs p c st = true ↔ p.entry[c].state = some st := by
  rw [entryIs, beq_iff_eq]

end

/-! ### The outcomes -/

section

variable {p : Part} {c : ConsumerNo} {a : ConsumerOrder} {out : OrderOutcome}

theorem moved_orderOutcome (c : ConsumerNo) (a : ConsumerOrder) (out : OrderOutcome) (p : Part) :
    Moved p (orderOutcome c a out p) := by
  unfold orderOutcome
  split
  · exact (Moved.refl p).shedOutcome c out
  · split
    · exact (Moved.refl p).restoreOutcome c out
    · exact .refl p

theorem beside_orderOutcome {o : Part} (c : ConsumerNo) (a : ConsumerOrder) (out : OrderOutcome) (h : Beside o p) :
    Beside o (orderOutcome c a out p) := calm_orderOutcome (units_beside o).toCalm c a out h

theorem isShedOrder_iff : isShedOrder (.consumer c a) = true ↔ a = .trip ∨ ∃ kw, a = .limit kw := by
  cases a <;> simp [isShedOrder]

theorem isRestoreOrder_iff : isRestoreOrder (.consumer c a) = true ↔ a = .close ∨ a = .release := by
  cases a <;> simp [isRestoreOrder]

theorem orderOutcome_shed (h : a = .trip ∨ ∃ kw, a = .limit kw) : orderOutcome c a out p = shedOutcome c out p := by
  rw [orderOutcome, if_pos (isShedOrder_iff.2 h)]

theorem orderOutcome_restore (h : a = .close ∨ a = .release) : orderOutcome c a out p = restoreOutcome c out p := by
  have hshed : isShedOrder (.consumer c a) = false := by rcases h with rfl | rfl <;> rfl
  rw [orderOutcome, if_neg (by rw [hshed]; exact Bool.false_ne_true), if_pos (isRestoreOrder_iff.2 h)]

/-- The outcome of an order whose entry no longer waits for it changes no entry and no history (R144, R161). -/
theorem orderOutcome_unawaited (hs : (a = .trip ∨ ∃ kw, a = .limit kw) → p.entry[c].state ≠ some .shedPending)
    (hr : a = .close ∨ a = .release → p.entry[c].state ≠ some .restorePending) :
    (orderOutcome c a out p).entry = p.entry ∧ SameHistory p (orderOutcome c a out p) := by
  unfold orderOutcome
  split
  · next h =>
    unfold shedOutcome
    rw [if_neg fun h' => hs (isShedOrder_iff.1 h) (entryIs_iff.1 h')]
    exact ⟨endShedFor_entry c p, endShedFor_history c p⟩
  · split
    · next h =>
      rw [restoreOutcome, if_neg fun h' => hr (isRestoreOrder_iff.1 h) (entryIs_iff.1 h')]
      exact ⟨endStepFor_entry c p, endStepFor_history c p⟩
    · exact ⟨rfl, fun _ => rfl⟩

/-- An entry whose shed order has failed (R144). -/
def shedFailed (p : Part) (c : ConsumerNo) : EntryRecord :=
  if p.consumerImage[c].closed = true then
    { state := some .connected, tripFailed := true, restoreFailed := false, relief := 0, cause := none }
  else
    { state := some .openExternal, tripFailed := false, restoreFailed := p.entry[c].restoreFailed, relief := 0,
      cause := none }

theorem entryShedFailed_entry (c : ConsumerNo) (p : Part) :
    (entryShedFailed c p).entry = p.entry.set c (shedFailed p c) ∧ SameHistory p (entryShedFailed c p)
    ∧ Flagged (entryShedFailed c p) .tripFail := by
  have hentry := occur_entry .tripFail (.consumer c) p
  have hhist := occur_history .tripFail (.consumer c) p
  have hflag := occur_flagged .tripFail (.consumer c) p
  unfold entryShedFailed shedFailed
  extract_lets failed
  have hset : ∀ r, failed.entry.set c r = p.entry.set c r := fun r => congrArg (Vector.set · c r) hentry
  split
  · refine ⟨?_, hhist, hflag⟩
    rw [enterEntry, onEntry_onEntry, onEntry_entry, hset]
    rfl
  · refine ⟨?_, hhist, hflag⟩
    rw [enterEntry, onEntry_entry, hset, hentry]
    rfl

theorem shedOutcome_failed (hout : out = .timedOut ∨ out = .superseded) (h : p.entry[c].state = some .shedPending) :
    (shedOutcome c out p).entry = p.entry.set c (shedFailed p c) ∧ SameHistory p (shedOutcome c out p)
    ∧ Flagged (shedOutcome c out p) .tripFail := by
  obtain ⟨hentry, hhist, hflag⟩ := entryShedFailed_entry c p
  have hrun : shedOutcome c out p = rebuildFor c (endShedFor c (entryShedFailed c p)) := by
    unfold shedOutcome
    rw [if_pos (entryIs_iff.2 h)]
    rcases hout with rfl | rfl <;> rfl
  have hafter : Moved (entryShedFailed c p) (rebuildFor c (endShedFor c (entryShedFailed c p))) :=
    ((Moved.refl _).endShedFor c).rebuildFor c
  rw [hrun]
  refine ⟨?_, ?_, hafter.flag _ hflag⟩
  · rw [rebuildFor_entry, endShedFor_entry, hentry]
  · exact sameHistory_trans hhist (sameHistory_trans (endShedFor_history c _) (rebuildFor_history c _))

theorem restoreOutcome_failed (hout : out = .timedOut ∨ out = .superseded) (h : p.entry[c].state = some .restorePending) :
    (restoreOutcome c out p).entry = p.entry.set c
      { state := some .shed, tripFailed := false, restoreFailed := true, relief := 0, cause := none }
    ∧ SameHistory p (restoreOutcome c out p) ∧ Flagged (restoreOutcome c out p) .restoreFail := by
  have hentry := occur_entry .restoreFail (.consumer c) p
  have hhist := occur_history .restoreFail (.consumer c) p
  have hflag := occur_flagged .restoreFail (.consumer c) p
  obtain ⟨failed, hfailed⟩ : ∃ q, q = occur .restoreFail (.consumer c) p := ⟨_, rfl⟩
  obtain ⟨entered, hentered⟩ : ∃ q, q = enterEntry c .shed (onEntry c (fun r => { r with restoreFailed := true }) failed) :=
    ⟨_, rfl⟩
  have hrun : restoreOutcome c out p = rebuildFor c (endStepFor c entered) := by
    rw [restoreOutcome, if_pos (entryIs_iff.2 h), hentered, hfailed]
    rcases hout with rfl | rfl <;> rfl
  rw [← hfailed] at hentry hhist hflag
  have hafter : Moved entered (rebuildFor c (endStepFor c entered)) := ((Moved.refl _).endStepFor c).rebuildFor c
  rw [hrun]
  refine ⟨?_, ?_, hafter.flag _ (hentered ▸ hflag)⟩
  · rw [rebuildFor_entry, endStepFor_entry, hentered, enterEntry, onEntry_onEntry, onEntry_entry, hentry]
    rfl
  · refine sameHistory_trans ?_ (sameHistory_trans (endStepFor_history c _) (rebuildFor_history c _))
    rw [hentered]
    exact hhist

/-- A consumer's order handed back as timed out or superseded (R144, R161). -/
theorem orderOutcome_handedBack (hout : out = .timedOut ∨ out = .superseded) : HandedBack p (orderOutcome c a out p) c a := by
  refine ⟨fun ha hs => ?_, fun ha hs => ?_, fun hs hr => ?_, ?_⟩
  · rw [orderOutcome_shed ha]
    obtain ⟨hentry, -, hflag⟩ := shedOutcome_failed hout hs
    exact ⟨hflag, hentry⟩
  · rw [orderOutcome_restore ha]
    obtain ⟨hentry, -, hflag⟩ := restoreOutcome_failed hout hs
    exact ⟨hflag, hentry⟩
  · exact (orderOutcome_unawaited (fun _ => hs) (fun _ => hr)).1
  · by_cases hs : (a = .trip ∨ ∃ kw, a = .limit kw) ∧ p.entry[c].state = some .shedPending
    · rw [orderOutcome_shed hs.1]
      exact (shedOutcome_failed hout hs.2).2.1
    · by_cases hr : (a = .close ∨ a = .release) ∧ p.entry[c].state = some .restorePending
      · rw [orderOutcome_restore hr.1]
        exact (restoreOutcome_failed hout hr.2).2.1
      · exact (orderOutcome_unawaited (fun ha h => hs ⟨ha, h⟩) (fun ha h => hr ⟨ha, h⟩)).2

/-- An order handed back as withdrawn changes an entry only from RESTORE_PENDING, and no history (R31). -/
theorem orderOutcome_withdrawn (c : ConsumerNo) (a : ConsumerOrder) (p : Part) :
    SameHistory p (orderOutcome c a .withdrawn p)
    ∧ (p.entry[c].state ≠ some .restorePending → (orderOutcome c a .withdrawn p).entry = p.entry) := by
  unfold orderOutcome
  split
  · have hrun : shedOutcome c .withdrawn p = endShedFor c p := by
      unfold shedOutcome
      split <;> rfl
    rw [hrun]
    exact ⟨endShedFor_history c p, fun _ => endShedFor_entry c p⟩
  · split
    · unfold restoreOutcome
      split
      · next h =>
        refine ⟨?_, fun hne => absurd (entryIs_iff.1 h) hne⟩
        exact sameHistory_trans (q := enterEntry c .shed p) (fun _ => rfl)
          (sameHistory_trans (endStepFor_history c _) (rebuildFor_history c _))
      · exact ⟨endStepFor_history c p, fun _ => endStepFor_entry c p⟩
    · exact ⟨fun _ => rfl, fun _ => rfl⟩

end

/-! ### Feedback and the end of an order's frame (R33, R35, R37) -/

section

variable {p : Part} {c : ConsumerNo} {a : ConsumerOrder} {f : Feedback}

theorem feedbackExpired_none (h : p.feedback[c] = none) : feedbackExpired c p = p := by
  unfold feedbackExpired
  rw [h]

theorem feedbackExpired_consumer (h : p.feedback[c] = some f) (hb : f.order.body = .consumer c a) :
    feedbackExpired c p = orderOutcome c a .timedOut (dropFeedback c (at' f.deadline p)) := by
  obtain ⟨⟨serial, body, urgent⟩, d⟩ := f
  cases hb
  unfold feedbackExpired
  rw [h]
  rfl

/-- The part with a feedback timer started for this order (R35). -/
def awaited (c : ConsumerNo) (o : Order) (ms : Nat) (p : Part) : Part :=
  { p with feedback := p.feedback.set c (some { order := o, deadline := p.clock + ms }) }

theorem startFeedback_none (o : Order) (ms : Nat) (h : p.feedback[c] = none) : startFeedback c o ms p = awaited c o ms p := by
  unfold startFeedback
  rw [h]
  rfl

theorem startFeedback_supersedes (o : Order) (ms : Nat) (h : p.feedback[c] = some f) (hb : f.order.body = .consumer c a) :
    startFeedback c o ms p = orderOutcome c a .superseded (awaited c o ms p) := by
  obtain ⟨⟨serial, body, urgent⟩, d⟩ := f
  cases hb
  unfold startFeedback
  rw [h]
  rfl

theorem orderSent_consumer {tx : OrderInTransmission} (htx : p.fieldTx = some tx) (hw : tx.withdrawn = false)
    (hb : tx.order.body = .consumer c a) : orderSent p = consumerOrderSent c a tx.order { p with fieldTx := none } := by
  unfold orderSent
  rw [htx]
  simp only [hw, hb, Bool.false_eq_true, if_false]

theorem orderSent_withdrawn {tx : OrderInTransmission} (htx : p.fieldTx = some tx) (hw : tx.withdrawn = true) :
    orderSent p = withdrawnOrderSent tx.order { p with fieldTx := none } := by
  unfold orderSent
  rw [htx]
  simp only [hw, if_true]

theorem grantSent_eq (c : ConsumerNo) (serial : Nat) (p : Part) : grantSent c serial p =
    { p with islands := p.islands.map (Option.map fun r =>
      { r with reserve := { r.reserve with
        grants := r.reserve.grants.map fun g =>
          if g.consumer = c ∧ g.serial = serial then { g with hold := some (p.clock + p.cfg.plant.heavyHold * 1000) }
          else g } }) } := by
  simp only [← beq_iff_eq (α := ConsumerNo), ← beq_iff_eq (α := Nat), ← Bool.and_eq_true]
  exact foldl_onIsland (fun q r => { r with reserve := { r.reserve with
    grants := r.reserve.grants.map fun g =>
      if g.consumer == c && g.serial == serial then { g with hold := some (after q (q.cfg.plant.heavyHold * 1000)) }
      else g } }) (fun _ _ => rfl) p

/-- An order that has been sent begins to await its feedback, and supersedes one that awaits it already (R35). -/
theorem consumerOrderSent_awaits {ms : Nat} (h : feedbackTime a = some ms) (o : Order) :
    consumerOrderSent c a o p = startFeedback c o ms p := by
  unfold consumerOrderSent
  rw [h]

end

/-- Settles O22: the entry takes the failure, and only the Shed Unit acts. -/
theorem feedbackTimesOut : Obligations.FeedbackTimesOut := by
  unfold Obligations.FeedbackTimesOut
  intro p w c ha
  refine ⟨fun h => running_of_eq ha (feedbackExpired_none h), fun f a hf hb => ?_⟩
  have hbeside := beside_orderOutcome c a .timedOut (.refl (dropFeedback c (at' f.deadline p)))
  have hmoved := moved_orderOutcome c a .timedOut (dropFeedback c (at' f.deadline p))
  exact ⟨_, running_of_eq ha (feedbackExpired_consumer hf hb), hbeside.clock, hbeside.feedback,
    orderOutcome_handedBack (p := dropFeedback c (at' f.deadline p)) (.inl rfl), hbeside.desk, hbeside.cfg, hbeside.map,
    hbeside.images, hmoved.seq, hmoved.share, hmoved.gov, hmoved.fieldTx, hmoved.urgent, hmoved.normal⟩

/-- Settles O20: by the kind of the order, and by whether an earlier order still awaits feedback. -/
theorem consumerOrderSent : Obligations.ConsumerOrderSent := by
  unfold Obligations.ConsumerOrderSent
  intro p w ha
  refine ⟨fun h => running_of_eq ha (by unfold orderSent; rw [h]), fun tx c a htx hw hb => ?_, fun tx htx hw => ?_⟩
  · have hsent := orderSent_consumer htx hw hb
    intro awaiting awaitedFor
    have hawaits : ∀ ms, feedbackTime a = some ms → awaitedFor ms := fun ms hms => by
      have hrun := hsent.trans (consumerOrderSent_awaits hms tx.order)
      refine ⟨fun hf => running_of_eq ha (hrun.trans (startFeedback_none (p := { p with fieldTx := none }) _ _ hf)),
        fun f b hf hfb => ?_⟩
      have hbeside := beside_orderOutcome c b .superseded (.refl (awaited c tx.order ms { p with fieldTx := none }))
      have hmoved := moved_orderOutcome c b .superseded (awaited c tx.order ms { p with fieldTx := none })
      exact ⟨_, running_of_eq ha (hrun.trans (startFeedback_supersedes (p := { p with fieldTx := none }) _ _ hf hfb)),
        hbeside.feedback, hmoved.fieldTx,
        orderOutcome_handedBack (p := awaited c tx.order ms { p with fieldTx := none }) (.inr rfl), hbeside.desk, hbeside.cfg,
        hbeside.clock, hbeside.map, hbeside.images, hmoved.seq, hmoved.urgent, hmoved.normal⟩
    refine ⟨?_, fun h => hawaits _ (by rw [h]; rfl), fun h => running_of_eq ha ?_, fun h => running_of_eq ha ?_⟩
    · rintro (h | h | ⟨kw, h⟩) <;> exact hawaits _ (by rw [h]; rfl)
    · rw [hsent, h]
      rfl
    · rw [hsent, h]
      exact grantSent_eq c tx.order.serial { p with fieldTx := none }
  · have hsent := orderSent_withdrawn htx hw
    cases hb : tx.order.body with
    | set k a =>
      refine ⟨{ p with fieldTx := none }, running_of_eq ha (hsent.trans ?_), rfl, rfl, rfl, rfl, rfl,
        (Beside.refl p).desk, rfl, rfl, rfl, rfl, fun _ => rfl, fun _ => rfl⟩
      rw [withdrawnOrderSent, hb]
    | consumer c a =>
      have hbeside := beside_orderOutcome c a .withdrawn (.refl { p with fieldTx := none })
      have hmoved := moved_orderOutcome c a .withdrawn { p with fieldTx := none }
      obtain ⟨hhist, hentry⟩ := orderOutcome_withdrawn c a { p with fieldTx := none }
      refine ⟨_, running_of_eq ha (hsent.trans ?_), hmoved.fieldTx, hbeside.feedback, hmoved.urgent, hmoved.normal,
        hmoved.seq, hbeside.desk, hbeside.cfg, hbeside.clock, hbeside.map, hbeside.images, hhist, fun hne => hentry (hne c rfl)⟩
      rw [withdrawnOrderSent, hb]

end Sys2Proof.Proofs
end

section
/-! Accepted CONSUMER STATUS records (R36, R38, R117, R127, R144, R145, R157, R161): the Shed Unit's part of the event, and then the
Reserve Unit's, which touches grants alone. -/

namespace Sys2Proof.Proofs

open Sys2Proof.Machine Sys2Proof.Claims

/-! ### Objects without a queued order -/

/-- No order in the queues is for this object. -/
def NoneFor (x : ObjectRef) (p : Part) : Prop := ∀ o ∈ p.urgent ++ p.normal, o.isFor x = false

section

variable {p : Part} {x : ObjectRef}

theorem queuedFor_eq_none : queuedFor p x = none ↔ NoneFor x p := by
  simp only [queuedFor, List.find?_eq_none, NoneFor, Bool.not_eq_true]

/-- An order that joins the queues adds at most itself to them (R28, R29). -/
theorem mem_joinQueues {b : OrderBody} {u : Bool} {o : Order}
    (h : o ∈ (joinQueues b u p).part.urgent ++ (joinQueues b u p).part.normal) :
    o ∈ p.urgent ++ p.normal ∨ o.body = b := by
  have hfull : o ∈ (queueFull b p).part.urgent ++ (queueFull b p).part.normal → o ∈ p.urgent ++ p.normal := fun h => by
    obtain ⟨f, r, t, n, e⟩ := occur_eq .orderQueueFull (objectNamed b.object) p
    rw [queueFull, e] at h
    exact h
  unfold joinQueues replaceOrder at h
  extract_lets new next swap at h
  have hswap : ∀ {l : List Order}, o ∈ l.map swap → o ∈ l ∨ o = new := fun hl => by
    obtain ⟨y, hy, rfl⟩ := List.mem_map.1 hl
    by_cases hf : y.isFor new.body.object = true
    · exact .inr (if_pos hf)
    · rw [show swap y = y from if_neg hf]
      exact .inl hy
  have hnew : o = new → o.body = b := fun h => h ▸ rfl
  simp only [List.mem_append]
  split at h
  · exact .inl (List.mem_append.1 h)
  · split at h
    · next old hold =>
      split at h
      · rcases List.mem_append.1 h with h | h
        · exact (hswap h).imp .inl hnew
        · exact (hswap h).imp .inr hnew
      · split at h
        · rcases List.mem_append.1 h with h | h
          · exact (List.mem_append.1 h).imp .inl fun h => hnew (List.mem_singleton.1 h)
          · exact .inl (.inr (List.mem_filter.1 h).1)
        · split at h
          · rcases List.mem_append.1 h with h | h
            · exact .inl (.inl (List.mem_filter.1 h).1)
            · exact (List.mem_append.1 h).imp .inr fun h => hnew (List.mem_singleton.1 h)
          · exact .inl (List.mem_append.1 (hfull h))
    · split at h
      · rcases List.mem_append.1 h with h | h
        · exact (List.mem_append.1 h).imp .inl fun h => hnew (List.mem_singleton.1 h)
        · exact .inl (.inr h)
      · split at h
        · rcases List.mem_append.1 h with h | h
          · exact .inl (.inl h)
          · exact (List.mem_append.1 h).imp .inr fun h => hnew (List.mem_singleton.1 h)
        · exact .inl (List.mem_append.1 (hfull h))

/-- The arbiter takes orders out of the queues alone (R32). -/
theorem mem_arbitrate {o : Order} (h : o ∈ (arbitrate p).urgent ++ (arbitrate p).normal) : o ∈ p.urgent ++ p.normal := by
  unfold arbitrate at h
  split at h
  · split at h
    · next hu =>
      rw [hu]
      exact List.mem_cons_of_mem _ h
    · next hu hn =>
      rw [hu, hn]
      have h' : o ∈ p.urgent ++ _ := h
      rw [hu] at h'
      exact List.mem_cons_of_mem _ h'
    · exact h
  · exact h

theorem mem_handOver {b : OrderBody} {u : Bool} {o : Order}
    (h : o ∈ (handOver b u p).part.urgent ++ (handOver b u p).part.normal) : o ∈ p.urgent ++ p.normal ∨ o.body = b := by
  rw [handOver_part] at h
  split at h
  · exact mem_joinQueues (mem_arbitrate h)
  · exact mem_joinQueues h

theorem noneFor_handOver {b : OrderBody} {u : Bool} (hb : b.object ≠ x) (h : NoneFor x p) :
    NoneFor x (handOver b u p).part := fun o ho => by
  rcases mem_handOver ho with ho | rfl
  · exact h o ho
  · exact beq_eq_false_iff_ne.2 hb

theorem noneFor_dropQueued (x : ObjectRef) (p : Part) : NoneFor x (dropQueued x p) := fun o ho => by
  rcases List.mem_append.1 ho with ho | ho <;> exact Bool.not_eq_true' _ ▸ (List.mem_filter.1 ho).2

theorem noneFor_handSet {k : SetNo} {a : SetOrder} (hx : x ≠ .set k) (h : NoneFor x p) : NoneFor x (handSet k a p).1 := by
  obtain ⟨⟨l, hl⟩, -⟩ := handSet_eq k a p
  rw [hl]
  exact noneFor_handOver (b := .set k a) (Ne.symm hx) h

/-- The Reserve Unit's tests and the release of a grant hand over orders of sets alone. -/
theorem grants_noneFor (c : ConsumerNo) : Grants (NoneFor (.consumer c)) where
  share _ _ h := h
  gov _ _ _ h := h
  selection _ _ h := h
  inFlight _ _ h := h
  occurs p k o h := by
    obtain ⟨f, r, t, n, e⟩ := occur_eq k o p
    rw [e]
    exact h
  tables _ _ _ _ h := h
  starts p k h := by
    unfold startRequest
    split
    · extract_lets begun handed started
      have hhanded : NoneFor (.consumer c) handed.1 := noneFor_handSet (p := begun.part) nofun h
      split <;> exact hhanded
    · exact h
  abandons p k h := by
    unfold abandonRequest
    split <;> exact h
  grants _ _ _ h := h

end

/-! ### The Reserve Unit and the draw (R117) -/

section

variable {p q : Part} {c : ConsumerNo} {i : IslandNo} {g : HeavyGrant}

theorem drawReported_releases (hg : grantOf p c = some g) (h : g.kw ≤ p.consumerImage[c].kw * 2) :
    drawReported c p = releaseGrant c p := by
  unfold drawReported
  rw [hg]
  exact if_pos h

theorem drawReported_holds (hg : grantOf p c = some g) (h : p.consumerImage[c].kw * 2 < g.kw) : drawReported c p = p := by
  unfold drawReported
  rw [hg]
  exact if_neg (Nat.not_le.2 h)

theorem drawReported_entry (c : ConsumerNo) (p : Part) : (drawReported c p).entry = p.entry :=
  grants_drawReported (grants_entry p.entry) c rfl

theorem drawReported_history (c : ConsumerNo) (p : Part) : SameHistory p (drawReported c p) :=
  field_of_held (held_of_held (fun x => x.2.2.2)
    (grants_drawReported (grants_held (held keptBesideGrants p)) c rfl))

end

/-! ### The Shed Unit's part (R36, R38, R127, R145) -/

section

variable {p : Part} {c : ConsumerNo} {a : ConsumerOrder} {old : ConsumerImage}

theorem confirmedOrder_none (h : p.feedback[c] = none) : confirmedOrder p c = none := by
  unfold confirmedOrder
  rw [h]

theorem confirmedOrder_some {f : Feedback} (h : p.feedback[c] = some f) (hb : f.order.body = .consumer c a)
    (hc : confirms a p.consumerImage[c] = true) : confirmedOrder p c = some a := by
  obtain ⟨⟨serial, body, urgent⟩, d⟩ := f
  cases hb
  unfold confirmedOrder
  rw [h]
  exact if_pos hc

theorem consumerChanged_confirms (h : confirmedOrder p c = some a) :
    consumerChanged c old p = orderOutcome c a .confirmed (dropFeedback c p) := by
  unfold consumerChanged
  rw [h]

theorem consumerChanged_external (h : p.feedback[c] = none)
    (hm : old.closed ≠ p.consumerImage[c].closed ∨ old.limit ≠ p.consumerImage[c].limit) :
    consumerChanged c old p = externalChange c old p := by
  unfold consumerChanged
  rw [confirmedOrder_none h]
  refine if_neg fun heq => ?_
  rw [Bool.and_eq_true, beq_iff_eq, beq_iff_eq] at heq
  exact hm.elim (absurd heq.1) (absurd heq.2)

theorem consumerChanged_same (h : p.feedback[c] = none) (hc : old.closed = p.consumerImage[c].closed)
    (hl : old.limit = p.consumerImage[c].limit) : consumerChanged c old p = p := by
  unfold consumerChanged
  rw [confirmedOrder_none h]
  exact if_pos (by rw [hc, hl, beq_self_eq_true, beq_self_eq_true]; rfl)

/-- An entry that enters another state than SHED_PENDING, but for the flag of a failed trip or restoring. -/
def enteredEntry (r : EntryRecord) (st : EntryState) : EntryRecord :=
  { state := some st, tripFailed := if st = .connected then r.tripFailed else false,
    restoreFailed := if st = .connected then false else r.restoreFailed, relief := 0, cause := none }

theorem enterEntry_entry {st : EntryState} (h : st = .shed ∨ st = .connected ∨ st = .openExternal) (c : ConsumerNo) (p : Part) :
    (enterEntry c st p).entry = p.entry.set c (enteredEntry p.entry[c] st) := by
  rcases h with rfl | rfl | rfl <;> rfl

/-- A confirmed shed order: its entry is SHED, with a record on top (R144, R156). -/
theorem orderOutcome_shedConfirmed {i : IslandNo} {cause : ShedCause} (ha : a = .trip ∨ ∃ kw, a = .limit kw)
    (hs : p.entry[c].state = some .shedPending) (hcause : p.entry[c].cause = some cause) (hi : entryIsland p c = some i)
    (hisland : p.islands[i].isSome = true) :
    (orderOutcome c a .confirmed p).entry = p.entry.set c (enteredEntry p.entry[c] .shed)
    ∧ (island (orderOutcome c a .confirmed p) i).history
      = { consumer := c, time := p.clock, cause := cause, offered := p.entry[c].relief } :: (island p i).history := by
  obtain ⟨r, hr⟩ : ∃ r : HistoryRecord, r = { consumer := c, time := p.clock, cause := cause, offered := p.entry[c].relief } :=
    ⟨_, rfl⟩
  have hshed : entryShed c p = pushRecord i r (enterEntry c .shed p) := by
    unfold entryShed
    rw [hi, hr]
    dsimp only
    rw [hcause]
    rfl
  have hrun : orderOutcome c a .confirmed p = rebuildFor c (endShedFor c (pushRecord i r (enterEntry c .shed p))) := by
    rw [orderOutcome_shed ha, ← hshed]
    exact if_pos (entryIs_iff.2 hs)
  rw [hrun, ← hr]
  refine ⟨?_, ?_⟩
  · rw [rebuildFor_entry, endShedFor_entry, pushRecord_entry, enterEntry_entry (.inl rfl)]
  · rw [rebuildFor_history, endShedFor_history, pushRecord_history (p := enterEntry c .shed p) hisland]
    rfl

/-- A confirmed restore order: its entry is CONNECTED, its record gone (R157, R161). -/
theorem orderOutcome_restoreConfirmed (ha : a = .close ∨ a = .release) (hs : p.entry[c].state = some .restorePending) :
    (orderOutcome c a .confirmed p).entry = p.entry.set c (enteredEntry p.entry[c] .connected)
    ∧ RecordGone p (orderOutcome c a .confirmed p) c ∧ Flagged (orderOutcome c a .confirmed p) .restored := by
  obtain ⟨told, htold⟩ : ∃ q, q = occur .restored (.consumer c) (enterEntry c .connected (removeRecord c p)) := ⟨_, rfl⟩
  have hrun : orderOutcome c a .confirmed p = rebuildFor c (endStepFor c told) := by
    rw [orderOutcome_restore ha, htold]
    exact if_pos (entryIs_iff.2 hs)
  have hafter : Moved told (rebuildFor c (endStepFor c told)) := ((Moved.refl _).endStepFor c).rebuildFor c
  have hentry : told.entry = p.entry.set c (enteredEntry p.entry[c] .connected) := by
    rw [htold, occur_entry, enterEntry_entry (.inr (.inl rfl)), removeRecord_entry]
  have hgone : RecordGone p told c := fun j => by
    rw [htold, occur_history]
    exact removeRecord_gone c p j
  rw [hrun]
  refine ⟨?_, fun j => ?_, hafter.flag _ (htold ▸ occur_flagged _ _ _)⟩
  · rw [rebuildFor_entry, endStepFor_entry, hentry]
  · rw [rebuildFor_history, endStepFor_history, hgone]

theorem restoredOutside_entry (c : ConsumerNo) (p : Part) :
    (restoredOutside c p).entry = p.entry.set c (enteredEntry p.entry[c] .connected)
    ∧ RecordGone p (restoredOutside c p) c := by
  refine ⟨?_, removeRecord_gone c p⟩
  rw [restoredOutside, enterEntry_entry (.inr (.inl rfl)), removeRecord_entry]

/-- A restore order withdrawn for an entry that is CONNECTED already changes no entry (R161). -/
theorem withdrawRestore_connected (h : p.entry[c].state = some .connected) :
    (withdrawRestore c p).entry = p.entry ∧ SameHistory p (withdrawRestore c p)
    ∧ (restoreQueued p c = true → queuedFor (withdrawRestore c p) (.consumer c) = none) := by
  unfold withdrawRestore
  split
  · have hrun : restoreOutcome c .withdrawn (dropQueued (.consumer c) p) = endStepFor c (dropQueued (.consumer c) p) :=
      if_neg fun hs => by
        rw [entryIs_iff] at hs
        exact nomatch hs.symm.trans h
    rw [hrun]
    refine ⟨endStepFor_entry c _, endStepFor_history c _, fun _ => ?_⟩
    rw [endStepFor_eq]
    exact queuedFor_eq_none.2 (noneFor_dropQueued (.consumer c) p)
  · next h => exact ⟨rfl, fun _ => rfl, fun h' => absurd h' h⟩

theorem withdrawRestore_reserve (c : ConsumerNo) (p : Part) (j : IslandNo) :
    (island (withdrawRestore c p) j).reserve = (island p j).reserve := by
  unfold withdrawRestore
  split
  · exact ((Moved.refl (dropQueued (.consumer c) p)).restoreOutcome c .withdrawn).reserve j
  · rfl

theorem moved_restoredOutside (c : ConsumerNo) (p : Part) : Moved p (rebuildFor c (restoredOutside c p)) :=
  (((Moved.refl p).removeRecord c).enterEntry c _).rebuildFor c

/-- The Shed Unit changes no reserve record. -/
theorem consumerChanged_reserve (c : ConsumerNo) (old : ConsumerImage) (p : Part) (j : IslandNo) :
    (island (consumerChanged c old p) j).reserve = (island p j).reserve := by
  unfold consumerChanged
  split
  · next a _ => exact (moved_orderOutcome c a .confirmed (dropFeedback c p)).reserve j
  · dsimp only
    split
    · rfl
    · unfold externalChange
      dsimp only
      split
      · split
        · exact (((Moved.refl p).enterEntry c _).rebuildFor c).reserve j
        · rfl
      · split
        · exact (((Moved.refl p).enterEntry c _).rebuildFor c).reserve j
        · rfl
      · split
        · exact (moved_restoredOutside c p).reserve j
        · rfl
      · split
        · rw [withdrawRestore_reserve]
          exact (moved_restoredOutside c p).reserve j
        · rfl
      · rfl
      · rfl

/-- The Shed Unit changes nothing beside the units but the consumer's feedback timer. -/
theorem consumerChanged_beside (c : ConsumerNo) (old : ConsumerImage) (p : Part) :
    ∃ v, Beside { p with feedback := v } (consumerChanged c old p) := by
  unfold consumerChanged
  split
  · next a _ => exact ⟨p.feedback.set c none, beside_orderOutcome c a .confirmed (.refl (dropFeedback c p))⟩
  · refine ⟨p.feedback, ?_⟩
    dsimp only
    split
    · exact .refl p
    · exact calm_externalChange (units_beside p).toCalm c old (.refl p)

theorem reportedRestored_iff {e : EntryConfig} {r : ConsumerImage} :
    reportedRestored e.kind r = true ↔ r.closed = true ∧ (e.kind = .limitable → r.limit = none) := by
  cases e.kind <;> simp [reportedRestored]

theorem externalChange_opens (h : p.entry[c].state = some .connected) (ho : old.closed = true)
    (hn : p.consumerImage[c].closed = false) : externalChange c old p = rebuildFor c (enterEntry c .openExternal p) := by
  unfold externalChange
  dsimp only
  rw [h, ho, hn]
  rfl

theorem externalChange_closes (h : p.entry[c].state = some .openExternal) (ho : old.closed = false)
    (hn : p.consumerImage[c].closed = true) : externalChange c old p = rebuildFor c (enterEntry c .connected p) := by
  unfold externalChange
  dsimp only
  rw [h, ho, hn]
  rfl

theorem externalChange_pending (h : p.entry[c].state = some .shedPending) : externalChange c old p = p := by
  unfold externalChange
  dsimp only
  rw [h]

/-- A SHED or RESTORE_PENDING entry stays as it is until its consumer is reported restored (R145). -/
theorem externalChange_unrestored {e : EntryConfig} (he : entryCfg p c = some e)
    (hs : p.entry[c].state = some .shed ∨ p.entry[c].state = some .restorePending)
    (hr : ¬(reportedRestored e.kind p.consumerImage[c] = true)) : externalChange c old p = p := by
  unfold externalChange
  dsimp only
  rw [he]
  rcases hs with hs | hs <;> rw [hs] <;> exact if_neg hr

/-- A SHED or RESTORE_PENDING entry is CONNECTED as its consumer is reported restored (R145, R157). -/
theorem externalChange_restored {e : EntryConfig} (he : entryCfg p c = some e)
    (hs : p.entry[c].state = some .shed ∨ p.entry[c].state = some .restorePending)
    (hr : reportedRestored e.kind p.consumerImage[c] = true) :
    (externalChange c old p).entry = p.entry.set c (enteredEntry p.entry[c] .connected)
    ∧ RecordGone p (externalChange c old p) c
    ∧ (p.entry[c].state = some .restorePending → restoreQueued p c = true →
      queuedFor (externalChange c old p) (.consumer c) = none) := by
  obtain ⟨hentry, hgone⟩ := restoredOutside_entry c p
  obtain ⟨restored, hrestored⟩ : ∃ q, q = rebuildFor c (restoredOutside c p) := ⟨_, rfl⟩
  have hentry' : restored.entry = p.entry.set c (enteredEntry p.entry[c] .connected) := by
    rw [hrestored, rebuildFor_entry, hentry]
  have hgone' : RecordGone p restored c := fun j => by rw [hrestored, rebuildFor_history, hgone]
  rcases hs with hs | hs
  · have hrun : externalChange c old p = restored := by
      unfold externalChange
      dsimp only
      rw [he, hs]
      exact (if_pos hr).trans hrestored.symm
    rw [hrun]
    exact ⟨hentry', hgone', fun h => nomatch hs.symm.trans h⟩
  · have hrun : externalChange c old p = withdrawRestore c restored := by
      unfold externalChange
      dsimp only
      rw [he, hs]
      exact (if_pos hr).trans (congrArg _ hrestored.symm)
    have hconnected : restored.entry[c].state = some .connected := by
      rw [hentry']
      simp [enteredEntry]
    obtain ⟨hkept, hhist, hnone⟩ := withdrawRestore_connected hconnected
    have hmoved : Moved p restored := hrestored ▸ moved_restoredOutside c p
    rw [hrun]
    refine ⟨hkept.trans hentry', fun j => (hhist j).trans (hgone' j), fun _ hq => hnone ?_⟩
    rw [← hq, restoreQueued, restoreQueued, queuedFor, queuedFor, hmoved.urgent, hmoved.normal]

/-- The restore orders are queued under their bodies (R27). -/
theorem restoreQueued_of {o : Order} (h : queuedFor p (.consumer c) = some o)
    (hb : o.body = .consumer c .close ∨ o.body = .consumer c .release) : restoreQueued p c = true := by
  unfold restoreQueued
  rw [h]
  dsimp only
  rcases hb with hb | hb <;> rw [hb] <;> rfl

end

/-- What the Reserve Unit's part of the event keeps of the Shed Unit's. -/
theorem drawn_keeps {q changed : Part} {c : ConsumerNo} (h : q = changed ∨ q = drawReported c changed) :
    q.entry = changed.entry ∧ SameHistory changed q ∧ (∀ k, Flagged changed k → Flagged q k)
    ∧ (queuedFor changed (.consumer c) = none → queuedFor q (.consumer c) = none)
    ∧ (∀ o, Beside o changed → Beside o q) := by
  rcases h with rfl | rfl
  · exact ⟨rfl, fun _ => rfl, fun _ h => h, id, fun _ h => h⟩
  · exact ⟨drawReported_entry c changed, drawReported_history c changed,
      fun k h => handing_drawReported (units_flag k).toHanding c h,
      fun h => queuedFor_eq_none.2 (grants_drawReported (grants_noneFor c) c (queuedFor_eq_none.1 h)),
      fun o h => handing_drawReported (units_beside o).toHanding c h⟩

/-- The part with a consumer's record written (R4). -/
def consumerWritten (c : ConsumerNo) (r : ConsumerImage) (p : Part) : Part :=
  { p with consumerImage := p.consumerImage.set c r }

theorem consumerWritten_now (c : ConsumerNo) (r : ConsumerImage) (p : Part) : (consumerWritten c r p).consumerImage[c] = r :=
  Vector.getElem_set_self _

/-- Settles O16: the Shed Unit's part decides entry, history and order, the Reserve Unit's part the grant. -/
theorem consumerRecordAnswers : Obligations.ConsumerRecordAnswers := by
  unfold Obligations.ConsumerRecordAnswers
  intro p c e i closed kw limit hp he hi hisland became restored moved
  obtain ⟨image, himage⟩ : ∃ r : ConsumerImage, r =
      { closed := closed, kw := kw, limit := limit, fresh := p.consumerImage[c].fresh.accept 2000 p.clock } := ⟨_, rfl⟩
  have hclosed : image.closed = closed := by rw [himage]
  have hlimit : image.limit = limit := by rw [himage]
  have hkw : image.kw = kw := by rw [himage]
  have hnow := consumerWritten_now c image p
  obtain ⟨changed, hchanged⟩ : ∃ q, q = consumerChanged c p.consumerImage[c] (consumerWritten c image p) := ⟨_, rfl⟩
  obtain ⟨q, hq⟩ : ∃ q, q = if p.consumerImage[c].kw = kw then changed else drawReported c changed := ⟨_, rfl⟩
  have hrun : q = deliverRecord (.consumer c closed kw limit) p := by
    rw [hq, hchanged, himage]
    split
    · next h => exact (if_pos (beq_iff_eq.2 h)).symm
    · next h => exact (if_neg fun h' => h (beq_iff_eq.1 h')).symm
  have hor : q = changed ∨ q = drawReported c changed := by
    rw [hq]
    split
    · exact .inl rfl
    · exact .inr rfl
  obtain ⟨hentry, hhist, hflag, hnone, hbeside⟩ := drawn_keeps hor
  obtain ⟨fb, hside⟩ := consumerChanged_beside c p.consumerImage[c] (consumerWritten c image p)
  have hout := hbeside _ (hchanged ▸ hside)
  have hconfirmed : ∀ {f : Feedback} {a : ConsumerOrder}, p.feedback[c] = some f → f.order.body = .consumer c a →
      confirms a image = true → changed = orderOutcome c a .confirmed (dropFeedback c (consumerWritten c image p)) :=
    fun hf hb hc => hchanged.trans (consumerChanged_confirms (confirmedOrder_some hf hb (hnow.symm ▸ hc)))
  have hdropped : ∀ {a : ConsumerOrder}, changed = orderOutcome c a .confirmed (dropFeedback c (consumerWritten c image p)) →
      q.feedback = p.feedback.set c none := fun h =>
    (hbeside _ (h ▸ beside_orderOutcome _ _ _ (.refl (dropFeedback c (consumerWritten c image p))))).feedback
  have hexternal : p.feedback[c] = none → p.consumerImage[c].closed ≠ closed ∨ p.consumerImage[c].limit ≠ limit →
      changed = externalChange c p.consumerImage[c] (consumerWritten c image p) := fun hf hm => by
    refine hchanged.trans (consumerChanged_external (p := consumerWritten c image p) hf ?_)
    rw [hnow, hclosed, hlimit]
    exact hm
  have hsame : p.feedback[c] = none → ¬(p.consumerImage[c].closed ≠ closed ∨ p.consumerImage[c].limit ≠ limit) →
      changed = consumerWritten c image p := fun hf hm => by
    rw [not_or, not_not, not_not] at hm
    refine hchanged.trans (consumerChanged_same (p := consumerWritten c image p) hf ?_ ?_)
    · rw [hnow, hclosed]
      exact hm.1
    · rw [hnow, hlimit]
      exact hm.2
  refine ⟨q, hrun, hout.consumerImage.trans (by rw [← himage]; rfl), hout.desk, hout.cfg, hout.clock, hout.map,
    hout.setImage, congrArg (fun x => x.2.2.1) hout.images, congrArg (fun x => x.2.2.2) hout.images, ?_, ?_, ?_, ?_, ?_, ?_, ?_⟩
  · intro f a cause hf hb hreport hs hcause
    have ha : a = .trip ∨ ∃ l, a = .limit l := hreport.imp And.left fun ⟨l, hl, _⟩ => ⟨l, hl⟩
    have hc : confirms a image = true := by
      rcases hreport with ⟨rfl, h⟩ | ⟨l, rfl, h | ⟨l', h, hle⟩⟩
      · simp [confirms, hclosed, h]
      · simp [confirms, hclosed, h]
      · simp [confirms, hlimit, h, hle]
    have hran := hconfirmed hf hb hc
    obtain ⟨hset, hpushed⟩ := orderOutcome_shedConfirmed (p := dropFeedback c (consumerWritten c image p)) ha hs hcause hi hisland
    rw [← hran] at hset hpushed
    exact ⟨hdropped hran, hentry.trans hset, (hhist i).trans hpushed⟩
  · intro f a hf hb ha hshown hs
    have ha' : a = .close ∨ a = .release := ha.imp_right And.left
    have hc : confirms a image = true := by
      rcases ha with rfl | ⟨rfl, h⟩
      · simp [confirms, hclosed, hshown]
      · simp [confirms, hclosed, hlimit, hshown, h]
    have hran := hconfirmed hf hb hc
    obtain ⟨hset, hgone, hraised⟩ := orderOutcome_restoreConfirmed (p := dropFeedback c (consumerWritten c image p)) ha' hs
    rw [← hran] at hset hgone hraised
    exact ⟨hdropped hran, hentry.trans hset, fun j => (hhist j).trans (hgone j), hflag _ hraised⟩
  · intro hf hs hold hnew
    have hran := hexternal hf (.inl (by rw [hold, hnew]; exact nofun))
    rw [externalChange_opens (p := consumerWritten c image p) hs hold (by rw [hnow, hclosed, hnew])] at hran
    refine ⟨hentry.trans ?_, fun j => (hhist j).trans ?_⟩
    · rw [hran, rebuildFor_entry, enterEntry_entry (.inr (.inr rfl))]
      rfl
    · rw [hran, rebuildFor_history]
      rfl
  · intro hf hs hold hnew
    have hran := hexternal hf (.inl (by rw [hold, hnew]; exact nofun))
    rw [externalChange_closes (p := consumerWritten c image p) hs hold (by rw [hnow, hclosed, hnew])] at hran
    refine ⟨hentry.trans ?_, fun j => (hhist j).trans ?_⟩
    · rw [hran, rebuildFor_entry, enterEntry_entry (.inr (.inl rfl))]
      rfl
    · rw [hran, rebuildFor_history]
      rfl
  · intro hf hs hm hr
    have hshown : reportedRestored e.kind (consumerWritten c image p).consumerImage[c] = true := by
      rw [hnow]
      exact reportedRestored_iff.2 ⟨hclosed.trans hr.1, fun hk => hlimit.trans (hr.2 hk)⟩
    obtain ⟨hset, hgone, hdrop⟩ := externalChange_restored (p := consumerWritten c image p) (old := p.consumerImage[c]) he hs
      hshown
    rw [← hexternal hf hm] at hset hgone hdrop
    exact ⟨hentry.trans hset, fun j => (hhist j).trans (hgone j), fun o hs' ho hb =>
      hnone (hdrop hs' (restoreQueued_of (p := consumerWritten c image p) ho hb))⟩
  · intro hf hs
    have hstays : changed = consumerWritten c image p := by
      by_cases hm : moved
      · refine (hexternal hf hm).trans ?_
        rcases hs with hs | ⟨hs, hr⟩
        · exact externalChange_pending (p := consumerWritten c image p) hs
        · refine externalChange_unrestored (p := consumerWritten c image p) he hs fun h => hr ⟨hm, ?_⟩
          rw [hnow, reportedRestored_iff, hclosed, hlimit] at h
          exact h
      · exact hsame hf hm
    refine ⟨hentry.trans (by rw [hstays]; rfl), fun j => (hhist j).trans ?_⟩
    rw [hstays]
    rfl
  · intro j g hj hg
    have hreserve : ∀ j' : IslandNo, (island changed j').reserve.grants = (island p j').reserve.grants := fun j' =>
      congrArg ReserveRecord.grants (hchanged ▸ consumerChanged_reserve c p.consumerImage[c] (consumerWritten c image p) j')
    have hj' : grantIsland changed c = some j := (grantIsland_congr hreserve c).trans hj
    have hg' : grantOf changed c = some g := (grantOf_congr hreserve c).trans hg
    have hdraw : changed.consumerImage[c].kw = kw := by
      rw [hchanged, hside.consumerImage]
      exact (congrArg ConsumerImage.kw hnow).trans hkw
    refine ⟨fun hne hle => ?_, fun h j' => ?_⟩
    · rw [hq, if_neg hne, drawReported_releases hg' (by rw [hdraw]; omega), releaseGrant_grants hj', if_pos rfl, hreserve]
    · rw [← hreserve j', hq]
      rcases h with h | h
      · rw [if_pos h]
      · split
        · rfl
        · rw [drawReported_holds hg' (by rw [hdraw]; omega)]

end Sys2Proof.Proofs
end

section
/-! Sets' orders sent and set timers (R46, R49, R54, R55), and what the hand-on that follows can still do to the set. -/

namespace Sys2Proof.Proofs

open Sys2Proof.Machine Sys2Proof.Claims Sequenced

/-! ### The Reserve Unit's requests -/

section

variable {p : Part} {j k : SetNo}

theorem startRequest_steps (k : SetNo) (p : Part) : Steps k p (startRequest k p).1.part := by
  unfold startRequest
  split
  · extract_lets o handed o1
    have ho : Steps k p o.part := enter_steps _ ((Steps.refl k p).onSeq _)
    have h1 : Steps k p o1.part := ho.handSet _
    split
    · exact h1
    · exact enter_steps _ h1
  · exact .refl k p

theorem abandonRequest_steps (k : SetNo) (p : Part) : Steps k p (abandonRequest k p).part := by
  unfold abandonRequest
  split
  · exact enter_steps _ (((Steps.refl k p).onSeq _).onSeq _)
  · exact .refl k p

theorem startRequest_unmoved (h : p.seq[k].state ≠ some .standby) : (startRequest k p).1.part = p := by
  unfold startRequest
  rw [if_neg]
  · rfl
  · simp only [setStateIs, Bool.and_eq_true, beq_iff_eq, not_and]
    exact fun _ => h

theorem abandonRequest_unmoved (h : p.seq[k].state ≠ some .rampOut) : (abandonRequest k p).part = p := by
  unfold abandonRequest
  rw [if_neg]
  · rfl
  · simp only [setStateIs, Bool.and_eq_true, beq_iff_eq, not_and]
    exact fun h' => absurd h' h

/-- What the requests for a set keep of its record, the hand-on keeps. -/
theorem handing_record {P : SeqRecord → Prop} (hs : ∀ p : Part, P p.seq[k] → P (startRequest k p).1.part.seq[k])
    (ha : ∀ p : Part, P p.seq[k] → P (abandonRequest k p).part.seq[k]) : Handing (fun q => P q.seq[k]) where
  share _ _ h := h
  gov _ _ _ h := h
  selection _ _ h := h
  entry _ _ h := h
  inFlight _ _ h := h
  islands _ _ _ _ h := h
  occurs p e o h := by
    rw [occur_seq]
    exact h
  handed p c a u _ h := by
    rw [handOver_seq]
    exact h
  dropped _ _ h := h
  starts p j h := by
    by_cases hj : k = j
    · exact hj ▸ hs p h
    · rw [(startRequest_steps j p).others k hj]
      exact h
  abandons p j h := by
    by_cases hj : k = j
    · exact hj ▸ ha p h
    · rw [(abandonRequest_steps j p).others k hj]
      exact h

/-- The record of a set that has come to stand by with this record, and may have been started since (R45). -/
def Offered (r₀ r : SeqRecord) : Prop :=
  (r.state = some .standby ∨ r.state = some .starting) ∧ r.timer = none ∧ r.origin = r₀.origin ∧ r.slow = r₀.slow
  ∧ r.deadBusSent = r₀.deadBusSent

theorem offered_startRequest {r₀ : SeqRecord} (h : Offered r₀ p.seq[k]) :
    Offered r₀ (startRequest k p).1.part.seq[k] := by
  obtain ⟨hstate, htimer, horigin, hslow, hbus⟩ := h
  have hstopped : (stopSetTimer k p).seq[k] = { p.seq[k] with timer := none } := onSeq_self k _ p
  unfold startRequest
  split
  · extract_lets o handed o1
    have hk : o.part.seq[k] = { (stopSetTimer k p).seq[k] with state := some .starting, stayFrom := p.nextOrder } :=
      enter_self _ k .starting
    obtain ⟨l, hl⟩ := handSet_seq_self k .start o.part
    have h1 : o1.part.seq[k] = withOutcome l o.part.seq[k] := hl
    split
    · rw [Offered, h1, hk, hstopped]
      exact ⟨.inr rfl, rfl, horigin, hslow, hbus⟩
    · rw [Offered, enter_self, h1, hk, hstopped]
      exact ⟨.inl rfl, rfl, horigin, hslow, hbus⟩
  · exact ⟨hstate, htimer, horigin, hslow, hbus⟩

/-- A set that stands by may be started by the Reserve Unit as changes are handed on, and no more (R44, R45). -/
theorem handing_offered (k : SetNo) (r₀ : SeqRecord) : Handing (fun q => Offered r₀ q.seq[k]) :=
  handing_record (P := Offered r₀) (fun _ h => offered_startRequest h) fun p h => by
    rw [abandonRequest_unmoved]
    · exact h
    · rcases h.1 with h | h <;> rw [h] <;> exact nofun

/-- The hand-on leaves the order of a settled set standing. -/
theorem tests_standingSet {o : Order} {r : SeqRecord} (hr : Settled r) (ho : o.body.object = .set k) :
    Tests (fun q => q.seq[k] = r ∧ Standing o q) where
  share _ _ h := h
  gov _ _ _ h := h
  selection _ _ h := h
  inFlight _ _ h := h
  occurs p e x h := ⟨by rw [occur_seq]; exact h.1, bystander_standing_occur e x h.2⟩
  tables _ _ _ _ h := h
  starts p j h := by
    refine ⟨(handing_quiet k r hr).starts p j h.1, ?_⟩
    by_cases hj : k = j
    · subst hj
      rw [startRequest_unmoved (by rw [h.1]; exact hr.1)]
      exact h.2
    · have hhand : ∀ q : Part, Standing o q → Standing o (handSet j .start q).1 := fun q hq => by
        obtain ⟨⟨l, hl⟩, -⟩ := handSet_eq j .start q
        rw [hl]
        exact handOver_standing (b := .set j .start) (by rw [ho]; exact fun h => hj (ObjectRef.set.inj h)) hq
      unfold startRequest
      split
      · extract_lets begun handed started
        have h1 : Standing o started.part := hhand begun.part h.2
        split <;> exact h1
      · exact h.2
  abandons p j h := by
    refine ⟨(handing_quiet k r hr).abandons p j h.1, ?_⟩
    unfold abandonRequest
    split <;> exact h.2

/-- What the hand-on of an operation keeps of the set's own record and of its order, and beside the units (R44). -/
theorem handOn_settled {o : Sequenced} (h : Settled o.part.seq[k]) : o.handOn.seq[k] = o.part.seq[k] := handOn_quiet o k h

theorem handOn_raised {o : Sequenced} {a : SetOrder} (h : Settled o.part.seq[k]) (hr : Raised p o.part (.set k a)) :
    Raised p o.handOn (.set k a) := by
  obtain ⟨x, hb, hs, hx⟩ := hr
  exact ⟨x, hb, hs, (tests_handOn (tests_standingSet h (by rw [hb]; rfl)) o ⟨rfl, hx⟩).2⟩

theorem handOn_beside {o : Sequenced} (h : Beside p o.part) : Beside p o.handOn := units_handOn (units_beside p) o h

theorem handOn_flag {o : Sequenced} {e : EventKind} (h : Flagged o.part e) : Flagged o.handOn e :=
  units_handOn (units_flag e) o h

theorem handOn_offered {o : Sequenced} {r : SeqRecord} (h : Offered r o.part.seq[k]) : Offered r o.handOn.seq[k] :=
  handing_handOn (handing_offered k r) o h

/-- The operations on one set leave the other settled sets as they were (R44). -/
theorem handOn_others {o : Sequenced} (h : Steps k p o.part) : SameOthers p o.handOn k := fun j hj hset => by
  have hsame := h.others j hj
  have hset' : Settled o.part.seq[j] := hsame ▸ hset
  exact (handOn_settled hset').trans hsame

end

/-! ### The four timers (R46, R49, R54, R55) -/

section

variable {p : Part} {k : SetNo} {e : EventKind}

/-- A set is blocked with its event, its timer stopped and a STOP handed over (R46, R49). -/
def blockedWith (e : EventKind) (k : SetNo) (p : Part) : Sequenced :=
  (sequenced (handSet k .stop (stopSetTimer k (occur e (.set k) p))).1).enter k .blocked

theorem syncExpired_eq (k : SetNo) (p : Part) : syncExpired k p = blockedWith .syncFail k p := rfl

theorem startExpired_slow (h : p.seq[k].slow = true) : startExpired k p = blockedWith .startFail k p := if_pos h

theorem room_occur (e : EventKind) (x : EventObject) (h : Room p) : Room (occur e x p) := by
  obtain ⟨f, r, t, n, heq⟩ := occur_eq e x p
  rw [heq]
  exact h

theorem stopped_steps (e : EventKind) (k : SetNo) (p : Part) : Steps k p (stopSetTimer k (occur e (.set k) p)) :=
  ((Steps.refl k p).occur e _).onSeq _

theorem stopped_self (e : EventKind) (k : SetNo) (p : Part) :
    (stopSetTimer k (occur e (.set k) p)).seq[k] = { p.seq[k] with timer := none } := by
  refine (onSeq_self k _ _).trans ?_
  rw [occur_seq]

theorem blockedWith_steps (e : EventKind) (k : SetNo) (p : Part) : Steps k p (blockedWith e k p).part :=
  enter_steps _ ((stopped_steps e k p).handSet _)

theorem blockedWith_self (e : EventKind) (k : SetNo) (p : Part) :
    (blockedWith e k p).part.seq[k].state = some .blocked ∧ (blockedWith e k p).part.seq[k].timer = none := by
  obtain ⟨l, hl⟩ := handSet_seq_self k .stop (stopSetTimer k (occur e (.set k) p))
  rw [blockedWith, enter_self]
  refine ⟨rfl, ?_⟩
  change (handSet k .stop (stopSetTimer k (occur e (.set k) p))).1.seq[k].timer = none
  rw [hl, stopped_self]
  rfl

theorem blockedWith_flag (e : EventKind) (k : SetNo) (p : Part) : Flagged (blockedWith e k p).part e := by
  have hflag : Flagged (stopSetTimer k (occur e (.set k) p)) e := occur_flagged e _ p
  exact (enter_steps (o := sequenced _) .blocked ((Steps.refl k _).handSet .stop)).flag e hflag

theorem blockedWith_raised (hc : setConfigured p k = true) (hr : Room p) : Raised p (blockedWith e k p).part (.set k .stop) := by
  have hroom : Room (stopSetTimer k (occur e (.set k) p)) := room_occur e (.set k) hr
  obtain ⟨-, hraised⟩ := handSet_raises (a := .stop) (((stopped_steps e k p).setConfigured k).trans hc) hroom
  exact raised_since hraised (stopped_steps e k p).orders

theorem blocked_settled {r : SeqRecord} (h : r.state = some .blocked) : Settled r := by
  rw [Settled, h]
  exact ⟨nofun, nofun⟩

theorem setTimerRuns_of {t : SetTimer} {d : Nat} (h : p.seq[k].timer = some (t, d)) (hs : p.seq[k].state = some t.runsIn) :
    setTimerRuns p k t = some d := by
  unfold setTimerRuns
  rw [h]
  exact if_pos ⟨rfl, hs⟩

theorem setTimerExpired_runs {t : SetTimer} {d : Nat} {f : SetNo → Part → Sequenced} (h : p.seq[k].timer = some (t, d))
    (hs : p.seq[k].state = some t.runsIn) : setTimerExpired t f k p = (f k (at' d p)).handOn := by
  unfold setTimerExpired
  rw [setTimerRuns_of h hs]
  rfl

theorem setTimerExpired_stopped {t : SetTimer} {f : SetNo → Part → Sequenced} (h : p.seq[k].timer = none) :
    setTimerExpired t f k p = p := by
  unfold setTimerExpired setTimerRuns
  rw [h]

/-- What an occurrence does has nothing to do with the sets' records. -/
theorem occur_withSeq (e : EventKind) (x : EventObject) (v : Vector SeqRecord 8) (p : Part) :
    occur e x { p with seq := v } = { occur e x p with seq := v } := by
  have hsend : ∀ q : Part, sendReport { q with seq := v } = { sendReport q with seq := v } := fun q => by
    by_cases h : (q.supTx.isNone && q.replies.isEmpty && decide (0 < q.allowance)) = true
    · cases hr : q.reports with
      | nil =>
        simp only [sendReport, h, hr, if_true]
      | cons r rest =>
        simp only [sendReport, h, hr, if_true]
        rfl
    · simp only [sendReport, h, if_false, Bool.false_eq_true]
  by_cases he : p.cfg.enable.getLsbD e.index = true ∧ e ≠ .reportOverflow
  · rw [occur_enabled (p := { p with seq := v }) he, occur_enabled he]
    cases hr : p.reports.any (Report.concerns e x) with
    | true =>
      rw [queueReport_coalesces (p := flagged e { p with seq := v }) hr, queueReport_coalesces (p := flagged e p) hr]
      rfl
    | false =>
      by_cases hl : p.reports.length < 32
      · rw [queueReport_queues (p := flagged e { p with seq := v }) hr hl, queueReport_queues (p := flagged e p) hr hl,
          ← hsend]
        rfl
      · rw [queueReport_overflows (p := flagged e { p with seq := v }) hr (Nat.not_lt.mp hl),
          queueReport_overflows (p := flagged e p) hr (Nat.not_lt.mp hl)]
        rfl
  · rw [occur_disabled (p := { p with seq := v }) he, occur_disabled he]
    rfl

theorem occur_onSeq (e : EventKind) (x : EventObject) (f : SeqRecord → SeqRecord) (p : Part) :
    onSeq k f (occur e x p) = occur e x (onSeq k f p) := by
  rw [onSeq, occur_seq]
  exact (occur_withSeq e x _ p).symm

theorem onSeq_onSeq (k : SetNo) (f g : SeqRecord → SeqRecord) (p : Part) :
    onSeq k f (onSeq k g p) = onSeq k (fun r => f (g r)) p := by
  simp only [onSeq, modifyAt, Fin.getElem_fin, Vector.set_set, Vector.getElem_set_self]

theorem startExpired_first (h : p.seq[k].slow = false) : startExpired k p = sequenced (occur .startSlow (.set k)
    { p with
      seq := p.seq.set k
        { p.seq[k] with slow := true, timer := some (.start, p.clock + p.cfg.sets[k].startTime * 1000) } }) := by
  unfold startExpired
  rw [h, if_neg Bool.false_ne_true]
  obtain ⟨slowed, hslowed⟩ : ∃ q, q = onSeq k (fun r => { r with slow := true }) p := ⟨_, rfl⟩
  have hclock : (occur .startSlow (.set k) slowed).clock = p.clock := by rw [occur_clock, hslowed, onSeq]
  have hcfg : (occur .startSlow (.set k) slowed).cfg = p.cfg := by
    rw [((Steps.refl k slowed).occur _ _).cfg, hslowed, onSeq]
  rw [← hslowed, startSetTimer, after, hclock, occur_onSeq, hslowed, onSeq_onSeq]
  rfl

/-- What an operation that settles the set leaves once its changes are handed on. -/
theorem handOn_settles {o : Sequenced} {st : SetState} (hsteps : Steps k p o.part) (hbeside : Beside p o.part)
    (hs : o.part.seq[k].state = some st) (htimer : o.part.seq[k].timer = none) (hflag : Flagged o.part e)
    (hst : st ≠ .standby ∧ st ≠ .rampOut) :
    o.handOn.seq[k].state = some st ∧ o.handOn.seq[k].timer = none ∧ Flagged o.handOn e ∧ SameAside p o.handOn
    ∧ SameOthers p o.handOn k := by
  have hsettled : Settled o.part.seq[k] := by
    rw [Settled, hs]
    exact ⟨fun h => hst.1 (Option.some.inj h), fun h => hst.2 (Option.some.inj h.1)⟩
  have hself := handOn_settled hsettled
  exact ⟨(congrArg SeqRecord.state hself).trans hs, (congrArg SeqRecord.timer hself).trans htimer, handOn_flag hflag,
    (handOn_beside hbeside).sameAside, handOn_others hsteps⟩

end

/-! ### A breaker that did not open, and a stop that did not end (R54, R55) -/

section

variable {p : Part} {k : SetNo}

theorem setOrigin_self (k : SetNo) (x : Option RampOrigin) (p : Part) :
    (setOrigin k x p).seq[k] = { p.seq[k] with origin := x } := onSeq_self k _ p

theorem clearSlow_self (k : SetNo) (p : Part) : (clearSlow k p).seq[k] = { p.seq[k] with slow := false } := onSeq_self k _ p

theorem openFailed_steps {o : Sequenced} (h : Steps k p o.part) : Steps k p (o.openFailed k).part := by
  have hstopped : Steps k p (stopSetTimer k (occur .openFail (.set k) o.part)) := (h.occur _ _).onSeq _
  exact enter_steps _ ((hstopped.onSeq _).onSeq _)

theorem openFailed_self (o : Sequenced) (k : SetNo) :
    (o.openFailed k).part.seq[k] = { o.part.seq[k] with
      state := some .onBus, timer := none, slow := false, origin := none, stayFrom := o.part.nextOrder } := by
  have horders : (occur .openFail (.set k) o.part).nextOrder = o.part.nextOrder := by
    obtain ⟨f, r, t, n, e⟩ := occur_eq .openFail (.set k) o.part
    rw [e]
  have hrecord := (setOrigin_self k none (clearSlow k (stopSetTimer k (occur .openFail (.set k) o.part))))
  rw [clearSlow_self, stopped_self] at hrecord
  rw [Sequenced.openFailed, enter_self]
  simp only [Sequenced.on, hrecord]
  rw [← horders]
  rfl

theorem openFailed_flag (o : Sequenced) (k : SetNo) : Flagged (o.openFailed k).part .openFail := by
  have hflag := occur_flagged .openFail (.set k) o.part
  have hrest := ((Steps.refl k (occur .openFail (.set k) o.part)).onSeq fun r => { r with timer := none })
  exact (enter_steps (o := (o.on fun p => setOrigin k none (clearSlow k (stopSetTimer k (occur .openFail (.set k) p))))) .onBus
    ((hrest.onSeq _).onSeq _)).flag _ hflag

theorem stopExpired_steps (k : SetNo) (p : Part) : Steps k p (stopExpired k p).part :=
  enter_steps (o := sequenced _) _ (stopped_steps .stopFail k p)

theorem stopExpired_self (k : SetNo) (p : Part) :
    (stopExpired k p).part.seq[k].state = some .blocked ∧ (stopExpired k p).part.seq[k].timer = none := by
  have hrecord := stopped_self .stopFail k p
  rw [stopExpired, enter_self]
  simp only [sequenced, hrecord, and_self]

theorem stopExpired_flag (k : SetNo) (p : Part) : Flagged (stopExpired k p).part .stopFail := by
  have hflag := occur_flagged .stopFail (.set k) p
  have hrest := ((Steps.refl k (occur .stopFail (.set k) p)).onSeq fun r => { r with timer := none })
  exact (enter_steps (o := sequenced (stopSetTimer k (occur .stopFail (.set k) p))) .blocked hrest).flag _ hflag

end

/-- Settles O23: each timer's own operation, and then the hand-on, which leaves a settled set as it is. -/
theorem setTimersRunOut : Obligations.SetTimersRunOut := by
  unfold Obligations.SetTimersRunOut
  intro p w k d ha ends
  have hsome : ∀ {st : SetState}, p.seq[k].state = some st → (at' d p).seq[k].state.isSome = true := fun h => by
    rw [show (at' d p).seq[k].state = some _ from h]
    rfl
  have hblocks : ∀ e, (st : SetState) → p.seq[k].state = some st → Beside (at' d p) (blockedWith e k (at' d p)).part →
      (blockedWith e k (at' d p)).handOn.seq[k].state = some .blocked
      ∧ (blockedWith e k (at' d p)).handOn.seq[k].timer = none ∧ Flagged (blockedWith e k (at' d p)).handOn e
      ∧ SameAside (at' d p) (blockedWith e k (at' d p)).handOn ∧ SameOthers p (blockedWith e k (at' d p)).handOn k
      ∧ (true = true → setConfigured p k = true → Room p → Raised p (blockedWith e k (at' d p)).handOn (.set k .stop)) :=
    fun e st hs hbeside => by
      obtain ⟨hstate, htimer⟩ := blockedWith_self e k (at' d p)
      obtain ⟨h1, h2, h3, h4, h5⟩ := handOn_settles (blockedWith_steps e k (at' d p)) hbeside hstate htimer
        (blockedWith_flag e k (at' d p)) ⟨nofun, nofun⟩
      exact ⟨h1, h2, h3, h4, h5, fun _ hc hr => handOn_raised (p := at' d p) (blocked_settled hstate)
        (blockedWith_raised (p := at' d p) hc hr)⟩
  refine ⟨fun hs htimer hslow => ?_, fun hs htimer hslow => ?_, fun hs htimer => ?_, fun hs htimer => ?_, fun hs htimer => ?_,
    fun h c hc => ?_⟩
  · refine running_of_eq ha ((setTimerExpired_runs htimer hs).trans ?_)
    rw [startExpired_first (p := at' d p) hslow, handOn_nil rfl]
    rfl
  · have hrun : startExpired k (at' d p) = blockedWith .startFail k (at' d p) := startExpired_slow (p := at' d p) hslow
    exact ⟨_, running_of_eq ha ((setTimerExpired_runs htimer hs).trans (congrArg Sequenced.handOn hrun)),
      hblocks .startFail _ hs (hrun ▸ units_startExpired (units_beside _) k (hsome hs) (.refl _))⟩
  · exact ⟨_, running_of_eq ha (setTimerExpired_runs htimer hs),
      hblocks .syncFail _ hs (units_syncExpired (units_beside _) k (hsome hs) (.refl _))⟩
  · have hself := openFailed_self (sequenced (at' d p)) k
    have h := handOn_settles (openFailed_steps (o := sequenced (at' d p)) (.refl k _))
      (units_openFailed (units_beside _) _ k (hsome hs) (.refl _)) (st := .onBus)
      (congrArg SeqRecord.state hself) (congrArg SeqRecord.timer hself) (openFailed_flag _ k) ⟨nofun, nofun⟩
    obtain ⟨h1, h2, h3, h4, h5⟩ := h
    exact ⟨_, running_of_eq ha (setTimerExpired_runs htimer hs), h1, h2, h3, h4, h5, nofun⟩
  · obtain ⟨hstate, hstopped⟩ := stopExpired_self k (at' d p)
    obtain ⟨h1, h2, h3, h4, h5⟩ := handOn_settles (stopExpired_steps k (at' d p))
      (units_stopExpired (units_beside _) k (hsome hs) (.refl _)) hstate hstopped (stopExpired_flag k _) ⟨nofun, nofun⟩
    exact ⟨_, running_of_eq ha (setTimerExpired_runs htimer hs), h1, h2, h3, h4, h5, nofun⟩
  · simp only [List.mem_cons, List.not_mem_nil, or_false] at hc
    rcases hc with rfl | rfl | rfl | rfl <;> exact running_of_eq ha (setTimerExpired_stopped h)

/-! ### Sets' orders sent (R46, R49, R54, R55, R56) -/

section

variable {p : Part} {k : SetNo} {a : SetOrder} {serial : Nat}

theorem orderSent_set {tx : OrderInTransmission} (htx : p.fieldTx = some tx) (hw : tx.withdrawn = false)
    (hb : tx.order.body = .set k a) :
    orderSent p = (setOrderSent k a tx.order.serial { p with fieldTx := none }).handOn := by
  unfold orderSent
  rw [htx]
  simp only [hw, hb, Bool.false_eq_true, if_false]

/-- The part with a set's order recorded as sent, and this set timer (R42). -/
def sentWith (k : SetNo) (a : SetOrder) (timer : Option (SetTimer × Nat)) (p : Part) : Part :=
  { p with seq := p.seq.set k { p.seq[k] with timer := timer, lastOutcome := some (a, .sent) } }

theorem sentWith_self (k : SetNo) (a : SetOrder) (timer : Option (SetTimer × Nat)) (p : Part) :
    (sentWith k a timer p).seq[k] = { p.seq[k] with timer := timer, lastOutcome := some (a, .sent) } :=
  Vector.getElem_set_self _

theorem noteOutcome_sent (k : SetNo) (a : SetOrder) (p : Part) : noteOutcome k a .sent p = sentWith k a p.seq[k].timer p := rfl

theorem startSetTimer_sent (k : SetNo) (a : SetOrder) (t : SetTimer) (ms : Nat) (p : Part) :
    startSetTimer k t ms (noteOutcome k a .sent p) = sentWith k a (some (t, p.clock + ms)) p := by
  rw [startSetTimer, noteOutcome, onSeq_onSeq]
  rfl

theorem setOrderSent_start (h : p.seq[k].state = some .starting) :
    setOrderSent k .start serial p
      = sequenced (sentWith k .start (some (.start, p.clock + p.cfg.sets[k].startTime * 1000)) p) := by
  unfold setOrderSent
  extract_lets noted ofStay
  rw [h]
  exact congrArg sequenced (startSetTimer_sent k .start .start _ p)

theorem setTimerRuns_none {t : SetTimer} (h : ∀ d, p.seq[k].timer ≠ some (t, d)) : setTimerRuns p k t = none := by
  unfold setTimerRuns
  split
  · next t' d ht => exact if_neg fun hc : t' = t ∧ _ => h d (hc.1 ▸ ht)
  · rfl

theorem setOrderSent_sync {b : Bool} (h : p.seq[k].state = some .synchronising) (hs : p.seq[k].stayFrom ≤ serial)
    (ht : ∀ d, p.seq[k].timer ≠ some (.sync, d)) :
    setOrderSent k (.sync b) serial p = sequenced (sentWith k (.sync b) (some (.sync, p.clock + 60000)) p) := by
  unfold setOrderSent
  extract_lets noted ofStay
  rw [h]
  dsimp only
  rw [if_pos]
  · exact congrArg sequenced (startSetTimer_sent k (.sync b) .sync _ p)
  · rw [setTimerRuns_none ht, Option.isNone_none, Bool.and_true]
    exact decide_eq_true hs

theorem setOrderSent_open (h : p.seq[k].state = some .opening) :
    setOrderSent k .openBreaker serial p = sequenced (sentWith k .openBreaker (some (.openBreaker, p.clock + 2000)) p) := by
  unfold setOrderSent
  extract_lets noted ofStay
  rw [h]
  exact congrArg sequenced (startSetTimer_sent k .openBreaker .openBreaker _ p)

theorem setOrderSent_stop (h : p.seq[k].state = some .stopping) (hs : p.seq[k].stayFrom ≤ serial) :
    setOrderSent k .stop serial p
      = ((sequenced (sentWith k .stop (some (.stop, p.clock + 180000)) p)).stoppedIfDown k).protection k := by
  unfold setOrderSent
  extract_lets noted ofStay
  rw [h]
  dsimp only
  rw [if_pos (show ofStay from hs)]
  exact congrArg (fun q => ((sequenced q).stoppedIfDown k).protection k) (startSetTimer_sent k .stop .stop _ p)

/-- An order that no state waits for is recorded as sent (R56). -/
theorem setOrderSent_other
    (h : p.seq[k].state = some .blocked ∨ p.seq[k].state = some .tripped ∨ p.seq[k].state = some .standby) :
    setOrderSent k a serial p = sequenced (sentWith k a p.seq[k].timer p) := by
  unfold setOrderSent
  extract_lets noted ofStay
  rcases h with h | h | h <;> rw [h] <;> rfl

theorem protection_none {o : Sequenced} (h : o.part.setImage[k].trip = false ∨ o.part.setImage[k].closed = true) :
    o.protection k = o := by
  unfold Sequenced.protection
  refine if_neg ?_
  rcases h with h | h <;> simp only [h, Bool.false_and, Bool.not_true, Bool.and_false, Bool.false_eq_true, not_false_eq_true]

/-- A set that stands by, stops or is blocked trips (R59). -/
theorem protection_trips {o : Sequenced} (ht : o.part.setImage[k].trip = true) (hc : o.part.setImage[k].closed = false)
    (h : o.part.seq[k].state = some .standby ∨ o.part.seq[k].state = some .stopping ∨ o.part.seq[k].state = some .blocked) :
    o.protection k = (o.on (stopSetTimer k)).enter k .tripped := by
  unfold Sequenced.protection
  extract_lets r
  rw [if_pos (by simp only [r, ht, hc, Bool.not_false, Bool.and_self])]
  rcases h with h | h | h <;> rw [h]

theorem stoppedIfDown_runs {o : Sequenced} (h : o.part.setImage[k].running = true ∨ ∀ d, o.part.seq[k].timer ≠ some (.stop, d)) :
    o.stoppedIfDown k = o := by
  unfold Sequenced.stoppedIfDown
  refine if_neg ?_
  rcases h with h | h
  · simp only [h, Bool.not_true, Bool.and_false, Bool.false_eq_true, not_false_eq_true]
  · simp only [setTimerRuns_none h, Option.isSome_none, Bool.false_and, Bool.false_eq_true, not_false_eq_true]

/-- A stopping set that is down stands by (R55). -/
theorem stoppedIfDown_down {o : Sequenced} {d : Nat} (hs : o.part.seq[k].state = some .stopping)
    (ht : o.part.seq[k].timer = some (.stop, d)) (h : o.part.setImage[k].running = false) :
    o.stoppedIfDown k = (o.on fun p => setOrigin k none (stopSetTimer k p)).enter k .standby := by
  unfold Sequenced.stoppedIfDown
  refine if_pos ?_
  rw [setTimerRuns_of ht hs, h]
  rfl

theorem stopSetTimer_self (k : SetNo) (p : Part) : (stopSetTimer k p).seq[k] = { p.seq[k] with timer := none } :=
  onSeq_self k _ p

theorem standby_self (o : Sequenced) (k : SetNo) :
    ((o.on fun p => setOrigin k none (stopSetTimer k p)).enter k .standby).part.seq[k] = { o.part.seq[k] with
      state := some .standby, timer := none, origin := none, stayFrom := o.part.nextOrder } := by
  have hrecord := setOrigin_self k none (stopSetTimer k o.part)
  rw [stopSetTimer_self] at hrecord
  rw [enter_self]
  simp only [Sequenced.on, hrecord]
  rfl

theorem tripped_self (o : Sequenced) (k : SetNo) :
    ((o.on (stopSetTimer k)).enter k .tripped).part.seq[k] = { o.part.seq[k] with
      state := some .tripped, timer := none, stayFrom := o.part.nextOrder } := by
  have hrecord := stopSetTimer_self k o.part
  rw [enter_self]
  simp only [Sequenced.on, hrecord]
  rfl

theorem standby_steps {o : Sequenced} (h : Steps k p o.part) :
    Steps k p ((o.on fun p => setOrigin k none (stopSetTimer k p)).enter k .standby).part :=
  enter_steps _ ((h.onSeq _).onSeq _)

theorem tripped_steps {o : Sequenced} (h : Steps k p o.part) :
    Steps k p ((o.on (stopSetTimer k)).enter k .tripped).part := enter_steps _ (h.onSeq _)

/-- What a stopping set that is down comes to once its changes are handed on: it stands by, or is started again, or is tripped
where its trip is held with the breaker open (R55, R59). -/
theorem down_comes {o : Sequenced} {d : Nat} (hsteps : Steps k p o.part) (hs : o.part.seq[k].state = some .stopping)
    (ht : o.part.seq[k].timer = some (.stop, d)) (hr : o.part.setImage[k].running = false) :
    SameOthers p ((o.stoppedIfDown k).protection k).handOn k
    ∧ ((o.stoppedIfDown k).protection k).handOn.seq[k].timer = none
    ∧ ((o.stoppedIfDown k).protection k).handOn.seq[k].origin = none
    ∧ (o.part.setImage[k].trip = true → o.part.setImage[k].closed = false →
      ((o.stoppedIfDown k).protection k).handOn.seq[k].state = some .tripped)
    ∧ (o.part.setImage[k].trip = false ∨ o.part.setImage[k].closed = true →
      ((o.stoppedIfDown k).protection k).handOn.seq[k].state = some .standby
      ∨ ((o.stoppedIfDown k).protection k).handOn.seq[k].state = some .starting) := by
  obtain ⟨s, hdown⟩ : ∃ s, s = o.stoppedIfDown k := ⟨_, rfl⟩
  have heq : s = (o.on fun p => setOrigin k none (stopSetTimer k p)).enter k .standby :=
    hdown.trans (stoppedIfDown_down hs ht hr)
  have hself : s.part.seq[k] = { o.part.seq[k] with
      state := some .standby, timer := none, origin := none, stayFrom := o.part.nextOrder } := heq ▸ standby_self o k
  have hs' : Steps k p s.part := heq ▸ standby_steps hsteps
  have himage : s.part.setImage = o.part.setImage := heq ▸ rfl
  rw [← hdown]
  by_cases htrip : o.part.setImage[k].trip = false ∨ o.part.setImage[k].closed = true
  · have hp : s.protection k = s := protection_none (by rw [himage]; exact htrip)
    have hoffered : Offered s.part.seq[k] s.part.seq[k] := by
      refine ⟨.inl ?_, ?_, rfl, rfl, rfl⟩ <;> rw [hself]
    obtain ⟨hstate, htimer, horigin, -, -⟩ := handOn_offered hoffered
    rw [hp]
    refine ⟨handOn_others hs', htimer, horigin.trans (by rw [hself]), fun h h' => ?_, fun _ => hstate⟩
    rcases htrip with h'' | h''
    · exact nomatch h''.symm.trans h
    · exact nomatch h''.symm.trans h'
  · rw [not_or, Bool.not_eq_false, Bool.not_eq_true] at htrip
    have hp : s.protection k = (s.on (stopSetTimer k)).enter k .tripped :=
      protection_trips (by rw [himage]; exact htrip.1) (by rw [himage]; exact htrip.2) (.inl (by rw [hself]))
    have htripped := tripped_self s k
    have hsettled : Settled ((s.on (stopSetTimer k)).enter k .tripped).part.seq[k] := by
      rw [htripped]
      exact ⟨nofun, nofun⟩
    have hend := handOn_settled hsettled
    rw [hp]
    refine ⟨handOn_others (tripped_steps hs'), ?_, ?_, fun _ _ => ?_, fun h => ?_⟩
    · rw [hend, htripped]
    · rw [hend, htripped, hself]
    · rw [hend, htripped]
    · rcases h with h | h
      · exact nomatch h.symm.trans htrip.1
      · exact nomatch h.symm.trans htrip.2

end

/-- Settles O21: by the state of the set and the kind of its order. -/
theorem setOrderSent : Obligations.SetOrderSent := by
  unfold Obligations.SetOrderSent
  intro p w tx k a ha htx hw hb sent
  obtain ⟨idle, hidle⟩ : ∃ q : Part, q = { p with fieldTx := none } := ⟨_, rfl⟩
  have hsent : orderSent p = (Machine.setOrderSent k a tx.order.serial idle).handOn := hidle ▸ orderSent_set htx hw hb
  have hruns : ∀ timer, Machine.setOrderSent k a tx.order.serial idle = sequenced (sentWith k a timer idle) →
      exec .orderFrameSent { part := p, pending := w } = sent timer := fun timer h => by
    refine running_of_eq ha (hsent.trans ?_)
    rw [h, handOn_nil rfl, hidle]
    rfl
  have hk : idle.seq[k] = p.seq[k] := by rw [hidle]
  have himage : idle.setImage = p.setImage := by rw [hidle]
  have hclock : idle.clock = p.clock := by rw [hidle]
  have hcfg : idle.cfg = p.cfg := by rw [hidle]
  refine ⟨fun hs hst => ?_, ?_, fun hs hst => ?_, fun hs hst hstay hrun hcalm => ?_, fun hs hst hstay hrun => ?_, fun hst => ?_⟩
  · subst hs
    refine hruns _ ?_
    rw [← hclock, ← hcfg]
    exact setOrderSent_start (by rw [hk]; exact hst)
  · rintro ⟨b, rfl⟩ hst hstay htimer
    refine hruns _ ?_
    rw [← hclock]
    exact setOrderSent_sync (by rw [hk]; exact hst) (by rw [hk]; exact hstay) (by rw [hk]; exact htimer)
  · subst hs
    refine hruns _ ?_
    rw [← hclock]
    exact setOrderSent_open (by rw [hk]; exact hst)
  · subst hs
    refine hruns _ ?_
    rw [← hclock, setOrderSent_stop (by rw [hk]; exact hst) (by rw [hk]; exact hstay),
      stoppedIfDown_runs (.inl (by rw [← himage] at hrun; exact hrun)),
      protection_none (by rw [← himage] at hcalm; exact hcalm)]
  · subst hs
    obtain ⟨begun, hbegun⟩ : ∃ q, q = sentWith k .stop (some (.stop, idle.clock + 180000)) idle := ⟨_, rfl⟩
    have hself : begun.seq[k] = { idle.seq[k] with
        timer := some (.stop, idle.clock + 180000), lastOutcome := some (.stop, .sent) } := hbegun ▸ sentWith_self k _ _ idle
    have hsteps : Steps k idle begun := by
      rw [hbegun]
      exact (Steps.refl k idle).onSeq fun r =>
        { r with timer := some (.stop, idle.clock + 180000), lastOutcome := some (.stop, .sent) }
    have hstop := setOrderSent_stop (p := idle) (serial := tx.order.serial) (by rw [hk]; exact hst) (by rw [hk]; exact hstay)
    rw [← hbegun] at hstop
    have hbeside : Beside idle ((sequenced begun).stoppedIfDown k |>.protection k).part :=
      hstop ▸ units_setOrderSent (units_beside idle) k .stop tx.order.serial (.refl idle)
    have hseen : begun.setImage = p.setImage := by rw [hsteps.setImage, himage]
    obtain ⟨hothers, htimer, horigin, htrips, hstands⟩ := down_comes (o := sequenced begun) (p := idle) hsteps
      (by rw [sequenced, hself, hk]; exact hst) (by rw [sequenced, hself]) (by rw [sequenced, hseen]; exact hrun)
    rw [sequenced, hseen] at htrips hstands
    refine ⟨_, running_of_eq ha (hsent.trans (congrArg Sequenced.handOn hstop)), ?_, ?_, htimer, horigin,
      fun h => htrips h.1 h.2, hstands⟩
    · rw [← hidle]
      exact (handOn_beside hbeside).sameAside
    · intro j hj hset
      rw [hidle] at hothers
      exact hothers j hj hset
  · refine hruns _ ?_
    rw [← hk]
    exact setOrderSent_other (by rw [hk]; exact hst)

end Sys2Proof.Proofs
end

section
/-! The Set Sequencer's operations as a record, a request or a write asks for them (R45, R55, R56, R60 to R65): what each makes of the
set's own record, and which order it hands over. -/

namespace Sys2Proof.Proofs

open Sys2Proof.Machine Sys2Proof.Claims Sequenced

section

variable {p : Part} {k : SetNo}

/-! ### A STOP handed over on the way (R55, R56, R64) -/

theorem stopSetTimer_steps (k : SetNo) (p : Part) : Steps k p (stopSetTimer k p) := (Steps.refl k p).onSeq _

/-- A set that enters STOPPING with a STOP that is queued (R55). -/
theorem enterStopping_queued {o : Sequenced} (hc : setConfigured o.part k = true) (hr : Room o.part) :
    (o.enterStopping k).part.seq[k].state = some .stopping ∧ (o.enterStopping k).part.seq[k].timer = none
    ∧ Raised o.part (o.enterStopping k).part (.set k .stop) ∧ Steps k o.part (o.enterStopping k).part := by
  obtain ⟨e, he⟩ : ∃ e, e = (o.on (stopSetTimer k)).enter k .stopping := ⟨_, rfl⟩
  have hself : e.part.seq[k] = { o.part.seq[k] with
      state := some .stopping, timer := none, stayFrom := o.part.nextOrder } := by
    rw [he, enter_self]
    simp only [Sequenced.on, stopSetTimer_self]
    rfl
  have hsteps : Steps k o.part e.part := he ▸ enter_steps _ (stopSetTimer_steps k o.part)
  have hroom : Room e.part := by
    rw [he]
    exact hr
  obtain ⟨hqueued, hraised⟩ := handSet_raises (a := .stop) ((hsteps.setConfigured k).trans hc) hroom
  obtain ⟨l, hl⟩ := handSet_seq_self k .stop e.part
  have hpart : (o.enterStopping k).part = (handSet k .stop e.part).1 := by
    unfold Sequenced.enterStopping
    rw [← he]
    extract_lets o1 h o2
    exact congrArg Sequenced.part (if_pos hqueued)
  rw [hpart, hl, hself]
  exact ⟨rfl, rfl, raised_since hraised hsteps.orders, hsteps.handSet _⟩

/-- One whose STOP is not queued is BLOCKED instead (R56). -/
theorem enterStopping_full {o : Sequenced} (hc : setConfigured o.part k = true) (hfull : 32 ≤ o.part.normal.length)
    (hq : queuedFor o.part (.set k) = none) :
    (o.enterStopping k).part.seq[k].state = some .blocked ∧ (o.enterStopping k).part.seq[k].timer = none
    ∧ Flagged (o.enterStopping k).part .stopFail ∧ Flagged (o.enterStopping k).part .orderQueueFull := by
  obtain ⟨e, he⟩ : ∃ e, e = (o.on (stopSetTimer k)).enter k .stopping := ⟨_, rfl⟩
  have hself : e.part.seq[k] = { o.part.seq[k] with
      state := some .stopping, timer := none, stayFrom := o.part.nextOrder } := by
    rw [he, enter_self]
    simp only [Sequenced.on, stopSetTimer_self]
    rfl
  have hsteps : Steps k o.part e.part := he ▸ enter_steps _ (stopSetTimer_steps k o.part)
  have hhand : handSet k .stop e.part = (noteOutcome k .stop .notQueued (occur .orderQueueFull (.set k) e.part), false) :=
    handSet_full ((hsteps.setConfigured k).trans hc) (by rw [he]; exact hfull) (by rw [he]; exact hq)
  obtain ⟨noted, hnoted⟩ : ∃ q, q = noteOutcome k .stop .notQueued (occur .orderQueueFull (.set k) e.part) := ⟨_, rfl⟩
  have hrecord : noted.seq[k] = { e.part.seq[k] with lastOutcome := some (.stop, .notQueued) } := by
    rw [hnoted, noteOutcome, onSeq_self, occur_seq]
  have hflag : Flagged noted .orderQueueFull := by
    rw [hnoted]
    exact ((Steps.refl k (occur .orderQueueFull (.set k) e.part)).onSeq _).flag _ (occur_flagged _ _ _)
  have hpart : o.enterStopping k = (({ e with part := noted } : Sequenced).on (occur .stopFail (.set k))).enter k .blocked := by
    unfold Sequenced.enterStopping
    rw [← he]
    extract_lets o1 h o2
    have h2 : h.2 = false := by simp only [h, o1, hhand]
    have ho2 : o2 = { e with part := noted } := by simp only [o2, h, o1, hhand, hnoted]
    rw [h2, ho2]
    rfl
  have hafter : Steps k (occur .stopFail (.set k) noted) (o.enterStopping k).part := by
    rw [hpart]
    exact enter_steps _ (.refl k _)
  refine ⟨?_, ?_, hafter.flag _ (occur_flagged _ _ _), hafter.flag _ (occur_keeps_flag _ _ _ hflag)⟩
  · rw [hpart, enter_self]
  · rw [hpart, enter_self]
    simp only [Sequenced.on, occur_seq, hrecord, hself]

theorem enterStopping_steps {o : Sequenced} (h : Steps k p o.part) : Steps k p (o.enterStopping k).part := by
  unfold Sequenced.enterStopping
  extract_lets e h1 o2
  have h2 : Steps k p o2.part := Steps.handSet (enter_steps (o := o.on (stopSetTimer k)) .stopping (h.onSeq _)) .stop
  split
  · exact h2
  · exact enter_steps _ (h2.occur _ _)

/-- A set that is blocked with a STOP on the way (R64). -/
theorem blockWithStop_queued (hc : setConfigured p k = true) (hr : Room p) :
    ∀ o, o = (sequenced (handSet k .stop (stopSetTimer k p)).1).enter k .blocked →
      o.part.seq[k].state = some .blocked ∧ o.part.seq[k].timer = none ∧ Raised p o.part (.set k .stop)
      ∧ Steps k p o.part := by
  rintro o rfl
  have hsteps := stopSetTimer_steps k p
  have hroom : Room (stopSetTimer k p) := hr
  obtain ⟨-, hraised⟩ := handSet_raises (a := .stop) ((hsteps.setConfigured k).trans hc) hroom
  obtain ⟨l, hl⟩ := handSet_seq_self k .stop (stopSetTimer k p)
  refine ⟨by rw [enter_self], ?_, raised_since hraised hsteps.orders, enter_steps _ (hsteps.handSet _)⟩
  rw [enter_self]
  simp only [sequenced, hl, stopSetTimer_self]
  rfl

/-! ### The derived state (R61) -/

theorem derivedState_eq (p : Part) (k : SetNo) : derivedState p k = derived p k := by
  simp only [derivedState, derived, beq_iff_eq]
  rfl

theorem derivedState_settled {r : SeqRecord} (h : r.state = some (derivedState p k)) (hs : derivedState p k ≠ .standby) :
    Settled r := by
  rw [Settled, h]
  refine ⟨fun h => hs (Option.some.inj h), fun h => ?_⟩
  have hr := Option.some.inj h.1
  unfold derivedState at hr
  extract_lets r at hr
  repeat' split at hr
  all_goals exact nomatch hr

/-- The record of a set whose state has been derived. -/
theorem deriveSet_self (k : SetNo) (p : Part) :
    (deriveSet k p).part.seq[k].state = some (derivedState p k) ∧ (deriveSet k p).part.seq[k].timer = none
    ∧ (deriveSet k p).part.seq[k].origin = none ∧ (deriveSet k p).part.seq[k].deadBusSent = none
    ∧ (deriveSet k p).part.seq[k].slow = p.seq[k].slow := by
  obtain ⟨cleared, hcleared⟩ : ∃ q, q = setDeadBusSent k none (setOrigin k none (stopSetTimer k p)) := ⟨_, rfl⟩
  have hself : cleared.seq[k] = { p.seq[k] with timer := none, origin := none, deadBusSent := none } := by
    rw [hcleared, setDeadBusSent, onSeq_self, setOrigin_self, stopSetTimer_self]
  have hrun : deriveSet k p = (sequenced cleared).settle k (derivedState p k) := by
    rw [hcleared]
    rfl
  rw [hrun]
  unfold Sequenced.settle
  split
  · next h =>
    simp only [sequenced, setStateIs, beq_iff_eq] at h
    refine ⟨h, ?_, ?_, ?_, ?_⟩ <;> simp only [sequenced, hself]
  · rw [enter_self]
    refine ⟨rfl, ?_, ?_, ?_, ?_⟩ <;> simp only [sequenced, hself]

theorem deriveSet_steps (k : SetNo) (p : Part) : Steps k p (deriveSet k p).part := by
  unfold deriveSet
  extract_lets cleared
  have h : Steps k p cleared := (((Steps.refl k p).onSeq _).onSeq _).onSeq _
  unfold Sequenced.settle
  split
  · exact h
  · exact enter_steps _ h

/-- A set whose state has been derived keeps it as the change is handed on, but that a set that stands by may be started. -/
theorem deriveSet_handOn (k : SetNo) (p : Part) :
    ((deriveSet k p).handOn.seq[k].state = some (derived p k)
      ∨ (derived p k = .standby ∧ (deriveSet k p).handOn.seq[k].state = some .starting))
    ∧ (deriveSet k p).handOn.seq[k].slow = p.seq[k].slow ∧ SameOthers p (deriveSet k p).handOn k := by
  obtain ⟨hstate, htimer, -, -, hslow⟩ := deriveSet_self k p
  rw [← derivedState_eq]
  by_cases hs : derivedState p k = .standby
  · have hoffered : Offered (deriveSet k p).part.seq[k] (deriveSet k p).part.seq[k] :=
      ⟨.inl (hstate.trans (congrArg some hs)), htimer, rfl, rfl, rfl⟩
    obtain ⟨hnow, -, -, hslow', -⟩ := handOn_offered hoffered
    rw [hs]
    exact ⟨hnow.imp_right fun h => ⟨rfl, h⟩, hslow'.trans hslow, handOn_others (deriveSet_steps k p)⟩
  · have hend := handOn_settled (derivedState_settled hstate hs)
    rw [hend]
    exact ⟨.inl hstate, hslow, handOn_others (deriveSet_steps k p)⟩

/-! ### Local control (R62) -/

theorem withdrawSet_self (k : SetNo) (p : Part) : ∃ l, (withdrawSet k p).seq[k] = withOutcome l p.seq[k] := by
  unfold withdrawSet
  split
  · next a _ _ => exact ⟨fun _ => some (a, .withdrawn), onSeq_self k _ _⟩
  · exact ⟨fun r => r.lastOutcome, rfl⟩

theorem toLocal_self (k : SetNo) (p : Part) :
    (toLocal k p).part.seq[k].state = some .localRun ∧ (toLocal k p).part.seq[k].timer = none
    ∧ (toLocal k p).part.seq[k].origin = none ∧ (toLocal k p).part.seq[k].deadBusSent = none := by
  obtain ⟨l, hl⟩ := withdrawSet_self k (stopSetTimer k p)
  have hself : (setDeadBusSent k none (setOrigin k none (withdrawSet k (stopSetTimer k p)))).seq[k]
      = { withOutcome l { p.seq[k] with timer := none } with origin := none, deadBusSent := none } := by
    rw [setDeadBusSent, onSeq_self, setOrigin_self, hl, stopSetTimer_self]
  rw [toLocal, enter_self]
  refine ⟨rfl, ?_, ?_, ?_⟩ <;> simp only [sequenced, hself]
  rfl

theorem toLocal_steps (k : SetNo) (p : Part) : Steps k p (toLocal k p).part :=
  enter_steps _ ((((stopSetTimer_steps k p).withdrawSet).onSeq _).onSeq _)

end

end Sys2Proof.Proofs
end

section
/-! SET MODE and COMMAND SET (R56, R61 to R65): what each does in each state of the set. -/

namespace Sys2Proof.Proofs

open Sys2Proof.Machine Sys2Proof.Claims Sequenced

/-! ### A start that finds the queue full (R45, R56) -/

section Full

variable {p : Part} {j k : SetNo}

/-- With the normal queue full, no order of a set makes it shorter (R28, R29). -/
theorem handOver_keepsFull {b : OrderBody} (h : 32 ≤ p.normal.length) : 32 ≤ (handOver b false p).part.normal.length := by
  have hroom : ¬p.normal.length < Config.normalMax := Nat.not_lt.2 h
  have hfull : (queueFull b p).part.normal = p.normal := by
    obtain ⟨f, r, t, n, e⟩ := occur_eq .orderQueueFull (objectNamed b.object) p
    rw [queueFull, e]
  have hjoined : 32 ≤ (joinQueues b false p).part.normal.length := by
    unfold joinQueues replaceOrder
    extract_lets o next swap
    split
    · exact h
    · split
      · split
        · exact le_of_le_of_eq h (List.length_map _).symm
        · split
          · next hu => exact absurd hu Bool.false_ne_true
          · exact le_of_le_of_eq h (congrArg List.length hfull).symm
      · split
        · next hu => exact absurd hu Bool.false_ne_true
        · exact le_of_le_of_eq h (congrArg List.length hfull).symm
  rw [handOver_part]
  split
  · next he =>
    rw [he.2] at h
    exact absurd h (by decide)
  · exact hjoined

/-- The set stands by, its START not queued, and would find the queue full again. -/
def TurnedAway (k : SetNo) (p : Part) : Prop :=
  32 ≤ p.normal.length ∧ NoneFor (.set k) p ∧ p.seq[k].state = some .standby
  ∧ p.seq[k].lastOutcome = some (.start, .notQueued)

theorem noneFor_occur {x : ObjectRef} (e : EventKind) (o : EventObject) (h : NoneFor x p) : NoneFor x (occur e o p) := by
  obtain ⟨f, r, t, n, heq⟩ := occur_eq e o p
  rw [heq]
  exact h

/-- A start request that finds the queue full is answered as not started (R45). -/
theorem startRequest_full (hc : setConfigured p k = true) (hm : (setCfg p k).mode ≠ .localRun)
    (hs : p.seq[k].state = some .standby) (hfull : 32 ≤ p.normal.length) (hq : NoneFor (.set k) p) :
    (startRequest k p).2 = false ∧ TurnedAway k (startRequest k p).1.part
    ∧ Flagged (startRequest k p).1.part .orderQueueFull := by
  obtain ⟨o, ho⟩ : ∃ o, o = ((sequenced p).on (stopSetTimer k)).enter k .starting := ⟨_, rfl⟩
  have hsteps : Steps k p o.part := ho ▸ enter_steps _ (stopSetTimer_steps k p)
  have hhand : handSet k .start o.part = (noteOutcome k .start .notQueued (occur .orderQueueFull (.set k) o.part), false) :=
    handSet_full ((hsteps.setConfigured k).trans hc) (by rw [ho]; exact hfull)
      (by rw [ho]; exact queuedFor_eq_none.2 hq)
  obtain ⟨noted, hnoted⟩ : ∃ q, q = noteOutcome k .start .notQueued (occur .orderQueueFull (.set k) o.part) := ⟨_, rfl⟩
  have hrecord : noted.seq[k] = { o.part.seq[k] with lastOutcome := some (.start, .notQueued) } := by
    rw [hnoted, noteOutcome, onSeq_self, occur_seq]
  have hflag : Flagged noted .orderQueueFull := by
    rw [hnoted]
    exact ((Steps.refl k (occur .orderQueueFull (.set k) o.part)).onSeq _).flag _ (occur_flagged _ _ _)
  have hnormal : noted.normal = p.normal := by
    obtain ⟨f, r, t, n, heq⟩ := occur_eq .orderQueueFull (.set k) o.part
    rw [hnoted, heq, ho]
    rfl
  have hnone : NoneFor (.set k) noted := by
    rw [hnoted]
    exact noneFor_occur (p := o.part) .orderQueueFull (.set k) (by rw [ho]; exact hq)
  have hrun : startRequest k p = (({ o with part := noted } : Sequenced).enter k .standby, false) := by
    have hmay : (setConfigured p k && (setCfg p k).mode != .localRun && setStateIs p k .standby) = true := by
      rw [hc, setStateIs, hs]
      simpa using hm
    unfold startRequest
    rw [if_pos hmay, ← ho]
    extract_lets begun h o1
    have h2 : h.2 = false := by simp only [h, begun, hhand]
    have ho1 : o1 = { o with part := noted } := by simp only [o1, h, begun, hhand, hnoted]
    rw [h2, ho1]
    rfl
  rw [hrun]
  refine ⟨rfl, ⟨le_of_le_of_eq hfull (congrArg List.length hnormal).symm, hnone, by rw [enter_self], ?_⟩,
    (enter_steps _ (Steps.refl k noted)).flag _ hflag⟩
  rw [enter_self]
  simp only [hrecord]

/-- What has been turned away stays so while changes are handed on. -/
theorem tests_turnedAway (k : SetNo) : Tests (TurnedAway k) where
  share _ _ h := h
  gov _ _ _ h := h
  selection _ _ h := h
  inFlight _ _ h := h
  occurs p e o h := by
    obtain ⟨f, r, t, n, heq⟩ := occur_eq e o p
    rw [heq]
    exact h
  tables _ _ _ _ h := h
  starts p j h := by
    obtain ⟨hfull, hnone, hstate, hout⟩ := h
    by_cases hmay : (setConfigured p j && (setCfg p j).mode != .localRun && setStateIs p j .standby) = true
    · by_cases hj : k = j
      · subst hj
        simp only [Bool.and_eq_true, bne_iff_ne] at hmay
        exact (startRequest_full hmay.1.1 hmay.1.2 hstate hfull hnone).2.1
      · have hothers := (startRequest_steps j p).others k hj
        have hhand : ∀ q : Part, 32 ≤ q.normal.length → NoneFor (.set k) q →
            32 ≤ (handSet j .start q).1.normal.length ∧ NoneFor (.set k) (handSet j .start q).1 := fun q hf hn => by
          obtain ⟨⟨l, hl⟩, -⟩ := handSet_eq j .start q
          rw [hl]
          exact ⟨handOver_keepsFull (p := q) hf,
            noneFor_handOver (b := .set j .start) (fun h => hj (ObjectRef.set.inj h).symm) hn⟩
        have hqueues : 32 ≤ (startRequest j p).1.part.normal.length ∧ NoneFor (.set k) (startRequest j p).1.part := by
          unfold startRequest
          rw [if_pos hmay]
          extract_lets begun handed started
          have h1 := hhand begun.part hfull hnone
          split <;> exact h1
        exact ⟨hqueues.1, hqueues.2, (congrArg SeqRecord.state hothers).trans hstate,
          (congrArg SeqRecord.lastOutcome hothers).trans hout⟩
    · have hsame : (startRequest j p).1.part = p := by
        unfold startRequest
        rw [if_neg hmay]
        rfl
      rw [hsame]
      exact ⟨hfull, hnone, hstate, hout⟩
  abandons p j h := by
    obtain ⟨hfull, hnone, hstate, hout⟩ := h
    have hself : (abandonRequest j p).part.seq[k] = p.seq[k] := by
      by_cases hj : k = j
      · subst hj
        rw [abandonRequest_unmoved (by rw [hstate]; exact nofun)]
      · exact (abandonRequest_steps j p).others k hj
    have hqueues : (abandonRequest j p).part.urgent = p.urgent ∧ (abandonRequest j p).part.normal = p.normal := by
      unfold abandonRequest
      split <;> exact ⟨rfl, rfl⟩
    refine ⟨by rw [hqueues.2]; exact hfull, fun o ho => hnone o ?_, by rw [hself]; exact hstate, by rw [hself]; exact hout⟩
    rw [hqueues.1, hqueues.2] at ho
    exact ho

end Full

/-! ### The answers -/

section Answers

variable {p : Part} {w : List Instr} {tag n mode : Byte} {k : SetNo}

/-- What a request in service leaves beside the units. -/
theorem aside_numbered {q : Part} (h : SameAside (numberedPart p) q) : SameAside p { q with nextRequest := p.nextRequest } := by
  obtain ⟨hdesk, hcfg, hclock, hmap, himages, hline⟩ := h
  exact ⟨sameDesk_numbered hdesk, hcfg, hclock, hmap, himages, hline⟩

theorem namedSet_some (h : n.toNat = k.val + 1) (hc : setConfigured p k = true) : namedSet p n = some k := by
  rw [namedSet, numbered_val h]
  exact if_pos hc

theorem namedSet_none (h : ∀ k : SetNo, n.toNat = k.val + 1 → setConfigured p k = false) : namedSet p n = none := by
  unfold namedSet
  split
  · next k hk => exact if_neg (by rw [h k (numbered_some hk)]; exact Bool.false_ne_true)
  · rfl

/-- The command that carries an action (3.7). -/
def commandSetInstr (a : SetAction) (tag n : Byte) : Instr :=
  match a with
  | .start => .commandSetStart tag n
  | .stop => .commandSetStop tag n
  | .block => .commandSetBlock tag n
  | .reset => .commandSetReset tag n

theorem exec_commandSet (a : SetAction) (s : State) :
    exec (commandSetInstr a tag n) s = request 16 tag [n, byteOf a.code] s := by
  cases a <;> rfl

theorem serveCommandSet_noSuch (h : ∀ k : SetNo, n.toNat = k.val + 1 → setConfigured p k = false) (a : SetAction) :
    serveCommandSet n a p = answered .noSuch p := by
  rw [serveCommandSet, namedSet_none h]

theorem serveCommandSet_acquire (h : n.toNat = k.val + 1) (hc : setConfigured p k = true) (hp : p.phase = .acquire)
    (a : SetAction) : serveCommandSet n a p = answered .refused p := by
  rw [serveCommandSet, namedSet_some h hc, hp]
  rfl

theorem serveCommandSet_run (h : n.toNat = k.val + 1) (hc : setConfigured p k = true) (hp : p.phase = .run)
    (a : SetAction) : serveCommandSet n a p = answered (setAction a k p).2 (setAction a k p).1.handOn := by
  rw [serveCommandSet, namedSet_some h hc, hp]
  rfl

/-- A COMMAND SET that changes nothing. -/
theorem commandSet_answers {a : SetAction} {code : ResultCode} (hf : Free p)
    (ho : serveCommandSet n a (numberedPart p) = answered code (numberedPart p)) :
    Answers (commandSetInstr a tag n) p w 16 tag [n, byteOf a.code] code [] p :=
  answers_served hf (exec_commandSet a _) (parse_commandSet n a) (.inl rfl) nofun ho

/-- What a COMMAND SET makes of the part, once its changes are handed on. -/
theorem commandSet_acts {a : SetAction} {code : ResultCode} {o : Sequenced} (hf : Free p) (h : n.toNat = k.val + 1)
    (hc : setConfigured p k = true) (hp : p.phase = .run) (ho : setAction a k (numberedPart p) = (o, code)) :
    Answers (commandSetInstr a tag n) p w 16 tag [n, byteOf a.code] code [] { o.handOn with nextRequest := p.nextRequest } := by
  refine answers_by hf (exec_commandSet a _) (parse_commandSet n a) (.inl rfl) nofun ?_
  exact (serveCommandSet_run (p := numberedPart p) h hc hp a).trans (by rw [ho]; rfl)

/-- A COMMAND SET from which no change of state follows. -/
theorem commandSet_sets {a : SetAction} {code : ResultCode} {q : Part} (hf : Free p) (h : n.toNat = k.val + 1)
    (hc : setConfigured p k = true) (hp : p.phase = .run) (ho : setAction a k (numberedPart p) = (sequenced q, code)) :
    Answers (commandSetInstr a tag n) p w 16 tag [n, byteOf a.code] code [] { q with nextRequest := p.nextRequest } := by
  refine answers_by hf (exec_commandSet a _) (parse_commandSet n a) (.inl rfl) nofun ?_
  refine (serveCommandSet_run (p := numberedPart p) h hc hp a).trans ?_
  rw [ho]
  exact congrArg (answered code) (handOn_nil rfl)

theorem commandSet_unchanged {a : SetAction} {code : ResultCode} (hf : Free p) (h : n.toNat = k.val + 1)
    (hc : setConfigured p k = true) (hp : p.phase = .run)
    (ho : setAction a k (numberedPart p) = (sequenced (numberedPart p), code)) :
    Answers (commandSetInstr a tag n) p w 16 tag [n, byteOf a.code] code [] p :=
  commandSet_sets (q := numberedPart p) hf h hc hp ho

/-- A COMMAND SET that writes the set's own record, with no change of state. -/
theorem commandSet_writes {a : SetAction} {code : ResultCode} {f : SeqRecord → SeqRecord} (hf : Free p)
    (h : n.toNat = k.val + 1) (hc : setConfigured p k = true) (hp : p.phase = .run)
    (ho : setAction a k (numberedPart p) = (sequenced (onSeq k f (numberedPart p)), code)) :
    Answers (commandSetInstr a tag n) p w 16 tag [n, byteOf a.code] code [] { p with seq := p.seq.set k (f p.seq[k]) } :=
  commandSet_sets (q := onSeq k f (numberedPart p)) hf h hc hp ho

/-- SET MODE is read as the mode its byte stands for (R62). -/
theorem setMode_acts {m : Mode} (hf : Free p) (h : n.toNat = k.val + 1) (hc : setConfigured p k = true)
    (hs : p.store.saving = none) :
    Answers (.setMode tag n (byteOf m.code)) p w 15 tag [n, byteOf m.code] .done []
      { (changeMode k m (numberedPart p)).handOn with nextRequest := p.nextRequest } := by
  have hserve : serveOwn (.setMode n m) p.nextRequest (numberedPart p)
      = answered .done (changeMode k m (numberedPart p)).handOn := by
    change serveSetMode n m (numberedPart p) = _
    rw [serveSetMode, namedSet_some (p := numberedPart p) h hc]
  generalize (changeMode k m (numberedPart p)).handOn = q at hserve ⊢
  exact answers_by hf rfl (parse_setMode n m) (.inr hs) nofun hserve

end Answers

/-! ### The actions by the state of the set (R63 to R65) -/

section Actions

variable {p : Part} {k : SetNo} {st : SetState}

theorem startRequest_refused (h : (setCfg p k).mode = .localRun ∨ p.seq[k].state ≠ some .standby) :
    startRequest k p = (sequenced p, false) := by
  unfold startRequest
  refine if_neg fun hc => ?_
  simp only [Bool.and_eq_true, bne_iff_ne, setStateIs, beq_iff_eq] at hc
  exact h.elim (absurd · hc.1.2) (absurd hc.2)

theorem commandStart_eq {o : Sequenced} {b : Bool} (h : startRequest k p = (o, b)) :
    commandStart k p = (o, if b then .done else .refused) := by
  unfold commandStart
  rw [h]

theorem commandStart_refused (h : (setCfg p k).mode = .localRun ∨ p.seq[k].state ≠ some .standby) :
    commandStart k p = (sequenced p, .refused) := commandStart_eq (startRequest_refused h)

/-- The figures that COMMAND SET STOP judges a set of the bus by (R63). -/
theorem commandStop_bus (hs : p.seq[k].state = some st) (h : st = .onBus ∨ st = .rampIn)
    (hi : (setIsland p k).isSome = true) :
    commandStop k p =
      if (lastFigures p ((setIsland p k).getD 0)).capacity - ((setCfg p k).rated : Int)
          < (lastFigures p ((setIsland p k).getD 0)).projected then (sequenced p, .refused)
      else (((sequenced p).on (setOrigin k (some .supervisor))).enter k .rampOut, .done) := by
  obtain ⟨i, hi'⟩ := Option.isSome_iff_exists.mp hi
  unfold commandStop
  rw [hs, hi']
  rcases h with rfl | rfl <;> rfl

theorem commandStop_starting (hs : p.seq[k].state = some st) (h : st = .starting ∨ st = .synchronising) :
    commandStop k p = ((sequenced p).enterStopping k, .done) := by
  unfold commandStop
  rw [hs]
  rcases h with rfl | rfl <;> rfl

theorem commandStop_rampOut (hs : p.seq[k].state = some .rampOut) :
    commandStop k p = (sequenced (setOrigin k (some .supervisor) p), .done) := by
  unfold commandStop
  rw [hs]

theorem commandStop_stops (hs : p.seq[k].state = some st) (h : st = .opening ∨ st = .stopping) :
    commandStop k p = (sequenced p, .done) := by
  unfold commandStop
  rw [hs]
  rcases h with rfl | rfl <;> rfl

theorem commandStop_refused (hs : p.seq[k].state = some st)
    (h : st = .standby ∨ st = .tripped ∨ st = .blocked ∨ st = .localRun) : commandStop k p = (sequenced p, .refused) := by
  unfold commandStop
  rw [hs]
  rcases h with rfl | rfl | rfl | rfl <;> rfl

theorem commandBlock_starting (hs : p.seq[k].state = some st) (h : st = .starting ∨ st = .synchronising) :
    commandBlock k p = ((sequenced (handSet k .stop (stopSetTimer k p)).1).enter k .blocked, .done) := by
  unfold commandBlock
  rw [hs]
  rcases h with rfl | rfl <;> rfl

theorem commandBlock_rests (hs : p.seq[k].state = some st) (h : st = .standby ∨ st = .tripped ∨ st = .stopping) :
    commandBlock k p = ((sequenced (stopSetTimer k p)).enter k .blocked, .done) := by
  unfold commandBlock
  rw [hs]
  rcases h with rfl | rfl | rfl <;> rfl

theorem commandBlock_blocked (hs : p.seq[k].state = some .blocked) : commandBlock k p = (sequenced p, .done) := by
  unfold commandBlock
  rw [hs]

theorem commandBlock_refused (hs : p.seq[k].state = some st)
    (h : st = .rampIn ∨ st = .onBus ∨ st = .rampOut ∨ st = .opening ∨ st = .localRun) :
    commandBlock k p = (sequenced p, .refused) := by
  unfold commandBlock
  rw [hs]
  rcases h with rfl | rfl | rfl | rfl | rfl <;> rfl

theorem commandReset_derives (hs : p.seq[k].state = some st) (h : st = .blocked ∨ (st = .tripped ∧ p.setImage[k].trip = false)) :
    commandReset k p = (deriveSet k (clearSlow k p), .done) := by
  unfold commandReset
  rw [hs]
  rcases h with rfl | ⟨rfl, ht⟩
  · rfl
  · rw [ht]
    rfl

theorem commandReset_standby (hs : p.seq[k].state = some .standby) :
    commandReset k p = (sequenced (clearSlow k p), .done) := by
  unfold commandReset
  rw [hs]
  rfl

theorem commandReset_refused (hs : p.seq[k].state = some st)
    (h : st = .tripped ∧ p.setImage[k].trip = true ∨ st = .starting ∨ st = .synchronising ∨ st = .rampIn ∨ st = .onBus
      ∨ st = .rampOut ∨ st = .opening ∨ st = .stopping ∨ st = .localRun) : commandReset k p = (sequenced p, .refused) := by
  unfold commandReset
  rw [hs]
  rcases h with ⟨rfl, ht⟩ | rfl | rfl | rfl | rfl | rfl | rfl | rfl | rfl
  · rw [ht]
    rfl
  all_goals rfl

/-- The part with a set's mode written (R62). -/
def modeWritten (k : SetNo) (m : Mode) (p : Part) : Part :=
  { p with cfg := { p.cfg with sets := p.cfg.sets.set k { p.cfg.sets[k] with mode := m } } }

theorem modeWritten_same : modeWritten k p.cfg.sets[k].mode p = p := by
  have hsets : p.cfg.sets.set k { p.cfg.sets[k] with mode := p.cfg.sets[k].mode } = p.cfg.sets := Vector.set_getElem_self k.isLt
  unfold modeWritten
  rw [hsets]

/-- SET MODE writes the mode alone where the set has no state, or stays out of LOCAL (R62). -/
theorem changeMode_writes {m : Mode} (h : p.phase = .acquire ∨ (m ≠ .localRun ∧ p.cfg.sets[k].mode ≠ .localRun)) :
    changeMode k m p = sequenced (modeWritten k m p) := by
  unfold changeMode
  extract_lets old written
  have hw : written = modeWritten k m p := rfl
  rw [hw]
  split
  · next hold =>
    rw [← beq_iff_eq.1 hold]
    exact congrArg sequenced modeWritten_same.symm
  · split
    · rfl
    · next hrun =>
      simp only [Bool.or_eq_true, beq_iff_eq, not_or] at hrun
      obtain ⟨hm, hne⟩ := h.resolve_left hrun.1
      have hold : old ≠ .localRun := hne
      clear_value old
      cases m with
      | localRun => exact absurd rfl hm
      | auto | fixed =>
        cases old with
        | localRun => exact absurd rfl hold
        | auto | fixed => rfl

theorem changeMode_same : changeMode k p.cfg.sets[k].mode p = sequenced p := if_pos (beq_self_eq_true _)

theorem changeMode_toLocal (hp : p.phase = .run) (hc : setConfigured p k = true) (h : p.cfg.sets[k].mode ≠ .localRun) :
    changeMode k .localRun p = toLocal k (modeWritten k .localRun p) := by
  unfold changeMode
  extract_lets old written
  rw [if_neg (by rw [beq_iff_eq]; exact h), if_neg (by rw [hp, hc]; exact Bool.false_ne_true)]
  rfl

theorem changeMode_fromLocal {m : Mode} (hp : p.phase = .run) (hc : setConfigured p k = true)
    (h : p.cfg.sets[k].mode = .localRun) (hm : m ≠ .localRun) :
    changeMode k m p = deriveSet k (modeWritten k m p) := by
  unfold changeMode
  extract_lets old written
  have hold : old = .localRun := h
  rw [if_neg (by rw [beq_iff_eq]; exact fun h' => hm (h'.symm.trans hold)),
    if_neg (by rw [hp, hc]; exact Bool.false_ne_true)]
  rw [hold]
  cases m with
  | localRun => exact absurd rfl hm
  | auto | fixed => rfl

end Actions

/-- What a COMMAND SET that moves the set leaves: its next state, and the rest but for requests of the Reserve Unit. -/
theorem moves_numbered {p : Part} {k : SetNo} {o : Sequenced} {st : SetState} (hsteps : Steps k (numberedPart p) o.part)
    (hbeside : Beside (numberedPart p) o.part) (hs : o.part.seq[k].state = some st) (hst : st ≠ .standby)
    (hout : st = .rampOut → o.part.seq[k].origin ≠ some .automatic) :
    o.handOn.seq[k] = o.part.seq[k] ∧ SameAside p { o.handOn with nextRequest := p.nextRequest }
    ∧ SameOthers p { o.handOn with nextRequest := p.nextRequest } k := by
  have hsettled : Settled o.part.seq[k] := by
    rw [Settled, hs]
    exact ⟨fun h => hst (Option.some.inj h), fun h => hout (Option.some.inj h.1) h.2⟩
  exact ⟨handOn_settled hsettled, aside_numbered (handOn_beside hbeside).sameAside,
    fun j hj hset => handOn_others hsteps j hj hset⟩

/-- A COMMAND SET that leads the set to a state in which the Reserve Unit asks nothing of it. -/
theorem commandSet_moves {p : Part} {w : List Instr} {tag n : Byte} {k : SetNo} {a : SetAction} {code : ResultCode}
    {o : Sequenced} {st : SetState} (hf : Free p) (h : n.toNat = k.val + 1) (hc : setConfigured p k = true)
    (hp : p.phase = .run) (ho : setAction a k (numberedPart p) = (o, code)) (hsteps : Steps k (numberedPart p) o.part)
    (hbeside : Beside (numberedPart p) o.part) (hs : o.part.seq[k].state = some st) (hst : st ≠ .standby)
    (hout : st = .rampOut → o.part.seq[k].origin ≠ some .automatic) :
    ∃ q, Answers (commandSetInstr a tag n) p w 16 tag [n, byteOf a.code] code [] q ∧ q.seq[k] = o.part.seq[k]
      ∧ (q.seq[k].state = some st ∧ SameAside p q ∧ SameOthers p q k)
      ∧ ∀ b, Raised (numberedPart p) o.part (.set k b) → Raised p q (.set k b) := by
  obtain ⟨hself, haside, hothers⟩ := moves_numbered hsteps hbeside hs hst hout
  have hsettled : Settled o.part.seq[k] := by
    rw [Settled, hs]
    exact ⟨fun h => hst (Option.some.inj h), fun h => hout (Option.some.inj h.1) h.2⟩
  exact ⟨_, commandSet_acts hf h hc hp ho, hself, ⟨(congrArg SeqRecord.state hself).trans hs, haside, hothers⟩,
    fun b hr => handOn_raised (p := numberedPart p) hsettled hr⟩

theorem mode_of_byte {mode : Byte} (h : mode.toNat ≤ 2) : ∃ m : Mode, mode = byteOf m.code := by
  have hcases : mode.toNat = 0 ∨ mode.toNat = 1 ∨ mode.toNat = 2 := by omega
  rcases hcases with h | h | h
  · exact ⟨.auto, BitVec.eq_of_toNat_eq h⟩
  · exact ⟨.fixed, BitVec.eq_of_toNat_eq h⟩
  · exact ⟨.localRun, BitVec.eq_of_toNat_eq h⟩

/-- SET MODE where the mode alone is written (R62). -/
theorem setMode_writes {p : Part} {w : List Instr} {tag n : Byte} {k : SetNo} {m : Mode} {q : Part} (hf : Free p)
    (h : n.toNat = k.val + 1) (hc : setConfigured p k = true) (hs : p.store.saving = none)
    (ho : changeMode k m (numberedPart p) = sequenced q) :
    Answers (.setMode tag n (byteOf m.code)) p w 15 tag [n, byteOf m.code] .done [] { q with nextRequest := p.nextRequest } := by
  have hact := setMode_acts (w := w) (tag := tag) (m := m) hf h hc hs
  rw [ho, handOn_nil rfl] at hact
  exact hact

theorem numbered_isSome {p : Part} {k : SetNo} {st : SetState} (hs : p.seq[k].state = some st) :
    (numberedPart p).seq[k].state.isSome = true := by
  rw [show (numberedPart p).seq[k].state = some st from hs]
  rfl

section Run

variable {p : Part} {w : List Instr} {tag n : Byte} {k : SetNo} {st : SetState}
variable (hf : Free p) (hk : n.toNat = k.val + 1) (hc : setConfigured p k = true) (hp : p.phase = .run)
variable (hs : p.seq[k].state = some st)

include hf hk hc hp in
theorem start_taken (hm : p.cfg.sets[k].mode ≠ .localRun) (hs : p.seq[k].state = some .standby) (hr : Room p) :
    ∃ q, Answers (.commandSetStart tag n) p w 16 tag [n, 0#8] .done [] q
      ∧ (q.seq[k].state = some .starting ∧ SameAside p q ∧ SameOthers p q k) ∧ Raised p q (.set k .start) := by
  obtain ⟨q, hq, hsteps, hraised, hstate, -⟩ := startRequest_started (p := numberedPart p) hc hm hs hr
  have hbeside := units_startRequest (units_beside (numberedPart p)) k (.refl _)
  have hact : setAction .start k (numberedPart p) = (_, .done) := commandStart_eq hq
  rw [hq] at hbeside
  obtain ⟨r, hans, -, hmoves, hraise⟩ := commandSet_moves (w := w) (tag := tag) hf hk hc hp hact hsteps hbeside hstate
    nofun nofun
  exact ⟨r, hans, hmoves, hraise _ hraised⟩

include hf hk hc hp in
theorem start_turnedAway (hm : p.cfg.sets[k].mode ≠ .localRun) (hs : p.seq[k].state = some .standby)
    (hfull : 32 ≤ p.normal.length) (hq : queuedFor p (.set k) = none) :
    ∃ q, Answers (.commandSetStart tag n) p w 16 tag [n, 0#8] .refused [] q ∧ q.seq[k].state = some .standby
      ∧ q.seq[k].lastOutcome = some (.start, .notQueued) ∧ Flagged q .orderQueueFull ∧ SameAside p q
      ∧ SameOthers p q k := by
  obtain ⟨hno, haway, hflag⟩ := startRequest_full (p := numberedPart p) hc hm hs hfull (queuedFor_eq_none.1 hq)
  have hbeside := units_startRequest (units_beside (numberedPart p)) k (.refl _)
  have hsteps := startRequest_steps k (numberedPart p)
  obtain ⟨o, ho⟩ : ∃ o, o = (startRequest k (numberedPart p)).1 := ⟨_, rfl⟩
  have hact : setAction .start k (numberedPart p) = (o, .refused) := commandStart_eq (Prod.ext ho.symm hno)
  rw [← ho] at haway hflag hbeside hsteps
  obtain ⟨-, -, hstate, hout⟩ := tests_handOn (tests_turnedAway k) o haway
  exact ⟨_, commandSet_acts hf hk hc hp hact, hstate, hout, handOn_flag hflag,
    aside_numbered (handOn_beside hbeside).sameAside, fun j hj hset => handOn_others hsteps j hj hset⟩

include hf hk hc hp hs in
theorem stop_rampsOut (h : st = .onBus ∨ st = .rampIn) (hi : (setIsland p k).isSome = true)
    (hmore : (lastFigures p ((setIsland p k).getD 0)).projected
      ≤ (lastFigures p ((setIsland p k).getD 0)).capacity - (p.cfg.sets[k].rated : Int)) :
    ∃ q, Answers (.commandSetStop tag n) p w 16 tag [n, 1#8] .done [] q
      ∧ (q.seq[k].state = some .rampOut ∧ SameAside p q ∧ SameOthers p q k) ∧ q.seq[k].origin = some .supervisor := by
  obtain ⟨o, ho⟩ : ∃ o, o = ((sequenced (numberedPart p)).on (setOrigin k (some .supervisor))).enter k .rampOut := ⟨_, rfl⟩
  have hact : setAction .stop k (numberedPart p) = (o, .done) :=
    (commandStop_bus (p := numberedPart p) hs h hi).trans ((if_neg (not_lt.2 hmore)).trans (by rw [ho]))
  have hsteps : Steps k (numberedPart p) o.part := ho ▸ enter_steps _ ((Steps.refl k _).onSeq _)
  have hbeside : Beside (numberedPart p) o.part := by
    rw [ho]
    refine units_enter (units_beside _) _ k _ ?_ (units_setOrigin (units_beside _) k _ (.refl _))
    simp only [Sequenced.on, setOrigin_state]
    exact numbered_isSome hs
  have hself : o.part.seq[k] = { (setOrigin k (some .supervisor) (numberedPart p)).seq[k] with
      state := some .rampOut, stayFrom := p.nextOrder } := by
    rw [ho, enter_self]
    rfl
  rw [setOrigin_self] at hself
  obtain ⟨r, hans, hkeep, hmoves, -⟩ := commandSet_moves (w := w) (tag := tag) (st := .rampOut) hf hk hc hp hact hsteps
    hbeside (by rw [hself]) nofun (fun _ => by rw [hself]; exact nofun)
  exact ⟨r, hans, hmoves, by rw [hkeep, hself]⟩

include hf hk hc hp in
theorem stop_again (hs : p.seq[k].state = some .rampOut) :
    Answers (.commandSetStop tag n) p w 16 tag [n, 1#8] .done []
      { p with seq := p.seq.set k { p.seq[k] with origin := some .supervisor } } :=
  commandSet_writes (a := .stop) (f := fun r => { r with origin := some .supervisor }) hf hk hc hp
    (commandStop_rampOut (p := numberedPart p) hs)

include hf hk hc hp in
theorem reset_atRest (hs : p.seq[k].state = some .standby) :
    Answers (.commandSetReset tag n) p w 16 tag [n, 3#8] .done []
      { p with seq := p.seq.set k { p.seq[k] with slow := false } } :=
  commandSet_writes (a := .reset) (f := fun r => { r with slow := false }) hf hk hc hp
    (commandReset_standby (p := numberedPart p) hs)

include hf hk hc hp hs in
theorem stop_onTheWay (h : st = .starting ∨ st = .synchronising) (hr : Room p) :
    ∃ q, Answers (.commandSetStop tag n) p w 16 tag [n, 1#8] .done [] q
      ∧ (q.seq[k].state = some .stopping ∧ SameAside p q ∧ SameOthers p q k) ∧ q.seq[k].timer = none
      ∧ Raised p q (.set k .stop) := by
  obtain ⟨hstate, htimer, hraised, hsteps⟩ := enterStopping_queued (o := sequenced (numberedPart p)) hc hr
  have hbeside := units_enterStopping (units_beside (numberedPart p)) (sequenced (numberedPart p)) k (numbered_isSome hs) (.refl _)
  obtain ⟨r, hans, hkeep, hmoves, hraise⟩ := commandSet_moves (w := w) (tag := tag) (a := .stop) hf hk hc hp
    (commandStop_starting (p := numberedPart p) hs h) hsteps hbeside hstate nofun nofun
  exact ⟨r, hans, hmoves, (congrArg SeqRecord.timer hkeep).trans htimer, hraise _ hraised⟩

include hf hk hc hp in
/-- A COMMAND SET BLOCK that blocks the set. -/
theorem block_blocks {o : Sequenced} (hact : commandBlock k (numberedPart p) = (o, .done))
    (hsteps : Steps k (numberedPart p) o.part) (hstate : o.part.seq[k].state = some .blocked)
    (htimer : o.part.seq[k].timer = none) :
    ∃ q, Answers (.commandSetBlock tag n) p w 16 tag [n, 2#8] .done [] q
      ∧ (q.seq[k].state = some .blocked ∧ SameAside p q ∧ SameOthers p q k) ∧ q.seq[k].timer = none
      ∧ ∀ b, Raised (numberedPart p) o.part (.set k b) → Raised p q (.set k b) := by
  have hbeside := units_commandBlock (units_beside (numberedPart p)) k (.refl _)
  rw [hact] at hbeside
  obtain ⟨r, hans, hkeep, hmoves, hraise⟩ := commandSet_moves (w := w) (tag := tag) (a := .block) hf hk hc hp hact hsteps
    hbeside hstate nofun nofun
  exact ⟨r, hans, hmoves, (congrArg SeqRecord.timer hkeep).trans htimer, hraise⟩

include hf hk hc hp hs in
theorem block_onTheWay (h : st = .starting ∨ st = .synchronising) (hr : Room p) :
    ∃ q, Answers (.commandSetBlock tag n) p w 16 tag [n, 2#8] .done [] q
      ∧ (q.seq[k].state = some .blocked ∧ SameAside p q ∧ SameOthers p q k) ∧ q.seq[k].timer = none
      ∧ Raised p q (.set k .stop) := by
  obtain ⟨o, ho⟩ : ∃ o, o = (sequenced (handSet k .stop (stopSetTimer k (numberedPart p))).1).enter k .blocked := ⟨_, rfl⟩
  obtain ⟨hstate, htimer, hraised, hsteps⟩ := blockWithStop_queued (p := numberedPart p) hc hr o ho
  obtain ⟨r, hans, hmoves, ht, hraise⟩ := block_blocks (w := w) (tag := tag) hf hk hc hp
    ((commandBlock_starting (p := numberedPart p) hs h).trans (by rw [ho])) hsteps hstate htimer
  exact ⟨r, hans, hmoves, ht, hraise _ hraised⟩

include hf hk hc hp hs in
theorem block_atRest (h : st = .standby ∨ st = .tripped ∨ st = .stopping) :
    ∃ q, Answers (.commandSetBlock tag n) p w 16 tag [n, 2#8] .done [] q
      ∧ (q.seq[k].state = some .blocked ∧ SameAside p q ∧ SameOthers p q k) ∧ q.seq[k].timer = none := by
  obtain ⟨o, ho⟩ : ∃ o, o = (sequenced (stopSetTimer k (numberedPart p))).enter k .blocked := ⟨_, rfl⟩
  have hsteps : Steps k (numberedPart p) o.part := ho ▸ enter_steps (o := sequenced _) _ (stopSetTimer_steps k (numberedPart p))
  have hself : o.part.seq[k] = { (stopSetTimer k (numberedPart p)).seq[k] with
      state := some .blocked, stayFrom := p.nextOrder } := by
    rw [ho, enter_self]
    rfl
  rw [stopSetTimer_self] at hself
  obtain ⟨r, hans, hmoves, ht, -⟩ := block_blocks (w := w) (tag := tag) hf hk hc hp
    ((commandBlock_rests (p := numberedPart p) hs h).trans (by rw [ho])) hsteps (by rw [hself]) (by rw [hself])
  exact ⟨r, hans, hmoves, ht⟩

include hf hk hc hp hs in
theorem reset_derives (h : st = .blocked ∨ (st = .tripped ∧ p.setImage[k].trip = false)) :
    ∃ q, Answers (.commandSetReset tag n) p w 16 tag [n, 3#8] .done [] q ∧ SameAside p q ∧ SameOthers p q k
      ∧ q.seq[k].slow = false
      ∧ (q.seq[k].state = some (derived p k) ∨ (derived p k = .standby ∧ q.seq[k].state = some .starting)) := by
  have hact : setAction .reset k (numberedPart p) = (deriveSet k (clearSlow k (numberedPart p)), .done) :=
    commandReset_derives (p := numberedPart p) hs h
  have hbeside := units_commandReset (units_beside (numberedPart p)) k (.refl _)
  rw [show commandReset k (numberedPart p) = _ from hact] at hbeside
  obtain ⟨hstate, hslow, hothers⟩ := deriveSet_handOn k (clearSlow k (numberedPart p))
  rw [clearSlow_self] at hslow
  refine ⟨_, commandSet_acts hf hk hc hp hact, aside_numbered (handOn_beside hbeside).sameAside, fun j hj hset => ?_, hslow,
    hstate⟩
  have hsame := onSeq_other k j (fun r => { r with slow := false }) (numberedPart p) hj.symm
  exact (hothers j hj (by rw [clearSlow, hsame]; exact hset)).trans hsame

include hf hk hc hp hs in
theorem setMode_toLocal (hsaving : p.store.saving = none) (h : p.cfg.sets[k].mode ≠ .localRun) :
    ∃ q, Answers (.setMode tag n 2#8) p w 15 tag [n, 2#8] .done [] q
      ∧ q.cfg = { p.cfg with sets := p.cfg.sets.set k { p.cfg.sets[k] with mode := .localRun } }
      ∧ q.seq[k].state = some .localRun ∧ q.seq[k].timer = none ∧ q.seq[k].origin = none ∧ q.seq[k].deadBusSent = none
      ∧ SameImages p q ∧ SameOthers p q k := by
  obtain ⟨start, hstart⟩ : ∃ q, q = modeWritten k .localRun (numberedPart p) := ⟨_, rfl⟩
  have hans := setMode_acts (w := w) (tag := tag) (m := .localRun) hf hk hc hsaving
  rw [changeMode_toLocal (p := numberedPart p) hp hc h, ← hstart] at hans
  have hsome : start.seq[k].state.isSome = true := hstart ▸ numbered_isSome hs
  have hbeside := handOn_beside (units_toLocal (units_beside start) k hsome (.refl _))
  obtain ⟨hstate, htimer, horigin, hbus⟩ := toLocal_self k start
  have hself : (toLocal k start).handOn.seq[k] = (toLocal k start).part.seq[k] := handOn_settled (by
    rw [Settled, hstate]
    exact ⟨nofun, nofun⟩)
  have hothers := handOn_others (toLocal_steps k start)
  rw [← hself] at hstate htimer horigin hbus
  generalize (toLocal k start).handOn = q at hans hbeside hstate htimer horigin hbus hothers
  subst hstart
  exact ⟨_, hans, hbeside.cfg, hstate, htimer, horigin, hbus, hbeside.images, fun j hj hset => hothers j hj hset⟩

include hf hk hc in
theorem setMode_stays (hsaving : p.store.saving = none) (h : p.cfg.sets[k].mode = .localRun) :
    Answers (.setMode tag n 2#8) p w 15 tag [n, 2#8] .done [] p := by
  have hsame : changeMode k .localRun (numberedPart p) = sequenced (numberedPart p) := h ▸ changeMode_same (p := numberedPart p)
  exact setMode_writes (m := .localRun) (q := numberedPart p) hf hk hc hsaving hsame

include hf hk hc in
theorem setMode_runs {m : Mode} (hsaving : p.store.saving = none) (hm : m ≠ .localRun) (h : p.cfg.sets[k].mode ≠ .localRun) :
    Answers (.setMode tag n (byteOf m.code)) p w 15 tag [n, byteOf m.code] .done [] (modeWritten k m p) :=
  setMode_writes (q := modeWritten k m (numberedPart p)) hf hk hc hsaving
    (changeMode_writes (p := numberedPart p) (m := m) (.inr ⟨hm, h⟩))

include hf hk hc hp hs in
theorem setMode_fromLocal {m : Mode} (hsaving : p.store.saving = none) (h : p.cfg.sets[k].mode = .localRun)
    (hm : m ≠ .localRun) :
    ∃ q, Answers (.setMode tag n (byteOf m.code)) p w 15 tag [n, byteOf m.code] .done [] q
      ∧ q.cfg = { p.cfg with sets := p.cfg.sets.set k { p.cfg.sets[k] with mode := m } }
      ∧ SameImages p q ∧ SameOthers p q k
      ∧ (q.seq[k].state = some (derived q k) ∨ (derived q k = .standby ∧ q.seq[k].state = some .starting)) := by
  obtain ⟨start, hstart⟩ : ∃ q, q = modeWritten k m (numberedPart p) := ⟨_, rfl⟩
  have hans := setMode_acts (w := w) (tag := tag) (m := m) hf hk hc hsaving
  rw [changeMode_fromLocal (p := numberedPart p) hp hc h hm, ← hstart] at hans
  have hsome : start.seq[k].state.isSome = true := hstart ▸ numbered_isSome hs
  have hbeside := handOn_beside (units_deriveSet (units_beside start) k hsome (.refl _))
  obtain ⟨hstate, -, hothers⟩ := deriveSet_handOn k start
  generalize (deriveSet k start).handOn = q at hans hbeside hstate hothers
  have hderived : derived q k = derived start k := by simp only [derived, hbeside.cfg, hbeside.setImage]
  rw [← hderived] at hstate
  subst hstart
  exact ⟨_, hans, hbeside.cfg, hbeside.images, fun j hj hset => hothers j hj hset, hstate⟩

end Run

/-- Settles O49: by the action and the state of the set; a derived state may be started as it is handed on. -/
theorem setCommandsAct : Obligations.SetCommandsAct := by
  unfold Obligations.SetCommandsAct
  intro p w tag n mode hf
  refine ⟨fun hn => ?_, fun k hk hc hp hs => ?_, fun k st hk hc hp hs => ?_⟩
  · have hno : ∀ a, serveCommandSet n a (numberedPart p) = answered .noSuch (numberedPart p) :=
      serveCommandSet_noSuch (p := numberedPart p) hn
    refine ⟨commandSet_answers hf (hno .start), commandSet_answers hf (hno .stop), commandSet_answers hf (hno .block),
      commandSet_answers hf (hno .reset), fun hsaving hm => ?_⟩
    obtain ⟨m, rfl⟩ := mode_of_byte hm
    refine answers_served hf rfl (parse_setMode n m) (.inr hsaving) nofun ?_
    change serveSetMode n m (numberedPart p) = _
    rw [serveSetMode, namedSet_none (p := numberedPart p) hn]
    rfl
  · have hno : ∀ a, serveCommandSet n a (numberedPart p) = answered .refused (numberedPart p) :=
      serveCommandSet_acquire (p := numberedPart p) hk hc hp
    refine ⟨commandSet_answers hf (hno .start), commandSet_answers hf (hno .stop), commandSet_answers hf (hno .block),
      commandSet_answers hf (hno .reset), fun hsaving m hm => ?_⟩
    have hwrites := fun m => setMode_writes (w := w) (tag := tag) hf hk hc hsaving
      (changeMode_writes (p := numberedPart p) (m := m) (.inl hp))
    simp only [List.mem_cons, List.not_mem_nil, or_false] at hm
    rcases hm with rfl | rfl | rfl
    · exact hwrites .auto
    · exact hwrites .fixed
    · exact hwrites .localRun
  · intro start stop block reset moves f
    refine ⟨fun hm hst hr => ?_, fun hm hst hfull hq => ?_, fun h => ?_, fun h hi => ?_, fun h hr => ?_, fun h => ?_, fun h => ?_,
      fun h => ?_, fun h => ?_, fun h => ?_, fun h => ?_, fun h => ?_, fun h => ?_, fun h => ?_, fun hsaving => ?_⟩
    · exact start_taken hf hk hc hp hm (hst ▸ hs) hr
    · exact start_turnedAway hf hk hc hp hm (hst ▸ hs) hfull hq
    · refine commandSet_unchanged hf hk hc hp (a := .start) (commandStart_refused (p := numberedPart p) ?_)
      exact h.imp_right fun h h' => h (Option.some.inj (hs.symm.trans h'))
    · refine ⟨fun hless => ?_, fun hmore => stop_rampsOut hf hk hc hp hs h hi hmore⟩
      exact commandSet_unchanged hf hk hc hp (a := .stop) ((commandStop_bus (p := numberedPart p) hs h hi).trans (if_pos hless))
    · exact ⟨stop_onTheWay hf hk hc hp hs h hr, block_onTheWay hf hk hc hp hs h hr⟩
    · exact stop_again hf hk hc hp (h ▸ hs)
    · exact commandSet_unchanged hf hk hc hp (a := .stop) (commandStop_stops (p := numberedPart p) hs h)
    · exact commandSet_unchanged hf hk hc hp (a := .stop) (commandStop_refused (p := numberedPart p) hs h)
    · exact block_atRest hf hk hc hp hs h
    · exact commandSet_unchanged hf hk hc hp (a := .block) (commandBlock_blocked (p := numberedPart p) (h ▸ hs))
    · exact commandSet_unchanged hf hk hc hp (a := .block) (commandBlock_refused (p := numberedPart p) hs h)
    · exact reset_derives hf hk hc hp hs h
    · exact reset_atRest hf hk hc hp (h ▸ hs)
    · exact commandSet_unchanged hf hk hc hp (a := .reset) (commandReset_refused (p := numberedPart p) hs h)
    · intro set cfg
      refine ⟨fun hm h => ?_, fun hm h => ?_, fun hm h => ?_, fun hm h => ?_, fun hm h => ?_⟩
      · subst hm
        exact setMode_toLocal hf hk hc hp hs hsaving h
      · subst hm
        exact setMode_runs (m := .auto) hf hk hc hsaving nofun h
      · subst hm
        exact setMode_runs (m := .fixed) hf hk hc hsaving nofun h
      · rcases hm with rfl | rfl
        · rw [if_pos rfl]
          exact setMode_fromLocal (m := .auto) hf hk hc hp hs hsaving h nofun
        · rw [if_neg (by decide)]
          exact setMode_fromLocal (m := .fixed) hf hk hc hp hs hsaving h nofun
      · subst hm
        exact setMode_stays hf hk hc hsaving h

end Sys2Proof.Proofs
end

section
/-! Shed orders handed over (R129, R143) and the orders that they replace (R117): what a group of them changes, and what it leaves
alone. -/

namespace Sys2Proof.Proofs

open Sys2Proof.Machine Sys2Proof.Claims

/-! ### What shed orders change -/

/-- An island record but for its figures, its table and its restore context. -/
def besideRestore (r : Island) := (r.pFixed, r.remainder, r.residual, r.periodAt, r.nextPeriod, r.reserve, r.shed, r.history)

/-- The part after shed orders have been handed over: the entries, the restore contexts, the order queues, and what events and
rebuilds change. -/
structure Handed (p q : Part) : Prop where
  fields : ∃ en sel f r t n v x y m tx, q = { p with
    entry := en, selection := sel, rawFlags := f, reports := r, supTx := t, allowance := n, islands := v,
    urgent := x, normal := y, nextOrder := m, fieldTx := tx }
  kept : held besideRestore q = held besideRestore p
  orders : p.nextOrder ≤ q.nextOrder
  flag : ∀ k, Flagged p k → Flagged q k

namespace Handed

variable {p q : Part}

theorem refl (p : Part) : Handed p p :=
  ⟨⟨p.entry, p.selection, p.rawFlags, p.reports, p.supTx, p.allowance, p.islands, p.urgent, p.normal, p.nextOrder, p.fieldTx,
    rfl⟩, rfl, Nat.le_refl _, fun _ h => h⟩

theorem trans {r : Part} (h : Handed p q) (h' : Handed q r) : Handed p r := by
  obtain ⟨⟨en, sel, f, rs, t, n, v, x, y, m, tx, rfl⟩, hheld, horders, hflag⟩ := h
  obtain ⟨⟨en', sel', f', rs', t', n', v', x', y', m', tx', rfl⟩, hheld', horders', hflag'⟩ := h'
  exact ⟨⟨en', sel', f', rs', t', n', v', x', y', m', tx', rfl⟩, hheld'.trans hheld, horders.trans horders',
    fun k hk => hflag' k (hflag k hk)⟩

theorem noted {r : Part} (h : Handed p q) (hn : Noted q r) : Handed p r := by
  refine h.trans ?_
  obtain ⟨⟨sel, f, rs, t, n, v, rfl⟩, hheld, hflag⟩ := hn
  refine ⟨⟨q.entry, sel, f, rs, t, n, v, q.urgent, q.normal, q.nextOrder, q.fieldTx, rfl⟩, ?_, Nat.le_refl _, hflag⟩
  exact held_of_held (fun x => (x.1, x.2.1, x.2.2.1, x.2.2.2.1, x.2.2.2.2.1, x.2.2.2.2.2.1, x.2.2.2.2.2.2.1,
    x.2.2.2.2.2.2.2.2)) hheld

theorem occur (h : Handed p q) (k : EventKind) (o : EventObject) : Handed p (Machine.occur k o q) :=
  h.noted ((Noted.refl q).occur k o)

theorem rebuild (h : Handed p q) (i : IslandNo) : Handed p (Machine.rebuild i q) := h.noted ((Noted.refl q).rebuild i)

theorem rebuildFor (h : Handed p q) (c : ConsumerNo) : Handed p (Machine.rebuildFor c q) :=
  h.noted ((Noted.refl q).rebuildFor c)

theorem onEntry (h : Handed p q) (c : ConsumerNo) (f : EntryRecord → EntryRecord) : Handed p (Machine.onEntry c f q) :=
  h.trans ⟨⟨_, q.selection, q.rawFlags, q.reports, q.supTx, q.allowance, q.islands, q.urgent, q.normal, q.nextOrder, q.fieldTx,
    rfl⟩, rfl, Nat.le_refl _, fun _ h => h⟩

theorem onIsland (h : Handed p q) (i : IslandNo) {f : Island → Island} (hf : ∀ r, besideRestore (f r) = besideRestore r) :
    Handed p (Machine.onIsland i f q) :=
  h.trans ⟨⟨q.entry, q.selection, q.rawFlags, q.reports, q.supTx, q.allowance, _, q.urgent, q.normal, q.nextOrder, q.fieldTx,
    rfl⟩, held_onIsland hf, Nat.le_refl _, fun _ h => h⟩

theorem retrigger (h : Handed p q) (i : IslandNo) : Handed p (Machine.retrigger i q) := by
  unfold Machine.retrigger
  split
  · exact h.onIsland i fun _ => rfl
  · exact h

theorem endStepFor (h : Handed p q) (c : ConsumerNo) : Handed p (Machine.endStepFor c q) :=
  fold_keeps (I := Handed p) _ _ (fun _ i hq => hq.onIsland i fun r => by split <;> rfl) h

theorem handOver (h : Handed p q) (b : OrderBody) (u : Bool) : Handed p (Machine.handOver b u q).part := by
  refine h.trans ?_
  have hflag : ∀ j, Flagged q j → Flagged (Machine.handOver b u q).part j := fun j hj => handOver_flag b u j hj
  have horders := (handOver_line b u q).1
  obtain ⟨x, y, n, f, r, t, m, v, heq⟩ := handOver_eq b u q
  rw [heq] at hflag horders ⊢
  exact ⟨⟨q.entry, q.selection, f, r, t, m, q.islands, x, y, n, v, rfl⟩, rfl, horders, hflag⟩

theorem displaced (h : Handed p q) (c : ConsumerNo) (old : Option Order) : Handed p (Machine.displaced c old q) := by
  unfold Machine.displaced
  split
  · split
    · unfold restoreOutcome
      split
      · exact ((h.onEntry c _).endStepFor c).rebuildFor c
      · exact h.endStepFor c
    · exact h
  · exact h

theorem pendShed (h : Handed p q) (e : EntryConfig) (relief : Nat) (cause : ShedCause) :
    Handed p (Machine.pendShed e relief cause q) := by
  unfold Machine.pendShed
  extract_lets pended
  have hp : Handed p pended := (h.onEntry _ _).onEntry _ _
  split
  · exact hp.retrigger _
  · exact hp

theorem hand {o : ShedHanded} (h : Handed p o.part) (e : EntryConfig) (a : ConsumerOrder) (u : Bool) (cause : ShedCause) :
    Handed p (o.hand e a u cause).part := by
  unfold ShedHanded.hand
  extract_lets relief handed
  have hh : Handed p handed.part := h.handOver _ _
  split
  · exact (hh.displaced _ _).pendShed _ _ _
  · exact hh

/-! What stays. -/

theorem seq (h : Handed p q) : q.seq = p.seq := by obtain ⟨_, _, _, _, _, _, _, _, _, _, _, rfl⟩ := h.fields; rfl
theorem share (h : Handed p q) : q.share = p.share := by obtain ⟨_, _, _, _, _, _, _, _, _, _, _, rfl⟩ := h.fields; rfl
theorem gov (h : Handed p q) : q.gov = p.gov := by obtain ⟨_, _, _, _, _, _, _, _, _, _, _, rfl⟩ := h.fields; rfl
theorem inFlight (h : Handed p q) : q.inFlight = p.inFlight := by
  obtain ⟨_, _, _, _, _, _, _, _, _, _, _, rfl⟩ := h.fields; rfl
theorem cfg (h : Handed p q) : q.cfg = p.cfg := by obtain ⟨_, _, _, _, _, _, _, _, _, _, _, rfl⟩ := h.fields; rfl
theorem clock (h : Handed p q) : q.clock = p.clock := by obtain ⟨_, _, _, _, _, _, _, _, _, _, _, rfl⟩ := h.fields; rfl
theorem islandMap (h : Handed p q) : q.islandMap = p.islandMap := by
  obtain ⟨_, _, _, _, _, _, _, _, _, _, _, rfl⟩ := h.fields; rfl
theorem setImage (h : Handed p q) : q.setImage = p.setImage := by
  obtain ⟨_, _, _, _, _, _, _, _, _, _, _, rfl⟩ := h.fields; rfl
theorem consumerImage (h : Handed p q) : q.consumerImage = p.consumerImage := by
  obtain ⟨_, _, _, _, _, _, _, _, _, _, _, rfl⟩ := h.fields; rfl
theorem islandLive (h : Handed p q) (j : IslandNo) : Machine.islandLive q j = Machine.islandLive p j := by
  obtain ⟨_, _, _, _, _, _, _, _, _, _, _, rfl⟩ := h.fields; rfl
theorem entryCfg (h : Handed p q) (c : ConsumerNo) : Machine.entryCfg q c = Machine.entryCfg p c := by
  obtain ⟨_, _, _, _, _, _, _, _, _, _, _, rfl⟩ := h.fields; rfl
theorem consumerConfigured (h : Handed p q) (c : ConsumerNo) :
    Machine.consumerConfigured q c = Machine.consumerConfigured p c := by
  obtain ⟨_, _, _, _, _, _, _, _, _, _, _, rfl⟩ := h.fields; rfl
theorem islandOf (h : Handed p q) (s : SectionNo) : Machine.islandOf q s = Machine.islandOf p s := by
  obtain ⟨_, _, _, _, _, _, _, _, _, _, _, rfl⟩ := h.fields; rfl

theorem isSome (h : Handed p q) (j : IslandNo) : q.islands[j].isSome = p.islands[j].isSome := isSome_of_held h.kept j
theorem reserve (h : Handed p q) (j : IslandNo) : (island q j).reserve = (island p j).reserve :=
  congrArg (fun x => x.2.2.2.2.2.1) (field_of_held h.kept j)
theorem shed (h : Handed p q) (j : IslandNo) : (island q j).shed = (island p j).shed :=
  congrArg (fun x => x.2.2.2.2.2.2.1) (field_of_held h.kept j)
theorem history (h : Handed p q) : SameHistory p q := fun j => congrArg (fun x => x.2.2.2.2.2.2.2) (field_of_held h.kept j)
theorem nextPeriod (h : Handed p q) (j : IslandNo) : (island q j).nextPeriod = (island p j).nextPeriod :=
  congrArg (fun x => x.2.2.2.2.1) (field_of_held h.kept j)
theorem periodAt (h : Handed p q) (j : IslandNo) : (island q j).periodAt = (island p j).periodAt :=
  congrArg (fun x => x.2.2.2.1) (field_of_held h.kept j)

end Handed

/-! ### One shed order -/

section

variable {p q : Part} {c : ConsumerNo} {e : EntryConfig} {a : ConsumerOrder} {u : Bool} {cause : ShedCause}

/-- The entry of a queued shed order (R129, R143). -/
def pendedEntry (r : EntryRecord) (relief : Nat) (cause : ShedCause) : EntryRecord :=
  { state := some .shedPending, tripFailed := r.tripFailed, restoreFailed := r.restoreFailed, relief := relief,
    cause := some cause }

theorem pendShed_entry (e : EntryConfig) (relief : Nat) (cause : ShedCause) (p : Part) :
    (pendShed e relief cause p).entry = p.entry.set e.consumer (pendedEntry p.entry[e.consumer] relief cause) := by
  unfold pendShed
  extract_lets pended
  have hp : pended.entry = p.entry.set e.consumer (pendedEntry p.entry[e.consumer] relief cause) := by
    simp only [pended]
    rw [enterEntry, onEntry_onEntry, onEntry_entry]
    rfl
  split
  · unfold retrigger
    split <;> exact hp
  · exact hp

/-- A shed order changes no order's standing but its own. -/
theorem pendShed_queues (e : EntryConfig) (relief : Nat) (cause : ShedCause) (p : Part) :
    (pendShed e relief cause p).urgent = p.urgent ∧ (pendShed e relief cause p).normal = p.normal
    ∧ (pendShed e relief cause p).fieldTx = p.fieldTx := by
  unfold pendShed retrigger
  extract_lets pended
  split
  · split <;> exact ⟨rfl, rfl, rfl⟩
  · exact ⟨rfl, rfl, rfl⟩

/-- An order replaced for an entry that does not wait for it changes no entry (R29, R161). -/
theorem displaced_idle (old : Option Order) (h : p.entry[c].state ≠ some .restorePending) :
    (displaced c old p).entry = p.entry ∧ (displaced c old p).urgent = p.urgent ∧ (displaced c old p).normal = p.normal
    ∧ (displaced c old p).fieldTx = p.fieldTx := by
  have hend : (endStepFor c p).entry = p.entry ∧ (endStepFor c p).urgent = p.urgent ∧ (endStepFor c p).normal = p.normal
      ∧ (endStepFor c p).fieldTx = p.fieldTx := by
    rw [endStepFor_eq]
    exact ⟨rfl, rfl, rfl, rfl⟩
  unfold displaced
  split
  · split
    · rw [restoreOutcome, if_neg fun h' => h (entryIs_iff.1 h')]
      exact hend
    · exact ⟨rfl, rfl, rfl, rfl⟩
  · exact ⟨rfl, rfl, rfl, rfl⟩

theorem handOver_entry (b : OrderBody) (u : Bool) (p : Part) : (handOver b u p).part.entry = p.entry := by
  obtain ⟨x, y, n, f, r, t, m, v, heq⟩ := handOver_eq b u p
  rw [heq]

/-- A shed order that is not queued leaves the group as it was (R143). -/
theorem hand_unqueued {o : ShedHanded} (h : (handOver (.consumer e.consumer a) u o.part).queued = none) :
    o.hand e a u cause = { o with part := (handOver (.consumer e.consumer a) u o.part).part } := by
  unfold ShedHanded.hand
  extract_lets relief handed
  exact if_neg (by rw [show handed.queued = none from h]; exact Bool.false_ne_true)

theorem hand_queued {o : ShedHanded} {s : Nat} (h : (handOver (.consumer e.consumer a) u o.part).queued = some s) :
    o.hand e a u cause =
      { part := pendShed e (shedRelief o.part e a) cause (displaced e.consumer
          (handOver (.consumer e.consumer a) u o.part).replaced (handOver (.consumer e.consumer a) u o.part).part)
        queued := o.queued ++ [e.consumer]
        replaced := o.replaced ++ (handOver (.consumer e.consumer a) u o.part).replaced.toList } := by
  unfold ShedHanded.hand
  extract_lets relief handed
  exact if_pos (by rw [show handed.queued = some s from h]; rfl)

/-- The shed order of a configured entry that is CONNECTED: it is queued where it is urgent or finds room, and its entry is in
SHED_PENDING (R129, R143). -/
theorem hand_connected {o : ShedHanded} (hc : consumerConfigured o.part e.consumer = true)
    (hs : o.part.entry[e.consumer].state = some .connected) (hu : u = true ∨ Room o.part) :
    (o.hand e a u cause).queued = o.queued ++ [e.consumer]
    ∧ (o.hand e a u cause).replaced = o.replaced ++ (handOver (.consumer e.consumer a) u o.part).replaced.toList
    ∧ (o.hand e a u cause).part.entry
      = o.part.entry.set e.consumer (pendedEntry o.part.entry[e.consumer] (shedRelief o.part e a) cause)
    ∧ Raised o.part (o.hand e a u cause).part (.consumer e.consumer a) := by
  obtain ⟨hqueued, hraised⟩ := handOver_raises (b := .consumer e.consumer a) (u := u) hc hu
  obtain ⟨h, hh⟩ : ∃ h, h = handOver (.consumer e.consumer a) u o.part := ⟨_, rfl⟩
  have hentry : h.part.entry = o.part.entry := hh ▸ handOver_entry _ _ _
  have hidle : h.part.entry[e.consumer].state ≠ some .restorePending := by
    rw [hentry, hs]
    exact nofun
  obtain ⟨hkept, hurgent, hnormal, htx⟩ := displaced_idle h.replaced hidle
  obtain ⟨hurgent', hnormal', htx'⟩ := pendShed_queues e (shedRelief o.part e a) cause (displaced e.consumer h.replaced h.part)
  rw [hand_queued hqueued, ← hh]
  rw [← hh] at hraised
  refine ⟨rfl, rfl, ?_, raised_congr hraised (hurgent'.trans hurgent) (hnormal'.trans hnormal) (htx'.trans htx)⟩
  rw [pendShed_entry, hkept, hentry]

end

/-! ### The end of a group (R117, R140) -/

section

variable {o : ShedHanded} {i : IslandNo} {p : Part}

/-- What the release of a grant leaves standing in the queues. -/
theorem grants_standing {x : Order} {c : ConsumerNo} (hx : x.body.object = .consumer c) : Grants (Standing x) where
  toTests := tests_standing hx
  grants _ _ _ h := h

theorem grantsLost_keeps {I : Part → Prop} (h : Grants I) (o : ShedHanded) (hp : I p) : I (o.grantsLost p) :=
  fold_keeps (I := I) _ _ (fun _ r hq => grants_grantLost h r hq) hp

theorem grantsLost_none (h : o.replaced = []) : o.grantsLost p = p := by
  rw [ShedHanded.grantsLost, h]
  rfl

theorem grantsLost_entry (o : ShedHanded) (p : Part) : (o.grantsLost p).entry = p.entry :=
  grantsLost_keeps (grants_entry p.entry) o rfl

theorem grantsLost_held (o : ShedHanded) (p : Part) : held keptBesideGrants (o.grantsLost p) = held keptBesideGrants p :=
  grantsLost_keeps (grants_held (held keptBesideGrants p)) o rfl

theorem grantsLost_shed (o : ShedHanded) (p : Part) (j : IslandNo) : (island (o.grantsLost p) j).shed = (island p j).shed :=
  congrArg (fun x => x.2.1) (field_of_held (grantsLost_held o p) j)

theorem grantsLost_history (o : ShedHanded) (p : Part) : SameHistory p (o.grantsLost p) :=
  fun j => congrArg (fun x => x.2.2.2) (field_of_held (grantsLost_held o p) j)

theorem grantsLost_flag {k : EventKind} (o : ShedHanded) (h : Flagged p k) : Flagged (o.grantsLost p) k :=
  handing_grantsLost (units_flag k).toHanding o h

theorem grantsLost_raised {q : Part} {c : ConsumerNo} {a : ConsumerOrder} (o : ShedHanded)
    (h : Raised p q (.consumer c a)) : Raised p (o.grantsLost q) (.consumer c a) := by
  obtain ⟨x, hb, hs, hx⟩ := h
  exact ⟨x, hb, hs, grantsLost_keeps (grants_standing (c := c) (by rw [hb]; rfl)) o hx⟩

theorem done_queued (h : o.queued ≠ []) : o.done i = o.grantsLost (rebuild i o.part) := by
  unfold ShedHanded.done
  rw [if_neg]
  rwa [List.isEmpty_iff]

end

end Sys2Proof.Proofs
end

section
/-! The paced shed sequence and its three timers (R147, R148, R150, R151). -/

namespace Sys2Proof.Proofs

open Sys2Proof.Machine Sys2Proof.Claims

/-! ### A configured entry of the list -/

/-- In a list of entries with one for each consumer, an entry is found under its consumer (R123). -/
theorem find?_consumer {l : List EntryConfig} {e : EntryConfig} (hl : l.Pairwise fun a b => a.consumer ≠ b.consumer)
    (he : e ∈ l) : (l.find? fun x => x.consumer == e.consumer) = some e := by
  induction l with
  | nil => exact nomatch he
  | cons x xs ih =>
    obtain ⟨hx, hxs⟩ := List.pairwise_cons.1 hl
    rcases List.mem_cons.1 he with rfl | he
    · exact List.find?_cons_of_pos (beq_self_eq_true _)
    · rw [List.find?_cons_of_neg (by rw [beq_iff_eq]; exact hx e he)]
      exact ih hxs he

section

variable {p q : Part} {i : IslandNo} {e : EntryConfig} {f : Figures} {steps : Nat}

theorem entryCfg_of_mem (hfits : p.cfg.fits) (he : e ∈ p.cfg.shedList) : entryCfg p e.consumer = some e := by
  obtain ⟨-, -, -, -, hpair, -⟩ := hfits
  exact find?_consumer hpair he

theorem configured_of_eligible (hfits : p.cfg.fits) (he : p.cfg.shedList.find? (eligible p i) = some e) :
    consumerConfigured p e.consumer = true := by
  obtain ⟨hlow, hhigh, -⟩ := eligible_iff.1 (List.find?_some he)
  unfold consumerConfigured
  rw [entryCfg_of_mem hfits (List.mem_of_find?_eq_some he)]
  exact (stationAssigned_iff _).2 ⟨hlow, hhigh⟩

/-! ### A paced step (R150) -/

/-- The shed context after a paced step. -/
def stepped (c : ConsumerNo) (r : ShedContext) : ShedContext :=
  { r with state := .stepWait, steps := min 255 (r.steps + 1), stepConsumer := some c, checkTimer := none, pacerTimer := none }

/-- A step with an eligible entry sheds it (R143, R150). -/
theorem pacedStep_sheds (hfits : p.cfg.fits) (hi : p.islands[i].isSome = true)
    (he : p.cfg.shedList.find? (eligible p i) = some e) (f : Figures) :
    Paced p (pacedStep i f p) i (island p i).shed.steps f e := by
  have hconnected := connected_of_eligible (List.find?_some he)
  obtain ⟨o, ho⟩ : ∃ o, o = (noneHanded p).hand e (stepOrder p f e) true .paced := ⟨_, rfl⟩
  obtain ⟨hqueued, -, hentry, hraised⟩ := hand_connected (o := noneHanded p) (a := stepOrder p f e) (u := true) (cause := .paced)
    (configured_of_eligible hfits he) hconnected (.inl rfl)
  have hhanded : Handed p o.part := ho ▸ (Handed.refl p).hand (o := noneHanded p) _ _ _ _
  rw [← ho] at hqueued hentry hraised
  obtain ⟨told, htold⟩ : ∃ q, q = occur .pacedShed (.consumer e.consumer) (onShed i (stepped e.consumer) o.part) := ⟨_, rfl⟩
  have hne : o.queued ≠ [] := by
    rw [hqueued]
    exact List.cons_ne_nil _ _
  have hrun : pacedStep i f p = ({ o with part := told } : ShedHanded).grantsLost (rebuild i told) := by
    unfold pacedStep
    rw [he]
    dsimp only
    rw [← ho, if_neg (by rw [List.isEmpty_iff]; exact hne), htold]
    exact done_queued hne
  have hnoted : Noted (onShed i (stepped e.consumer) o.part) (rebuild i told) :=
    htold ▸ ((Noted.refl _).occur .pacedShed (.consumer e.consumer)).rebuild i
  have hshed : (island (rebuild i told) i).shed = stepped e.consumer (island p i).shed := by
    rw [hnoted.shed, onShed, island_onIsland_self ((hhanded.isSome i).trans hi), ← hhanded.shed]
  have hentry' : (rebuild i told).entry = p.entry.set e.consumer
      (pendedEntry p.entry[e.consumer] (shedRelief p e (stepOrder p f e)) .paced) := hnoted.entry.trans hentry
  have hhistory : SameHistory p (rebuild i told) := fun j => by
    rw [hnoted.history, ← hhanded.history j]
    exact field_of_held (held_onIsland (g := Island.history) (f := fun r => { r with shed := stepped e.consumer r.shed })
      fun _ => rfl) j
  have hflag : Flagged (rebuild i told) .pacedShed := ((Noted.refl told).rebuild i).flag (htold ▸ occur_flagged _ _ _)
  rw [hrun]
  unfold Paced
  rw [grantsLost_entry, grantsLost_shed, hentry', hshed]
  refine ⟨?_, ?_, grantsLost_raised _ (hnoted.raised (p := onShed i (stepped e.consumer) o.part) hraised), grantsLost_flag _ hflag,
    rfl, rfl, rfl, fun c hc => ?_, sameHistory_trans hhistory (grantsLost_history _ _)⟩
  · rw [Fin.getElem_fin, Vector.getElem_set_self]
    rfl
  · rw [Fin.getElem_fin, Vector.getElem_set_self]
    rfl
  · exact Vector.getElem_set_ne _ _ fun h => hc (Fin.ext h.symm)

/-- The shed context after a step that finds nothing eligible. -/
def exhausted (until' : Nat) (r : ShedContext) : ShedContext :=
  { r with state := .settling, exhausted := true, stepConsumer := none, checkTimer := none, pacerTimer := some until' }

/-- A step without an eligible entry settles, with SHED_EXHAUSTED once in the episode (R150). -/
theorem pacedStep_exhausts (hi : p.islands[i].isSome = true) (he : p.cfg.shedList.find? (eligible p i) = none) (f : Figures) :
    ((island p i).shed.exhausted = false → Flagged (pacedStep i f p) .shedExhausted)
    ∧ ((island p i).shed.exhausted = true →
      (pacedStep i f p).rawFlags = p.rawFlags ∧ (pacedStep i f p).reports = p.reports)
    ∧ (pacedStep i f p).entry = p.entry
    ∧ (island (pacedStep i f p) i).shed = exhausted (p.clock + p.cfg.plant.settle * 1000) (island p i).shed := by
  obtain ⟨told, htold⟩ : ∃ q, q = if (island p i).shed.exhausted then p else occur .shedExhausted (.island i) p := ⟨_, rfl⟩
  have hrun : pacedStep i f p = onShed i (exhausted (p.clock + p.cfg.plant.settle * 1000)) told := by
    unfold pacedStep
    rw [he, htold]
    rfl
  have hnoted : Noted p told := by
    rw [htold]
    split
    · exact .refl p
    · exact (Noted.refl p).occur _ _
  rw [hrun]
  refine ⟨fun h => ?_, fun h => ?_, hnoted.entry, ?_⟩
  · rw [htold, h]
    exact occur_flagged _ _ p
  · rw [htold, h]
    exact ⟨rfl, rfl⟩
  · rw [onShed, island_onIsland_self ((hnoted.isSome i).trans hi), ← hnoted.shed]

/-! ### The timers (R147, R150, R151) -/

theorem overloaded_iff : overloaded p f = true ↔ f.capacity * (p.cfg.plant.overload : Int) / 100 < f.projected := by
  rw [overloaded, decide_eq_true_iff]
  rfl

/-- A step made in a part that differs in its clock, its figures and its shed contexts. -/
theorem paced_since {o : Part} (hentry : p.entry = o.entry) (horders : p.nextOrder = o.nextOrder)
    (horder : stepOrder p f e = stepOrder o f e) (hhistory : SameHistory o p) (h : Paced p q i steps f e) :
    Paced o q i steps f e := by
  obtain ⟨h1, h2, h3, h4, h5, h6, h7, h8, h9⟩ := h
  exact ⟨h1, h2, raised_since (horder ▸ h3) horders.ge, h4, h5, h6, h7, hentry ▸ h8, sameHistory_trans hhistory h9⟩

theorem checkPassed_runs {r : Island} {d : Nat} (h : p.islands[i] = some r) (hs : r.shed.state = .postCheck)
    (hd : r.shed.checkTimer = some d) : checkPassed i p = checkExpired i (at' d p) := by
  unfold checkPassed checkTimer
  rw [island_some h, if_pos hs, hd]
  rfl

theorem pacerPassed_runs {r : Island} {d : Nat} (h : p.islands[i] = some r) (hd : r.shed.pacerTimer = some d) :
    pacerPassed r.shed.state i p = pacerExpired i (at' d p) := by
  unfold pacerPassed pacerTimer
  rw [island_some h, if_pos rfl, hd]
  rfl

theorem pacerExpired_calm (h : overloaded p (figuresOf p i) = false) :
    pacerExpired i p = onShed i (fun _ => ShedContext.fresh) (takeFigures i p) := if_neg (by rw [h]; exact Bool.false_ne_true)

theorem pacerExpired_overloaded (h : overloaded p (figuresOf p i) = true) :
    pacerExpired i p = pacedStep i (figuresOf p i) (takeFigures i p) := if_pos h

theorem checkExpired_calm (h : overloaded p (figuresOf p i) = false) :
    checkExpired i p = onShed i (fun _ => ShedContext.fresh) (takeFigures i p) := if_neg (by rw [h]; exact Bool.false_ne_true)

theorem checkExpired_resumes {s : PacedPhase} (h : overloaded p (figuresOf p i) = true)
    (hs : (island p i).shed.saved = some s) :
    checkExpired i p = onShed i (fun _ => resumePhase p s) (takeFigures i p) := by
  unfold checkExpired
  extract_lets f taken
  rw [if_pos h, hs]

/-- The shed context with a new count of steps (R147). -/
def recounted (r : ShedContext) : ShedContext := { r with steps := 0, exhausted := false }

theorem checkExpired_overloaded (h : overloaded p (figuresOf p i) = true) (hs : (island p i).shed.saved = none) :
    checkExpired i p = pacedStep i (figuresOf p i) (onShed i recounted (takeFigures i p)) := by
  unfold checkExpired
  extract_lets f taken
  rw [if_pos h, hs]
  rfl

/-- A paced step at the end of a timer, from the part at that time with its figures taken afresh. -/
theorem timed_sheds {d : Nat} {g : ShedContext → ShedContext} {start : Part}
    (hstart : start = onShed i g (takeFigures i (at' d p))) (hfits : p.cfg.fits) (hi : p.islands[i].isSome = true)
    (he : p.cfg.shedList.find? (eligible p i) = some e) (f : Figures) :
    Paced p (pacedStep i f start) i (g (island p i).shed).steps f e := by
  have hsome : (takeFigures i (at' d p)).islands[i].isSome = true := by
    rw [takeFigures, keepFigures, onIsland_isSome]
    exact hi
  have hnoted : Noted (at' d p) (takeFigures i (at' d p)) := (Noted.refl _).takeFigures i
  have hshed : (island start i).shed = g (island p i).shed := by
    rw [hstart, onShed, island_onIsland_self hsome, ← show (island (at' d p) i).shed = (island p i).shed from rfl,
      ← hnoted.shed]
  have hhistory : SameHistory p start := fun j => by
    rw [hstart]
    exact (field_of_held (held_onIsland (g := Island.history) (f := fun r => { r with shed := g r.shed }) fun _ => rfl) j).trans
      (hnoted.history j)
  have hpaced := pacedStep_sheds (p := start) (i := i) (e := e) (by rw [hstart]; exact hfits)
    (by rw [hstart, onShed, onIsland_isSome]; exact hsome) (by rw [hstart]; exact he) f
  rw [hshed] at hpaced
  exact paced_since (by rw [hstart]; rfl) (by rw [hstart]; rfl) (by rw [hstart]; rfl) hhistory hpaced

theorem timed_exhausts {d : Nat} {g : ShedContext → ShedContext} {start : Part}
    (hstart : start = onShed i g (takeFigures i (at' d p))) (hi : p.islands[i].isSome = true)
    (he : p.cfg.shedList.find? (eligible p i) = none) (f : Figures) :
    ((g (island p i).shed).exhausted = false → Flagged (pacedStep i f start) .shedExhausted)
    ∧ ((g (island p i).shed).exhausted = true →
      (pacedStep i f start).rawFlags = p.rawFlags ∧ (pacedStep i f start).reports = p.reports)
    ∧ (pacedStep i f start).entry = p.entry
    ∧ (island (pacedStep i f start) i).shed
      = exhausted (max p.clock d + p.cfg.plant.settle * 1000) (g (island p i).shed) := by
  have hsome : (takeFigures i (at' d p)).islands[i].isSome = true := by
    rw [takeFigures, keepFigures, onIsland_isSome]
    exact hi
  have hnoted : Noted (at' d p) (takeFigures i (at' d p)) := (Noted.refl _).takeFigures i
  have hshed : (island start i).shed = g (island p i).shed := by
    rw [hstart, onShed, island_onIsland_self hsome, ← show (island (at' d p) i).shed = (island p i).shed from rfl,
      ← hnoted.shed]
  obtain ⟨hflag, hsilent, hentry, hshed'⟩ := pacedStep_exhausts (p := start) (i := i)
    (by rw [hstart, onShed, onIsland_isSome]; exact hsome) (by rw [hstart]; exact he) f
  rw [hshed] at hflag hsilent hshed'
  have hclock : start.clock = max p.clock d := by rw [hstart]; rfl
  have hcfg : start.cfg = p.cfg := by rw [hstart]; rfl
  rw [hclock, hcfg] at hshed'
  exact ⟨hflag, fun h => (hsilent h).imp (·.trans (by rw [hstart]; rfl)) (·.trans (by rw [hstart]; rfl)),
    hentry.trans (by rw [hstart]; rfl), hshed'⟩

/-- A phase that a fast shed saved, as it becomes the current one (R148). -/
theorem resumePhase_eq (p : Part) (s : PacedPhase) : resumePhase p s =
    if s.state = .stepWait then
      if s.arrived = true then
        { ShedContext.fresh with
          steps := s.steps, exhausted := s.exhausted, state := .settling,
          pacerTimer := some (p.clock + p.cfg.plant.settle * 1000) }
      else { ShedContext.fresh with steps := s.steps, exhausted := s.exhausted, state := .stepWait, stepConsumer := s.stepConsumer }
    else
      { ShedContext.fresh with
        steps := s.steps, exhausted := s.exhausted, state := s.state, pacerTimer := some (p.clock + s.remaining) } := by
  unfold resumePhase
  extract_lets base
  split
  · next h => rw [if_pos h]; rfl
  · next h => rw [if_neg h]; rfl

end

theorem onShed_id (i : IslandNo) (p : Part) : onShed i id p = p := by
  have hmap : (Option.map fun r : Island => { r with shed := id r.shed }) = id := Option.map_id
  have hislands : modifyAt p.islands i (Option.map fun r : Island => { r with shed := id r.shed }) = p.islands := by
    rw [hmap]
    exact Vector.set_getElem_self i.isLt
  change { p with islands := _ } = p
  rw [hislands]

/-- Settles O34: without an overload IDLE, with one the saved phase, or a step of the list. -/
theorem shedTimersEnd : Obligations.ShedTimersEnd := by
  unfold Obligations.ShedTimersEnd
  refine ⟨fun p w i r d ha hfits hr hs hd => ?_, fun p w i r d c ha hfits hr hd hc => ?_⟩
  · intro f limit
    have hrun := checkPassed_runs hr hs hd
    have hisland : (island (at' d p) i).shed = r.shed := congrArg Island.shed (island_some (p := at' d p) hr)
    have hsome : (takeFigures i (at' d p)).islands[i].isSome = true := by
      rw [takeFigures, keepFigures, onIsland_isSome]
      exact hr ▸ rfl
    refine ⟨fun hle => ?_, fun hlt s hsaved => ?_, fun hlt hsaved => ?_⟩
    · refine running_of_eq ha (hrun.trans (checkExpired_calm ?_))
      rw [← Bool.not_eq_true, overloaded_iff]
      exact not_lt.2 hle
    · intro base
      refine running_of_eq ha (hrun.trans ((checkExpired_resumes (overloaded_iff.2 hlt) (hisland ▸ hsaved)).trans ?_))
      rw [resumePhase_eq]
      rfl
    · have hstep := hrun.trans (checkExpired_overloaded (overloaded_iff.2 hlt) (hisland ▸ hsaved))
      have hsteps : (island p i).shed = r.shed := congrArg Island.shed (island_some hr)
      refine ⟨_, running_of_eq ha hrun, (handing_checkExpired (units_beside _).toHanding i (.refl (at' d p))).sameAside,
        fun e he => ?_, fun he => ?_⟩
      · rw [← hrun, hstep]
        exact timed_sheds (g := recounted) rfl hfits (hr ▸ rfl) he f
      · obtain ⟨hflag, -, hentry, hshed⟩ := timed_exhausts (d := d) (g := recounted) rfl (hr ▸ rfl) he f
        rw [← hrun, hstep]
        exact ⟨hflag rfl, hentry, by rw [hshed]; rfl, by rw [hshed]; rfl⟩
  · intro f limit
    have hrun := pacerPassed_runs hr hd
    have hexec : ∀ q, pacerPassed r.shed.state i p = q →
        exec c { part := p, pending := w } = .next { part := kick q, pending := w } := fun q h => by
      rcases hc with ⟨hs, rfl⟩ | ⟨hs, rfl⟩ <;> exact running_of_eq ha (hs ▸ h)
    have hsteps : (island p i).shed = r.shed := congrArg Island.shed (island_some hr)
    refine ⟨fun hle => hexec _ (hrun.trans (pacerExpired_calm ?_)), fun hlt => ?_⟩
    · rw [← Bool.not_eq_true, overloaded_iff]
      exact not_lt.2 hle
    · have hstep := hrun.trans (pacerExpired_overloaded (overloaded_iff.2 hlt))
      have hsame := onShed_id i (takeFigures i (at' d p))
      refine ⟨_, hexec _ hrun, (handing_pacerExpired (units_beside _).toHanding i (.refl (at' d p))).sameAside,
        fun e he => ?_, fun he => ?_⟩
      · rw [← hrun, hstep, ← hsteps]
        exact timed_sheds (g := id) hsame.symm hfits (hr ▸ rfl) he f
      · obtain ⟨hflag, hsilent, hentry, hshed⟩ := timed_exhausts (d := d) (g := id) hsame.symm (hr ▸ rfl) he f
        rw [hsteps] at hflag hsilent hshed
        rw [← hrun, hstep]
        exact ⟨hflag, hsilent, hentry, by rw [hshed]; rfl, by rw [hshed]; rfl, by rw [hshed]; rfl, by rw [hshed]; rfl⟩

end Sys2Proof.Proofs
end

section
/-! The restore timer (R160): the candidate, the condition for it, and the step that is tried. -/

namespace Sys2Proof.Proofs

open Sys2Proof.Machine Sys2Proof.Claims

section

variable {p q : Part} {i : IslandNo} {h : HistoryRecord} {f : Figures} {d : Nat}

/-! ### The candidate and its condition -/

theorem autoRestore_iff {x : Option EntryConfig} :
    (x.map EntryConfig.autoRestore).getD false = true ↔ ∃ e, x = some e ∧ e.autoRestore = true := by
  cases x <;> simp

theorem restoreCandidate_iff (p : Part) (i : IslandNo) (h : HistoryRecord) :
    let may (g : HistoryRecord) : Prop :=
      g.cause ≠ .manual ∧ (∃ e, entryCfg p g.consumer = some e ∧ e.autoRestore = true)
      ∧ p.entry[g.consumer].restoreFailed = false ∧ p.entry[g.consumer].state = some .shed
    restoreCandidate p i = some h ↔
      may h ∧ ∃ above below, (island p i).history = above ++ h :: below ∧ ∀ g ∈ above, ¬may g := by
  intro may
  have hmay : ∀ g, isCandidate p g = true ↔ may g := fun g => by
    simp only [may, isCandidate, Bool.and_eq_true, bne_iff_ne, Bool.not_eq_true', autoRestore_iff, entryIs_iff, and_assoc]
  rw [restoreCandidate, List.find?_eq_some_iff_append]
  simp only [hmay, Bool.not_eq_true', ← Bool.not_eq_true]

theorem restoreHolds_iff {e : EntryConfig} (he : entryCfg p h.consumer = some e) :
    restoreHolds p i f h = true ↔
      (∃ k, setConfigured p k = true ∧ islandOf p p.cfg.sets[k].sect = some i ∧ p.setImage[k].closed = true)
      ∧ (island p i).shed.state = .idle ∧ p.cfg.plant.autoRestore = true
      ∧ (p.cfg.plant.reserve : Int) + p.cfg.plant.restoreMargin ≤ f.spare - max (h.offered : Int) e.estimate := by
  unfold restoreHolds
  rw [he]
  simp only [Bool.and_eq_true, islandLive_iff, beq_iff_eq, decide_eq_true_eq, Option.map_some, Option.getD_some,
    Nat.cast_add, Nat.cast_max, and_assoc]

/-! ### The step (R160) -/

/-- The part as a restore timer runs out: the timer stopped, and the figures taken afresh. -/
def restoreDue (i : IslandNo) (d : Nat) (p : Part) : Part :=
  takeFigures i (onRestore i (fun r => { r with timer := none }) (at' d p))

theorem figuresOf_onRestore (i : IslandNo) (g : RestoreContext → RestoreContext) (p : Part) :
    figuresOf (onRestore i g p) i = figuresOf p i := by
  have hreserve : (island (onRestore i g p) i).reserve = (island p i).reserve :=
    field_of_held (held_onIsland (g := Island.reserve) (f := fun r => { r with restore := g r.restore }) fun _ => rfl) i
  have hheavy : heavyReserved (onRestore i g p) i = heavyReserved p i := by rw [heavyReserved, hreserve, ← heavyReserved]
  unfold figuresOf
  rw [hheavy]
  rfl

theorem restoreDue_eq (i : IslandNo) (d : Nat) (p : Part) :
    restoreDue i d p = onRestore i (fun r => { r with timer := none }) (takeFigures i (at' d p)) := by
  rw [restoreDue, takeFigures, figuresOf_onRestore, takeFigures, keepFigures, keepFigures, onRestore, onRestore,
    onIsland_onIsland, onIsland_onIsland]

theorem onRestore_onRestore (i : IslandNo) (f g : RestoreContext → RestoreContext) (p : Part) :
    onRestore i f (onRestore i g p) = onRestore i (fun r => f (g r)) p := onIsland_onIsland i _ _ p

/-- The timer alone is stopped as it runs out, and the figures are taken. -/
theorem restoreDue_kept (i : IslandNo) (d : Nat) (p : Part) (j : IslandNo) :
    (island (restoreDue i d p) j).shed = (island p j).shed ∧ (island (restoreDue i d p) j).history = (island p j).history := by
  have hnoted : Noted (at' d p) (takeFigures i (at' d p)) := (Noted.refl _).takeFigures i
  have hheld : held (fun r : Island => (r.shed, r.history)) (restoreDue i d p)
      = held (fun r : Island => (r.shed, r.history)) (takeFigures i (at' d p)) := by
    rw [restoreDue_eq]
    exact held_onIsland fun _ => rfl
  have hboth := field_of_held hheld j
  rw [Prod.mk.injEq] at hboth
  exact ⟨hboth.1.trans (hnoted.shed j), hboth.2.trans (hnoted.history j)⟩

theorem restoreCandidate_due (i : IslandNo) (d : Nat) (p : Part) :
    restoreCandidate (restoreDue i d p) i = restoreCandidate p i := by
  rw [restoreCandidate, (restoreDue_kept i d p i).2]
  rfl

theorem restoreHolds_due (i : IslandNo) (d : Nat) (p : Part) (f : Figures) (h : HistoryRecord) :
    restoreHolds (restoreDue i d p) i f h = restoreHolds (at' d p) i f h := by
  unfold restoreHolds
  rw [(restoreDue_kept i d p i).1]
  rfl

theorem restorePassed_runs {r : Island} (hr : p.islands[i] = some r)
    (hs : r.restore.state = .delay ∨ r.restore.state = .interval) (hd : r.restore.timer = some d) :
    restorePassed i p = tryRestore i (figuresOf (at' d p) i) (restoreDue i d p) := by
  have htimer : restoreTimer p i = some d := by
    unfold restoreTimer
    rw [island_some hr]
    rcases hs with hs | hs <;> rw [hs] <;> exact hd
  unfold restorePassed
  rw [htimer]
  rfl

theorem tryRestore_empty (hh : (island p i).history = []) :
    tryRestore i f p = onRestore i (fun _ => RestoreContext.fresh) p := by
  unfold tryRestore
  rw [hh]
  rfl

theorem tryRestore_stays (hne : (island p i).history ≠ [])
    (hno : ∀ h, restoreCandidate p i = some h → restoreHolds p i f h = false) : tryRestore i f p = stillDue i p := by
  unfold tryRestore
  rw [if_neg (by rw [List.isEmpty_iff]; exact hne)]
  split
  · next h hc => exact if_neg (by rw [hno h hc]; exact Bool.false_ne_true)
  · rfl

theorem candidate_mem (hc : restoreCandidate p i = some h) : h ∈ (island p i).history := List.mem_of_find?_eq_some hc

theorem tryRestore_steps (hc : restoreCandidate p i = some h) (hh : restoreHolds p i f h = true) :
    tryRestore i f p = restoreStepFor i h.consumer p := by
  have hne : (island p i).history ≠ [] := List.ne_nil_of_mem (candidate_mem hc)
  unfold tryRestore
  rw [if_neg (by rw [List.isEmpty_iff]; exact hne), hc]
  exact if_pos hh

/-- The restore context that waits for a consumer's restore order (R160). -/
def waitsFor (c : ConsumerNo) : RestoreContext := { RestoreContext.fresh with state := .stepWait, stepConsumer := some c }

/-- A restore order that finds its queue free is handed over, and its entry waits for it (R160). -/
theorem restoreStepFor_queued {c : ConsumerNo} (hcfg : consumerConfigured p c = true)
    (hq : queuedFor p (.consumer c) = none) (hroom : Room p) (hi : p.islands[i].isSome = true) :
    (restoreStepFor i c p).entry = p.entry.set c
      { p.entry[c] with state := some .restorePending, relief := 0, cause := none }
    ∧ Raised p (restoreStepFor i c p) (.consumer c (restoreOrder p c))
    ∧ (island (restoreStepFor i c p) i).restore = waitsFor c
    ∧ SameHistory p (restoreStepFor i c p) ∧ (restoreStepFor i c p).seq = p.seq := by
  obtain ⟨hqueued, hraised⟩ := handOver_raises (b := .consumer c (restoreOrder p c)) (u := false) hcfg (.inr hroom)
  have hnone := handOver_noneReplaced (b := .consumer c (restoreOrder p c)) (u := false) hq
  obtain ⟨o, ho⟩ : ∃ o, o = handOver (.consumer c (restoreOrder p c)) false p := ⟨_, rfl⟩
  rw [← ho] at hqueued hraised hnone
  have hislands : o.part.islands = p.islands := ho ▸ handOver_islands _ _ _
  have hseq : o.part.seq = p.seq := ho ▸ handOver_seq _ _
  have hentry : o.part.entry = p.entry := ho ▸ handOver_entry _ _ _
  obtain ⟨step, hstep⟩ : ∃ q, q = onRestore i (fun _ => waitsFor c) (enterEntry c .restorePending o.part) := ⟨_, rfl⟩
  have hrun : restoreStepFor i c p = rebuildFor c step := by
    unfold restoreStepFor
    rw [← ho]
    dsimp only
    rw [hqueued, hnone, hstep]
    rfl
  have hnoted : Noted step (rebuildFor c step) := (Noted.refl step).rebuildFor c
  rw [hrun]
  refine ⟨?_, ?_, ?_, ?_, ?_⟩
  · rw [hnoted.entry, hstep]
    refine Eq.trans (b := (enterEntry c .restorePending o.part).entry) rfl ?_
    rw [enterEntry, onEntry_entry, hentry]
    rfl
  · exact hnoted.raised (raised_congr hraised (by rw [hstep]; rfl) (by rw [hstep]; rfl) (by rw [hstep]; rfl))
  · rw [hnoted.restore, hstep, onRestore, island_onIsland_self]
    exact hislands ▸ hi
  · intro j
    rw [hnoted.history, hstep]
    refine (field_of_held (held_onIsland (g := Island.history)
      (f := fun r => { r with restore := waitsFor c }) fun _ => rfl) j).trans ?_
    exact congrArg Island.history (congrArg (fun v : Vector (Option Island) 4 => v[j].getD Island.fresh) hislands)
  · rw [hnoted.seq, hstep]
    exact hseq

end

/-- Settles O35: the candidate and its condition, and then what the step does with them. -/
theorem restoreTimerEnds : Obligations.RestoreTimerEnds := by
  unfold Obligations.RestoreTimerEnds
  refine ⟨restoreCandidate_iff, fun p i f h e he => restoreHolds_iff he, fun p w i r d ha hr hs hd => ?_⟩
  intro now f
  have hrun := restorePassed_runs hr hs hd
  have hhistory : (island (restoreDue i d p) i).history = r.history := by
    rw [(restoreDue_kept i d p i).2, island_some hr]
  have hdue := restoreDue_eq i d p
  refine ⟨fun hnil => running_of_eq ha (hrun.trans ?_), fun hne hno => running_of_eq ha (hrun.trans ?_),
    fun h e hc hh he hst hq hroom => ?_⟩
  · rw [tryRestore_empty (hhistory.trans hnil), hdue]
    exact onRestore_onRestore i _ _ _
  · rw [tryRestore_stays (by rw [hhistory]; exact hne) (fun h hc => (restoreHolds_due i d p f h).trans
      (hno h ((restoreCandidate_due i d p).symm.trans hc))), hdue]
    exact onRestore_onRestore i _ _ _
  · have hentry : (restoreDue i d p).entry = p.entry := rfl
    have hstep := tryRestore_steps (p := restoreDue i d p) (f := f) ((restoreCandidate_due i d p).trans hc)
      ((restoreHolds_due i d p f h).trans hh)
    have hconf : consumerConfigured p h.consumer = true := by
      unfold consumerConfigured
      rw [he]
      exact hst
    have horder : restoreOrder (restoreDue i d p) h.consumer
        = (match e.kind with | .breaker => .close | .limitable => .release) := by
      change restoreOrder p h.consumer = _
      unfold restoreOrder
      rw [he, Option.map_some]
      cases e.kind <;> rfl
    have hsome : (restoreDue i d p).islands[i].isSome = true := by
      rw [restoreDue, takeFigures, keepFigures, onIsland_isSome, onRestore, onIsland_isSome]
      exact hr ▸ rfl
    have hbeside : Beside (at' d p) (tryRestore i f (restoreDue i d p)) :=
      handing_tryRestore (units_beside (at' d p)).toHanding i f ((Beside.refl _).of_eq rfl rfl rfl rfl rfl)
    obtain ⟨hentry', hraised, hrestore, hhist, hseq⟩ := restoreStepFor_queued (p := restoreDue i d p) hconf hq hroom hsome
    rw [horder] at hraised
    rw [← hstep] at hentry' hraised hrestore hhist hseq
    generalize tryRestore i f (restoreDue i d p) = q at hrun hbeside hentry' hraised hrestore hhist hseq
    refine ⟨q, running_of_eq ha hrun, ?_, fun c hne => ?_, raised_since hraised (Nat.le_refl _), ?_, ?_, ?_,
      fun j => (hhist j).trans (restoreDue_kept i d p j).2, hbeside.sameAside, hseq⟩
    · rw [hentry', Fin.getElem_fin, Vector.getElem_set_self]
    · rw [hentry', hentry]
      exact Vector.getElem_set_ne _ _ fun h' => hne (Fin.ext h'.symm)
    · rw [hrestore]
      rfl
    · rw [hrestore]
      rfl
    · rw [hrestore]
      rfl

end Sys2Proof.Proofs
end

section
/-! SHED CONSUMER, RELEASE CONSUMER and RESTORE STEP (R154, R155, R161). -/

namespace Sys2Proof.Proofs

open Sys2Proof.Machine Sys2Proof.Claims

section

variable {p : Part} {c : ConsumerNo} {e : EntryConfig} {i : IslandNo}

/-! ### Manual shed (R154) -/

theorem consumer_of_entryCfg (he : entryCfg p c = some e) : e.consumer = c := by
  have h := List.find?_some he
  exact beq_iff_eq.1 h

theorem configured_of_entryCfg (he : entryCfg p c = some e) (hst : stationAssigned e.station = true) :
    consumerConfigured p c = true := by
  unfold consumerConfigured
  rw [he]
  exact hst

/-- The order that takes an entry off whole relieves what the entry offers (R129, R154). -/
theorem shedRelief_whole (hs : p.entry[e.consumer].state = some .connected) : shedRelief p e (wholeOrder e) = offeredKw p e := by
  cases hk : e.kind with
  | breaker => simp only [wholeOrder, hk, shedRelief]
  | limitable => simp only [wholeOrder, hk, shedRelief, offeredKw_limitable hs hk]

theorem manualShed_connected (he : entryCfg p c = some e) (hst : stationAssigned e.station = true)
    (hs : p.entry[c].state = some .connected) (hq : queuedFor p (.consumer c) = none) (hr : Room p) :
    ∃ q, manualShed e p = (q, .done)
      ∧ q.entry = p.entry.set c (pendedEntry p.entry[c] (offeredKw p e) .manual)
      ∧ Raised p q (.consumer c (wholeOrder e)) ∧ SameHistory p q ∧ q.seq = p.seq := by
  obtain rfl := consumer_of_entryCfg he
  obtain ⟨hqueued, hreplaced, hentry, hraised⟩ := hand_connected (o := noneHanded p) (a := wholeOrder e) (u := false)
    (cause := .manual) (configured_of_entryCfg he hst) hs (.inr hr)
  have hnone := handOver_noneReplaced (b := .consumer e.consumer (wholeOrder e)) (u := false) hq
  rw [show (noneHanded p).part = p from rfl] at hreplaced hentry hraised
  rw [hnone] at hreplaced
  obtain ⟨o, ho⟩ : ∃ o, o = (noneHanded p).hand e (wholeOrder e) false .manual := ⟨_, rfl⟩
  have hhanded : Handed p o.part := ho ▸ (Handed.refl p).hand (o := noneHanded p) _ _ _ _
  rw [← ho] at hqueued hreplaced hentry hraised
  have hne : o.queued ≠ [] := by
    rw [hqueued]
    exact List.cons_ne_nil _ _
  rw [shedRelief_whole hs] at hentry
  have hrun : manualShed e p = (match islandOf p e.sect with | some i => rebuild i o.part | none => o.part, .done) := by
    unfold manualShed
    rw [hs]
    dsimp only
    rw [← ho, if_neg (by rw [List.isEmpty_iff]; exact hne)]
    cases islandOf p e.sect with
    | none => rfl
    | some i => exact congrArg (·, ResultCode.done) ((done_queued hne).trans (grantsLost_none hreplaced))
  have hnoted : Noted o.part (match islandOf p e.sect with | some i => rebuild i o.part | none => o.part) := by
    split
    · exact (Noted.refl _).rebuild _
    · exact .refl _
  exact ⟨_, hrun, hnoted.entry.trans hentry, hnoted.raised hraised, sameHistory_trans hhanded.history hnoted.history,
    hnoted.seq.trans hhanded.seq⟩

theorem changeRecord_eq (c : ConsumerNo) (f : HistoryRecord → HistoryRecord) (p : Part) : changeRecord c f p =
    { p with islands := p.islands.map (Option.map fun r =>
      { r with history := r.history.map fun h => if h.consumer == c then f h else h }) } :=
  foldl_onIsland (fun _ r => { r with history := r.history.map fun h => if h.consumer == c then f h else h })
    (fun _ _ => rfl) p

theorem changeRecord_history (c : ConsumerNo) (f : HistoryRecord → HistoryRecord) (p : Part) (j : IslandNo) :
    (island (changeRecord c f p) j).history = (island p j).history.map fun h => if h.consumer = c then f h else h := by
  rw [changeRecord_eq, island, island_map rfl, island]
  simp only [beq_iff_eq]
  cases p.islands[j] <;> rfl

theorem manualShed_shed (hs : p.entry[e.consumer].state = some .shed) :
    manualShed e p = (changeRecord e.consumer (fun h => { h with cause := .manual }) p, .done) := by
  unfold manualShed
  rw [hs]

theorem manualShed_refused (hc : p.entry[e.consumer].state ≠ some .connected) (hs : p.entry[e.consumer].state ≠ some .shed) :
    manualShed e p = (p, .refused) := by
  unfold manualShed
  split
  · next h => exact absurd h hc
  · next h => exact absurd h hs
  · rfl

/-! ### Manual release (R155) -/

theorem manualRelease_refused (h : hasRecord p c = false) : manualRelease c p = (p, .refused) := by
  unfold manualRelease
  rw [if_neg (by rw [h]; exact Bool.false_ne_true)]

/-- The release changes the consumer's record and the entry's restore-failed flag (R128, R155). -/
theorem manualRelease_done (h : hasRecord p c = true) :
    ∃ q, manualRelease c p = (q, .done)
      ∧ (∀ j : IslandNo, (island q j).history = (island p j).history.map fun h =>
          if h.consumer = c then { h with cause := if h.cause = .manual then .released else h.cause } else h)
      ∧ q.entry = p.entry.set c { p.entry[c] with restoreFailed := false }
      ∧ Moved p q ∧ ∀ j : IslandNo, (island q j).restore = (island p j).restore := by
  obtain ⟨released, hreleased⟩ : ∃ q, q = changeRecord c
      (fun h => if h.cause == .manual then { h with cause := .released } else h) p := ⟨_, rfl⟩
  have hhistory : ∀ j : IslandNo, (island released j).history = (island p j).history.map fun h =>
      if h.consumer = c then { h with cause := if h.cause = .manual then .released else h.cause } else h := fun j => by
    rw [hreleased, changeRecord_history]
    refine List.map_congr_left fun h _ => ?_
    by_cases hc : h.cause = .manual
    · simp only [hc, beq_self_eq_true, if_true]
    · simp only [hc, beq_iff_eq, if_false]
  have hrestore : ∀ j : IslandNo, (island released j).restore = (island p j).restore := by
    rw [hreleased, changeRecord_eq]
    exact field_of_held (held_map (g := Island.restore) fun _ => rfl)
  have hmoved : Moved p released := hreleased ▸ (Moved.refl p).changeRecord c _
  have hentry : released.entry = p.entry := by rw [hreleased, changeRecord_eq]
  unfold manualRelease
  rw [if_pos h, ← hreleased]
  dsimp only
  split
  · obtain ⟨q, hq⟩ : ∃ q, q = rebuildFor c (onEntry c (fun r => { r with restoreFailed := false }) released) := ⟨_, rfl⟩
    have hnoted : Noted (onEntry c (fun r => { r with restoreFailed := false }) released) q := hq ▸ (Noted.refl _).rebuildFor c
    refine ⟨q, by rw [hq], fun j => (hnoted.history j).trans (hhistory j), ?_, (hmoved.onEntry c _).noted hnoted,
      fun j => (hnoted.restore j).trans (hrestore j)⟩
    rw [hnoted.entry, onEntry_entry, hentry]
  · next hf =>
    refine ⟨released, rfl, hhistory, ?_, hmoved, hrestore⟩
    have hsame : ∀ r : EntryRecord, r.restoreFailed = false → { r with restoreFailed := false } = r := fun r h => by
      rw [← h]
    rw [hentry, hsame _ (Bool.not_eq_true _ ▸ hf)]
    exact (Vector.set_getElem_self c.isLt).symm

end

/-! ### The answers -/

section

variable {p : Part} {w : List Instr} {tag n : Byte} {c : ConsumerNo} {e : EntryConfig}

theorem serveShed_stationless (hn : n.toNat = c.val + 1) (he : entryCfg p c = some e) (hst : stationAssigned e.station = false) :
    serveShed n p = answered .noSuch p := by
  rw [serveShed, bind_numbered _ hn, he]
  dsimp only
  rw [hst]
  rfl

theorem serveShed_acquire (hn : n.toNat = c.val + 1) (he : entryCfg p c = some e) (hst : stationAssigned e.station = true)
    (hp : p.phase = .acquire) : serveShed n p = answered .refused p := by
  rw [serveShed, bind_numbered _ hn, he]
  dsimp only
  rw [hst, hp]
  rfl

theorem serveShed_unlisted (hn : ∀ c : ConsumerNo, n.toNat = c.val + 1 → entryCfg p c = none) :
    serveShed n p = answered .noSuch p := by rw [serveShed, bind_numbered_none hn]

theorem serveRelease_unlisted (hn : ∀ c : ConsumerNo, n.toNat = c.val + 1 → entryCfg p c = none) :
    serveRelease n p = answered .noSuch p := by rw [serveRelease, bind_numbered_none hn]

theorem serveShed_runs (hn : n.toNat = c.val + 1) (he : entryCfg p c = some e) (hst : stationAssigned e.station = true)
    (hp : p.phase = .run) : serveShed n p = answered (manualShed e p).2 (manualShed e p).1 := by
  rw [serveShed, bind_numbered _ hn, he]
  dsimp only
  rw [hst, hp]
  rfl

theorem serveRelease_listed (hn : n.toNat = c.val + 1) (he : entryCfg p c = some e) :
    serveRelease n p = answered (manualRelease c p).2 (manualRelease c p).1 := by
  rw [serveRelease, bind_numbered _ hn, he, ← consumer_of_entryCfg he]

theorem serveRestoreStep_noSuch (hn : ∀ s : SectionNo, n.toNat = s.val + 1 → islandOf p s = none) :
    serveRestoreStep n p = answered .noSuch p := by rw [serveRestoreStep, namedIsland, bind_numbered_none hn]

theorem serveRestoreStep_held {s : SectionNo} {i : IslandNo} (hn : n.toNat = s.val + 1) (hi : islandOf p s = some i)
    (h : (island p i).restore.state = .held) :
    serveRestoreStep n p = answered .done (onRestore i (heldToInterval p) p) := by
  rw [serveRestoreStep, namedIsland_some hn hi]
  dsimp only
  rw [commandRestoreStep, if_pos (by rw [beq_iff_eq]; exact h)]

theorem serveRestoreStep_refused {s : SectionNo} {i : IslandNo} (hn : n.toNat = s.val + 1) (hi : islandOf p s = some i)
    (h : (island p i).restore.state ≠ .held) : serveRestoreStep n p = answered .refused p := by
  rw [serveRestoreStep, namedIsland_some hn hi]
  dsimp only
  rw [commandRestoreStep, if_neg (by rw [beq_iff_eq]; exact h)]

/-- RESTORE STEP sends a HELD pacer on (R161). -/
theorem restoreStep_held {s : SectionNo} {i : IslandNo} (hf : Free p) (hn : n.toNat = s.val + 1) (hi : islandOf p s = some i)
    (h : (island p i).restore.state = .held) :
    Answers (.restoreStep tag n) p w 19 tag [n] .done [] (onRestore i (fun r =>
      { r with state := .interval, timer := some (p.clock + p.cfg.plant.restoreStep * 1000), due := false }) p) :=
  answers_by (q := onRestore i (heldToInterval (numberedPart p)) (numberedPart p)) hf rfl rfl (.inl rfl) nofun
    (serveRestoreStep_held (p := numberedPart p) hn hi h)

/-- What a SHED CONSUMER leaves beside the units. -/
theorem manualShed_beside {q : Part} {code : ResultCode} (h : manualShed e (numberedPart p) = (q, code)) :
    SameAside p { q with nextRequest := p.nextRequest } := by
  have hbeside := handing_manualShed (units_beside (numberedPart p)).toHanding e (.refl _)
  rw [h] at hbeside
  exact aside_numbered hbeside.sameAside

theorem shed_answers {q : Part} {code : ResultCode} (hf : Free p) (hn : n.toNat = c.val + 1) (he : entryCfg p c = some e)
    (hst : stationAssigned e.station = true) (hp : p.phase = .run) (h : manualShed e (numberedPart p) = (q, code)) :
    Answers (.shedConsumer tag n) p w 17 tag [n] code [] { q with nextRequest := p.nextRequest } := by
  refine answers_by hf rfl rfl (.inl rfl) nofun ((serveShed_runs (p := numberedPart p) hn he hst hp).trans ?_)
  rw [h]
  rfl

theorem shed_connected (hf : Free p) (hn : n.toNat = c.val + 1) (he : entryCfg p c = some e)
    (hst : stationAssigned e.station = true) (hp : p.phase = .run) (hs : p.entry[c].state = some .connected)
    (hq : queuedFor p (.consumer c) = none) (hr : Room p) :
    ∃ q, Answers (.shedConsumer tag n) p w 17 tag [n] .done [] q ∧ q.entry[c].state = some .shedPending
      ∧ q.entry[c].cause = some .manual ∧ q.entry[c].relief = offeredKw p e
      ∧ Raised p q (.consumer c (match e.kind with | .breaker => .trip | .limitable => .limit e.floor))
      ∧ (∀ d : ConsumerNo, d ≠ c → q.entry[d] = p.entry[d]) ∧ SameAside p q ∧ SameHistory p q ∧ q.seq = p.seq := by
  obtain ⟨q, hrun, hentry, hraised, hhist, hseq⟩ := manualShed_connected (p := numberedPart p) he hst hs hq hr
  have hself : q.entry[c] = pendedEntry p.entry[c] (offeredKw p e) .manual := by
    rw [hentry]
    exact Vector.getElem_set_self _
  refine ⟨_, shed_answers hf hn he hst hp hrun, congrArg EntryRecord.state hself, congrArg EntryRecord.cause hself,
    congrArg EntryRecord.relief hself, ?_, fun d hd => ?_, manualShed_beside hrun, hhist, hseq⟩
  · unfold wholeOrder at hraised
    cases hk : e.kind with
    | breaker | limitable =>
      rw [hk] at hraised
      exact hraised
  · rw [hentry]
    exact Vector.getElem_set_ne _ _ fun h => hd (Fin.ext h.symm)

/-- SHED CONSUMER of an entry that is SHED makes its record's cause MANUAL (R154). -/
theorem shed_again (hf : Free p) (hn : n.toNat = c.val + 1) (he : entryCfg p c = some e)
    (hst : stationAssigned e.station = true) (hp : p.phase = .run) (hs : p.entry[c].state = some .shed) :
    ∃ q, Answers (.shedConsumer tag n) p w 17 tag [n] .done [] q
      ∧ (∀ j : IslandNo, (island q j).history =
        (island p j).history.map fun h => if h.consumer = c then { h with cause := .manual } else h)
      ∧ q.entry = p.entry ∧ SameAside p q ∧ q.seq = p.seq := by
  obtain rfl := consumer_of_entryCfg he
  have hrun := manualShed_shed (p := numberedPart p) hs
  have hmoved := (Moved.refl (numberedPart p)).changeRecord e.consumer fun h => { h with cause := .manual }
  have hhist := changeRecord_history e.consumer (fun h => { h with cause := .manual }) (numberedPart p)
  have hentry : (changeRecord e.consumer (fun h => { h with cause := .manual }) (numberedPart p)).entry = p.entry := by
    rw [changeRecord_eq]
    rfl
  generalize changeRecord e.consumer (fun h => { h with cause := .manual }) (numberedPart p) = q at hrun hmoved hhist hentry
  exact ⟨_, shed_answers hf hn he hst hp hrun, hhist, hentry, manualShed_beside hrun, hmoved.seq⟩

theorem release_done (hf : Free p) (hn : n.toNat = c.val + 1) (he : entryCfg p c = some e) (h : hasRecord p c = true) :
    ∃ q, Answers (.releaseConsumer tag n) p w 18 tag [n] .done [] q
      ∧ (∀ j : IslandNo, (island q j).history = (island p j).history.map fun h =>
          if h.consumer = c then { h with cause := if h.cause = .manual then .released else h.cause } else h)
      ∧ q.entry = p.entry.set c { p.entry[c] with restoreFailed := false } ∧ SameAside p q ∧ q.seq = p.seq
      ∧ ∀ j : IslandNo, (island q j).restore = (island p j).restore := by
  obtain ⟨q, hrun, hhist, hentry, hmoved, hrestore⟩ := manualRelease_done (p := numberedPart p) h
  have hbeside := calm_manualRelease (units_beside (numberedPart p)).toCalm c (.refl _)
  have hserve := serveRelease_listed (p := numberedPart p) hn he
  rw [hrun] at hbeside hserve
  exact ⟨_, answers_by hf rfl rfl (.inl rfl) nofun hserve, hhist, hentry, aside_numbered hbeside.sameAside, hmoved.seq, hrestore⟩

end

/-- Settles O50: by the state of the entry, the record of the consumer and the state of the pacer. -/
theorem consumerCommandsAct : Obligations.ConsumerCommandsAct := by
  unfold Obligations.ConsumerCommandsAct
  intro p w tag n hf shed release step' recast
  refine ⟨fun hn => ⟨?_, ?_⟩, fun c e hn he => ⟨fun hst => ?_, fun hst hp => ?_, fun hst hp => ⟨fun hs hq hr => ?_, fun hs => ?_,
    fun hc hs => ?_⟩, fun hno => ?_, fun hyes => ?_⟩, fun hn => ?_, fun s i hn hi => ⟨fun hh => ?_, fun hh => ?_⟩⟩
  · exact answers_noSuch hf rfl rfl rfl (serveShed_unlisted (p := numberedPart p) hn)
  · exact answers_noSuch hf rfl rfl rfl (serveRelease_unlisted (p := numberedPart p) hn)
  · exact answers_noSuch hf rfl rfl rfl (serveShed_stationless (p := numberedPart p) hn he hst)
  · exact answers_served hf rfl rfl (.inl rfl) nofun (serveShed_acquire (p := numberedPart p) hn he hst hp)
  · exact shed_connected hf hn he hst hp hs hq hr
  · exact shed_again hf hn he hst hp hs
  · obtain rfl := consumer_of_entryCfg he
    exact shed_answers (q := numberedPart p) hf hn he hst hp (manualShed_refused (p := numberedPart p) hc hs)
  · refine answers_served hf rfl rfl (.inl rfl) nofun ((serveRelease_listed (p := numberedPart p) hn he).trans ?_)
    rw [manualRelease_refused (p := numberedPart p) hno]
    rfl
  · exact release_done hf hn he hyes
  · exact answers_noSuch hf rfl rfl rfl (serveRestoreStep_noSuch (p := numberedPart p) hn)
  · exact restoreStep_held hf hn hi hh
  · exact answers_served hf rfl rfl (.inl rfl) nofun (serveRestoreStep_refused (p := numberedPart p) hn hi hh)

end Sys2Proof.Proofs
end

section
/-! The fields of a masked write (R170): what each takes is what is sent, brought into its range, or what was held; the write is
CLAMPED where a value was not in its range. -/

namespace Sys2Proof.Proofs

open Sys2Proof.Machine Sys2Proof.Claims

section

variable {m : Masked} {n : Nat}

theorem number_written (m : Masked) (n lo hi old : Nat) : m.number n lo hi old = written m n lo hi old := rfl

theorem flag_chosen (m : Masked) (n : Nat) (b : Bool) : m.flag n b = chosen m n (fun c => c == 1) b := rfl

theorem beyond_iff {lo hi : Nat} (h : lo ≤ hi) : m.beyond n lo hi = true ↔ beyond m n lo hi := by
  simp only [Masked.beyond, Masked.present, Masked.value, clampTo, beyond, Bool.and_eq_true, bne_iff_ne, ne_eq]
  refine and_congr_right fun _ => ?_
  omega

/-- Nothing is present under an empty mask. -/
theorem number_absent {lo hi old : Nat} (h : m.mask = 0) : m.number n lo hi old = old := by
  simp only [Masked.number, Masked.present, h, Nat.zero_testBit, Bool.false_eq_true, if_false]

theorem not_beyond_absent {lo hi : Nat} (h : m.mask = 0) : ¬beyond m n lo hi := by
  simp only [beyond, h, Nat.zero_testBit, Bool.false_eq_true, false_and, not_false_eq_true]

/-- An enumerated field of a list whose codes are defined (R167). -/
theorem defined_field {forms : List FieldForm} {f : FieldForm} (h : fieldsDefined forms m.fields = true)
    (hf : forms[n]? = some f) : f.defined (m.fields.getD n 0#32) = true := by
  simp only [fieldsDefined, Bool.and_eq_true, beq_iff_eq, List.all_eq_true] at h
  obtain ⟨hlength, hall⟩ := h
  obtain ⟨hn, rfl⟩ := List.getElem?_eq_some_iff.1 hf
  have hn' : n < m.fields.length := hlength ▸ hn
  have hmem : (forms[n], m.fields[n]) ∈ forms.zip m.fields := by
    rw [← List.getElem_zip (h := by rw [List.length_zip]; omega)]
    exact List.getElem_mem _
  rw [List.getD_eq_getElem _ _ hn']
  exact hall _ hmem

theorem sect_chosen (s : SectionNo) (h : FieldForm.sectionCode.defined (m.fields.getD n 0#32) = true) :
    m.sect n s = chosen m n (fun c => Fin.ofNat 4 (c - 1)) s := by
  simp only [FieldForm.defined, Bool.and_eq_true, decide_eq_true_eq] at h
  have hcode : numbered 4 (m.code n) = some (Fin.ofNat 4 (m.code n - 1)) :=
    numbered_val (by
      have : 1 ≤ m.code n ∧ m.code n ≤ 4 := h
      simp only [Fin.val_ofNat]
      omega)
  unfold Masked.sect chosen
  rw [hcode]
  rfl

theorem mode_chosen (x : Mode) (h : FieldForm.mode.defined (m.fields.getD n 0#32) = true) :
    m.mode n x = chosen m n (fun c => if c = 0 then .auto else if c = 1 then .fixed else .localRun) x := by
  simp only [FieldForm.defined, decide_eq_true_eq] at h
  have hcode : modeOf (m.code n) = some (if m.code n = 0 then .auto else if m.code n = 1 then .fixed else .localRun) := by
    have hle : m.code n ≤ 2 := h
    generalize m.code n = c at hle
    match c, hle with
    | 0, _ | 1, _ | 2, _ => rfl
  unfold Masked.mode chosen
  rw [hcode]
  rfl

theorem restoreMode_chosen (x : RestoreMode) :
    m.restoreMode n x = chosen m n (fun c => if c = 0 then .continuous else .step) x := by
  simp only [Masked.restoreMode, chosen, beq_iff_eq]
  rfl

/-- The code of a write that came to be clamped or not (R169). -/
theorem coded_doneOr {clamped : Bool} {P : Prop} (p : Part) (h : clamped = true ↔ P) :
    ∃ code, doneOr clamped p = answered code p ∧ Coded P code := by
  refine ⟨if clamped then .clamped else .done, rfl, fun hp => if_pos (h.2 hp), fun hp => if_neg fun hc => hp (h.1 hc)⟩

end

/-! ### WRITE SET's fields (R41, R171) -/

/-- WRITE SET's fields but the mode, as they are written. -/
theorem writtenSet_value {m : Masked} {c : SetConfig} (h : fieldsDefined setForms m.fields = true) :
    let rated := written m 1 100 20000 c.rated
    let pmin := written m 2 0 rated (min rated c.pmin)
    (writtenSet m c).value =
      { c with
        sect := chosen m 0 (fun c => Fin.ofNat 4 (c - 1)) c.sect
        rated := rated
        pmin := pmin
        weight := written m 3 1 255 c.weight
        fixedOut := written m 4 pmin rated (max pmin (min rated c.fixedOut))
        rampRate := written m 5 10 5000 c.rampRate
        deadband := written m 6 0 100 c.deadband
        gain := written m 7 1 255 c.gain
        startTime := written m 8 5 120 c.startTime
        station := written m 10 0 62 c.station } := by
  intro rated pmin
  have hpmin : min rated (m.openNumber 2 c.pmin) = pmin := by
    unfold pmin Masked.openNumber written Masked.present Masked.value
    clear_value rated
    split <;> omega
  have hle : pmin ≤ rated := hpmin ▸ Nat.min_le_left _ _
  have hfixed : max pmin (min rated (m.openNumber 4 c.fixedOut))
      = written m 4 pmin rated (max pmin (min rated c.fixedOut)) := by
    clear_value rated pmin
    unfold Masked.openNumber written Masked.present Masked.value
    split <;> omega
  rw [← sect_chosen c.sect (defined_field h rfl), ← hfixed, ← hpmin]
  rfl

theorem writtenSet_clamped {m : Masked} {c : SetConfig} :
    (writtenSet m c).clamped = true ↔
      beyond m 1 100 20000 ∨ beyond m 3 1 255 ∨ beyond m 5 10 5000 ∨ beyond m 6 0 100 ∨ beyond m 7 1 255
      ∨ beyond m 8 5 120 ∨ beyond m 10 0 62
      ∨ (if m.mask.testBit 2 = true then (m.fields.getD 2 0#32).toInt else c.pmin) ≠ ((writtenSet m c).value.pmin : Int)
      ∨ (if m.mask.testBit 4 = true then (m.fields.getD 4 0#32).toInt else c.fixedOut)
        ≠ ((writtenSet m c).value.fixedOut : Int) := by
  unfold writtenSet
  extract_lets rated pmin fixedOut pminSent fixedSent
  simp only [setRanges, List.any_cons, List.any_nil, Bool.or_false, Bool.or_eq_true, bne_iff_ne,
    beyond_iff (m := m) (show 100 ≤ 20000 by decide), beyond_iff (m := m) (show 1 ≤ 255 by decide),
    beyond_iff (m := m) (show 10 ≤ 5000 by decide), beyond_iff (m := m) (show 0 ≤ 100 by decide),
    beyond_iff (m := m) (show 5 ≤ 120 by decide), beyond_iff (m := m) (show 0 ≤ 62 by decide), or_assoc]
  rfl

/-- An empty write of a set in its ranges changes nothing (R41). -/
theorem writtenSet_absent {m : Masked} {c : SetConfig} (hm : m.mask = 0) (hc : c.fits) :
    (writtenSet m c).clamped = false := by
  obtain ⟨-, ⟨hlow, hhigh⟩, -⟩ := hc
  refine Bool.eq_false_iff.2 fun h => ?_
  have hp : (writtenSet m c).value.pmin = c.pmin := by
    simp only [writtenSet, number_absent hm, Masked.openNumber, Masked.present, hm, Nat.zero_testBit, Bool.false_eq_true,
      if_false]
    omega
  have hf : (writtenSet m c).value.fixedOut = c.fixedOut := by
    simp only [writtenSet, number_absent hm, Masked.openNumber, Masked.present, hm, Nat.zero_testBit, Bool.false_eq_true,
      if_false]
    omega
  have hor := writtenSet_clamped.1 h
  rw [hp, hf, hm] at hor
  simp only [not_beyond_absent hm, Nat.zero_testBit, Bool.false_eq_true, if_false, ne_eq, not_true_eq_false, or_self] at hor

/-! ### The fields of an entry (R124, R172) -/

end Sys2Proof.Proofs
end

section
/-! The Reserve Unit's doings as changes are handed on (R44, R106 to R112): the flags in flight, the islands' records, events and
requests for sets, and nothing of the other units' records. -/

namespace Sys2Proof.Proofs

open Sys2Proof.Machine Sys2Proof.Claims Sequenced

/-- An island record but for its figures, its table and its reserve record. -/
def besideReserve (r : Island) :=
  (r.pFixed, r.remainder, r.residual, r.periodAt, r.nextPeriod, r.rebuiltAt, r.shed, r.restore, r.history)

/-- The part after doings of the Reserve Unit. -/
structure Asked (p q : Part) : Prop where
  fields : ∃ sq x y n f r t m v l w, q = { p with
    seq := sq, urgent := x, normal := y, nextOrder := n, rawFlags := f, reports := r, supTx := t, allowance := m,
    fieldTx := v, inFlight := l, islands := w }
  kept : held besideReserve q = held besideReserve p

namespace Asked

variable {p q : Part}

theorem refl (p : Part) : Asked p p :=
  ⟨⟨p.seq, p.urgent, p.normal, p.nextOrder, p.rawFlags, p.reports, p.supTx, p.allowance, p.fieldTx, p.inFlight, p.islands,
    rfl⟩, rfl⟩

theorem trans {r : Part} (h : Asked p q) (h' : Asked q r) : Asked p r := by
  obtain ⟨⟨_, _, _, _, _, _, _, _, _, _, _, rfl⟩, hkept⟩ := h
  obtain ⟨⟨_, _, _, _, _, _, _, _, _, _, _, rfl⟩, hkept'⟩ := h'
  exact ⟨⟨_, _, _, _, _, _, _, _, _, _, _, rfl⟩, hkept'.trans hkept⟩

theorem steps {k : SetNo} {r : Part} (h : Asked p q) (hs : Steps k q r) : Asked p r := by
  refine h.trans ?_
  obtain ⟨_, _, _, _, _, _, _, _, _, rfl⟩ := hs.fields
  exact ⟨⟨_, _, _, _, _, _, _, _, _, q.inFlight, q.islands, rfl⟩, rfl⟩

theorem onReserve (h : Asked p q) (i : IslandNo) (f : ReserveRecord → ReserveRecord) : Asked p (Machine.onReserve i f q) :=
  h.trans ⟨⟨q.seq, q.urgent, q.normal, q.nextOrder, q.rawFlags, q.reports, q.supTx, q.allowance, q.fieldTx, q.inFlight, _,
    rfl⟩, held_onIsland fun _ => rfl⟩

theorem takeFigures (h : Asked p q) (i : IslandNo) : Asked p (Machine.takeFigures i q) :=
  h.trans ⟨⟨q.seq, q.urgent, q.normal, q.nextOrder, q.rawFlags, q.reports, q.supTx, q.allowance, q.fieldTx, q.inFlight, _,
    rfl⟩, held_onIsland fun _ => rfl⟩

theorem inFlight (h : Asked p q) (l : Vector Bool 8) : Asked p { q with inFlight := l } :=
  h.trans ⟨⟨q.seq, q.urgent, q.normal, q.nextOrder, q.rawFlags, q.reports, q.supTx, q.allowance, q.fieldTx, l, q.islands,
    rfl⟩, rfl⟩

theorem occur (h : Asked p q) (e : EventKind) (o : EventObject) : Asked p (Machine.occur e o q) := by
  refine h.trans ?_
  obtain ⟨f, r, t, n, heq⟩ := occur_eq e o q
  rw [heq]
  exact ⟨⟨q.seq, q.urgent, q.normal, q.nextOrder, f, r, t, n, q.fieldTx, q.inFlight, q.islands, rfl⟩, rfl⟩

theorem reserveState (h : Asked p q) (i : IslandNo) (st : ReserveState) : Asked p (Machine.reserveState i st q) :=
  h.onReserve i _

theorem confirmStart (h : Asked p q) (i : IslandNo) : Asked p (Machine.confirmStart i q) := h.onReserve i _

theorem clearLow (h : Asked p q) (i : IslandNo) : Asked p (Machine.clearLow i q) := h.onReserve i _

theorem raiseLow (h : Asked p q) (i : IslandNo) : Asked p (Machine.raiseLow i q) := by
  unfold Machine.raiseLow
  refine Asked.onReserve ?_ i _
  split
  · exact h
  · exact h.occur _ _

theorem judgeQuiet (h : Asked p q) (i : IslandNo) (spare : Int) : Asked p (Machine.judgeQuiet i spare q) := by
  unfold Machine.judgeQuiet
  extract_lets p1
  have h1 : Asked p p1 := by
    unfold p1
    split
    · exact h
    · exact h.onReserve i _
  clear_value p1
  split
  · exact h1.onReserve i _
  · split
    · exact h1.onReserve i _
    · split
      · exact h1.onReserve i _
      · exact h1

theorem quietThenJudge (h : Asked p q) (i : IslandNo) (spare : Int) : Asked p (Machine.quietThenJudge i spare q) :=
  (h.reserveState i _).judgeQuiet i spare

theorem tryStart (h : Asked p q) (i : IslandNo) (k : SetNo) : Asked p (Machine.tryStart i k q).part := by
  have hs := h.steps (startRequest_steps k q)
  unfold Machine.tryStart
  extract_lets s
  split
  · exact hs.reserveState i _
  · exact hs.confirmStart i

theorem reserveJudge (h : Asked p q) (i : IslandNo) (spare : Int) : Asked p (Machine.reserveJudge i spare q).part := by
  unfold Machine.reserveJudge
  split
  · exact h.judgeQuiet i spare
  · split
    · exact h.reserveState i _
    · split
      · exact (h.clearLow i).reserveState i _
      · split
        · exact h
        · split
          · exact h.tryStart i _
          · exact h
  · exact h
  · split
    · exact h.reserveState i _
    · split
      · exact h
      · exact h.quietThenJudge i spare
  · split
    · split
      · exact h
      · exact (h.steps (abandonRequest_steps _ q)).quietThenJudge i spare
    · exact h.quietThenJudge i spare

theorem flightFailed (h : Asked p q) (i : IslandNo) (spare : Int) : Asked p (Machine.flightFailed i spare q).part := by
  have hlow : Asked p (Machine.raiseLow i (Machine.confirmStart i q)) := (h.confirmStart i).raiseLow i
  unfold Machine.flightFailed
  extract_lets dead
  split
  · exact (h.clearLow i).reserveState i _
  · split
    · split
      · exact h.tryStart i _
      · exact hlow
    · exact hlow

theorem blackoutStart (h : Asked p q) (i : IslandNo) : Asked p (Machine.blackoutStart i q).part := by
  unfold Machine.blackoutStart
  split
  · exact h.reserveState i _
  · split
    · exact (h.reserveState i _).tryStart i _
    · exact (h.confirmStart i).raiseLow i

theorem reserveChange (h : Asked p q) (c : SetChange) : Asked p (Machine.reserveChange c q).part := by
  unfold Machine.reserveChange
  extract_lets followed
  have hfollowed : Asked p followed := h.inFlight _
  clear_value followed
  split
  · exact hfollowed
  · rename_i i _
    extract_lets p1 spare
    have h1 : Asked p p1 := hfollowed.takeFigures i
    clear_value p1
    split
    · split
      · split
        · exact h1.quietThenJudge i spare
        · exact h1.flightFailed i spare
      · exact h1
    · split
      · exact h1.reserveState i _
      · exact h1.reserveJudge i spare
    · exact h1.reserveJudge i spare

/-! What stays. -/

theorem gov (h : Asked p q) : q.gov = p.gov := by obtain ⟨_, _, _, _, _, _, _, _, _, _, _, rfl⟩ := h.fields; rfl
theorem share (h : Asked p q) : q.share = p.share := by obtain ⟨_, _, _, _, _, _, _, _, _, _, _, rfl⟩ := h.fields; rfl
theorem selection (h : Asked p q) : q.selection = p.selection := by
  obtain ⟨_, _, _, _, _, _, _, _, _, _, _, rfl⟩ := h.fields; rfl
theorem setImage (h : Asked p q) : q.setImage = p.setImage := by obtain ⟨_, _, _, _, _, _, _, _, _, _, _, rfl⟩ := h.fields; rfl
theorem entry (h : Asked p q) : q.entry = p.entry := by obtain ⟨_, _, _, _, _, _, _, _, _, _, _, rfl⟩ := h.fields; rfl
theorem cfg (h : Asked p q) : q.cfg = p.cfg := by obtain ⟨_, _, _, _, _, _, _, _, _, _, _, rfl⟩ := h.fields; rfl
theorem clock (h : Asked p q) : q.clock = p.clock := by obtain ⟨_, _, _, _, _, _, _, _, _, _, _, rfl⟩ := h.fields; rfl

end Asked

/-! ### Requests for the other sets -/

/-- The requests of the Reserve Unit leave alone the record and the missing order of a set that they do not act on. -/
theorem tests_unasked (k : SetNo) {r : SeqRecord} (hr : Settled r) :
    Tests (fun q => q.seq[k] = r ∧ NoneFor (.set k) q) where
  share _ _ h := h
  gov _ _ _ h := h
  selection _ _ h := h
  inFlight _ _ h := h
  occurs p e x h := by
    obtain ⟨f, rs, t, n, heq⟩ := occur_eq e x p
    rw [heq]
    exact h
  tables _ _ _ _ h := h
  starts p j h := by
    refine ⟨(handing_quiet k r hr).starts p j h.1, ?_⟩
    by_cases hj : k = j
    · subst hj
      rw [startRequest_unmoved (by rw [h.1]; exact hr.1)]
      exact h.2
    · unfold startRequest
      split
      · extract_lets begun handed started
        have hhanded : NoneFor (.set k) handed.1 := noneFor_handSet (p := begun.part) (fun h => hj (ObjectRef.set.inj h)) h.2
        split <;> exact hhanded
      · exact h.2
  abandons p j h := by
    refine ⟨(handing_quiet k r hr).abandons p j h.1, ?_⟩
    unfold abandonRequest
    split <;> exact h.2

/-- The record of a set that stands by, or has been started since. -/
def Stands (r : SeqRecord) : Prop := r.state = some .standby ∨ r.state = some .starting

theorem stands_startRequest {p : Part} {k : SetNo} (h : Stands p.seq[k]) : Stands (startRequest k p).1.part.seq[k] := by
  unfold startRequest
  split
  · extract_lets o handed o1
    obtain ⟨l, hl⟩ := handSet_seq_self k .start o.part
    have h1 : o1.part.seq[k] = withOutcome l o.part.seq[k] := hl
    split
    · rw [Stands, h1]
      exact .inr (congrArg SeqRecord.state (enter_self _ k .starting))
    · exact .inl (congrArg SeqRecord.state (enter_self _ k .standby))
  · exact h

theorem handOn_stands {o : Sequenced} {k : SetNo} (h : Stands o.part.seq[k]) : Stands o.handOn.seq[k] := by
  have hkept : Handing (fun q => Stands q.seq[k]) := handing_record (P := Stands) (fun _ h => stands_startRequest h) fun p h => by
    rw [abandonRequest_unmoved]
    · exact h
    · rcases h with h | h <;> rw [h] <;> exact nofun
  exact handing_handOn hkept o h

/-! ### A set without records -/

/-- The records of a set that is not configured, with no order for it. -/
structure Blank (k : SetNo) (q : Part) : Prop where
  unasked : q.seq[k] = SeqRecord.reset ∧ NoneFor (.set k) q
  gov : q.gov[k] = GovRecord.reset
  selection : q.selection[k] = SelectionRecord.reset
  image : q.setImage[k] = SetImage.reset

theorem reset_settled : Settled SeqRecord.reset := ⟨nofun, fun h => nomatch h.1⟩

/-- A rebuild keeps the reset selection of a set whose breaker is open. -/
theorem rebuild_selection_blank {k : SetNo} {q : Part} (i : IslandNo) (h : q.selection[k] = SelectionRecord.reset)
    (hopen : q.setImage[k].closed = false) : (rebuild i q).selection[k] = SelectionRecord.reset := by
  unfold rebuild rebuildWith
  extract_lets table noted
  have hleft : (leaveTable i (takeFigures i q)).selection[k] = SelectionRecord.reset :=
    fold_keeps (I := fun x => x.selection[k] = SelectionRecord.reset) _ _ (fun x j hx => by
      refine (modifyAt_get x.selection j k _).trans ?_
      split
      · exact congrArg (fun r => { r with short := false }) hx
      · exact hx) h
  refine List.foldlRecOn (motive := fun x : Part => x.selection[k] = SelectionRecord.reset) table _ hleft fun x hx s hs => ?_
  have hset : s.set ≠ k := by
    simp only [table, tableOf, List.mem_map, List.mem_filter] at hs
    obtain ⟨j, ⟨-, hbus⟩, rfl⟩ := hs
    have hjset : ∀ d, (selectionFor (takeFigures i q) i j d).set = j := fun d => by
      unfold selectionFor
      split <;> rfl
    rw [hjset]
    rintro rfl
    simp only [onIslandBus, Bool.and_eq_true] at hbus
    exact absurd (hopen.symm.trans hbus.2) Bool.false_ne_true
  have hkept : (onSelection s.set (fun _ => { last := some s, short := s.insufficient }) x).selection[k]
      = SelectionRecord.reset := (modifyAt_other _ _ _ _ hset).trans hx
  unfold noteSelection
  extract_lets kept
  split
  · obtain ⟨f, r, t, n, heq⟩ := occur_eq .contingencyShort (.set s.set) kept
    rw [heq]
    exact hkept
  · exact hkept

theorem rebuild_blank {k : SetNo} {q : Part} (i : IslandNo) (h : Blank k q) : Blank k (rebuild i q) := by
  have hnoted := (Noted.refl q).rebuild i
  refine ⟨steady_rebuild (tests_unasked k reset_settled).toSteady i h.unasked, hnoted.gov ▸ h.gov,
    rebuild_selection_blank i h.selection (congrArg SetImage.closed h.image), hnoted.setImage ▸ h.image⟩

/-- The Share and Governor Output Units take a change: a plan that is not in progress stays as it is. -/
theorem govChange_blank {k : SetNo} {q : Part} (c : SetChange) (h : Blank k q) : Blank k (govChange c (shareChange c q)) := by
  have hshared : Blank k (shareChange c q) := ⟨h.unasked, h.gov, h.selection, h.image⟩
  unfold govChange
  split
  · exact hshared
  · refine ⟨h.unasked, ?_, h.selection, h.image⟩
    by_cases hk : c.set = k
    · have hcut : ∀ g, g = GovRecord.reset → (if g.plan.inProgress && g.plan.cls != .noPulse then endPlan g else g)
          = GovRecord.reset := by
        rintro _ rfl
        rfl
      rw [hk]
      exact (modifyAt_self (shareChange c q).gov k _).trans (hcut _ h.gov)
    · exact (modifyAt_other (shareChange c q).gov _ _ _ hk).trans h.gov

theorem deliverChange_blank {k : SetNo} {q : Part} (c : SetChange) (h : Blank k q) : Blank k (deliverChange c q).part := by
  have hunits := govChange_blank c h
  have hasked : Asked (govChange c (shareChange c q)) (reserveChange c (govChange c (shareChange c q))).part :=
    (Asked.refl _).reserveChange c
  have hreserve : Blank k (reserveChange c (govChange c (shareChange c q))).part :=
    ⟨tests_reserveChange (tests_unasked k reset_settled) c hunits.unasked, hasked.gov ▸ hunits.gov,
      hasked.selection ▸ hunits.selection, hasked.setImage ▸ hunits.image⟩
  unfold deliverChange
  extract_lets units o
  have ho : Blank k o.part := by
    unfold o
    split
    · exact hreserve
    · exact hunits
  clear_value o
  change Blank k (match setIsland o.part c.set with
    | some i => rebuild i o.part
    | none => o.part)
  split
  · exact rebuild_blank _ ho
  · exact ho

theorem handOnAll_blank {k : SetNo} (fuel : Nat) (l : List SetChange) {q : Part} (h : Blank k q) :
    Blank k (handOnAll fuel l q) := by
  induction fuel generalizing l q with
  | zero => exact h
  | succ fuel ih =>
    cases l with
    | nil => exact h
    | cons c rest => exact ih _ (deliverChange_blank c h)

theorem handOn_blank {k : SetNo} {o : Sequenced} (h : Blank k o.part) : Blank k o.handOn := handOnAll_blank 64 _ h

end Sys2Proof.Proofs
end

section
/-! WRITE SET (R41, R171): its fields, what its new station and section bring (R8, R10), and then its mode (R62). -/

namespace Sys2Proof.Proofs

open Sys2Proof.Machine Sys2Proof.Claims Sequenced

/-! ### What an edit of the configuration leaves alone -/

theorem sameDesk_trans {p q r : Part} (h : SameDesk p q) (h' : SameDesk q r) : SameDesk p r := by
  obtain ⟨hd, hs⟩ := h
  obtain ⟨hd', hs'⟩ := h'
  refine ⟨hd'.trans hd, ?_⟩
  simp only [Prod.mk.injEq] at hd
  obtain ⟨-, -, -, -, -, -, -, hreplies, -, -⟩ := hd
  obtain ⟨hsup, hallow⟩ | ⟨hidle, hr, hallow, rep, hrep⟩ := hs
  · rw [hsup, hreplies, hallow] at hs'
    exact hs'
  · obtain ⟨hsup', hallow'⟩ | ⟨hidle', -⟩ := hs'
    · exact .inr ⟨hidle, hr, hallow'.symm ▸ hallow, rep, hsup'.trans hrep⟩
    · exact nomatch hidle'.symm.trans hrep

/-- Desk, clock, map and the records of meters and ties are the same. -/
structure Edited (p q : Part) : Prop where
  desk : SameDesk p q
  clock : q.clock = p.clock
  map : SameMap p q
  meter : q.meterImage = p.meterImage
  tie : q.tieImage = p.tieImage

namespace Edited

variable {p q : Part}

theorem refl (p : Part) : Edited p p := ⟨⟨rfl, .inl ⟨rfl, rfl⟩⟩, rfl, rfl, rfl, rfl⟩

theorem trans {r : Part} (h : Edited p q) (h' : Edited q r) : Edited p r :=
  ⟨sameDesk_trans h.desk h'.desk, h'.clock.trans h.clock, h'.map.trans h.map, h'.meter.trans h.meter, h'.tie.trans h.tie⟩

theorem beside (h : Beside p q) : Edited p q :=
  ⟨h.desk, h.clock, h.map, congrArg (fun x => x.2.2.1) h.images, congrArg (fun x => x.2.2.2) h.images⟩

/-- With none of the fields concerned changed. -/
theorem of_eq {r : Part} (h : Edited p q) (hdesk : r.desk = q.desk) (hsup : (r.supTx, r.allowance) = (q.supTx, q.allowance))
    (hfields : (r.clock, r.phase, r.acquireAt, r.tieJoins, r.islandMap, r.meterImage, r.tieImage)
      = (q.clock, q.phase, q.acquireAt, q.tieJoins, q.islandMap, q.meterImage, q.tieImage)) : Edited p r := by
  simp only [Prod.mk.injEq] at hsup hfields
  obtain ⟨hclock, hphase, hacquire, hjoins, hmap, hmeter, htie⟩ := hfields
  refine h.trans ⟨⟨hdesk, .inl hsup⟩, hclock, ?_, hmeter, htie⟩
  simp only [SameMap, hphase, hacquire, hjoins, hmap]

theorem numbered (h : Edited (numberedPart p) q) : Edited p { q with nextRequest := p.nextRequest } :=
  ⟨sameDesk_numbered h.desk, h.clock, h.map, h.meter, h.tie⟩

theorem phase (h : Edited p q) : q.phase = p.phase := congrArg (fun x => x.1) h.map

theorem mapParts (h : Edited p q) : q.phase = p.phase ∧ q.tieJoins = p.tieJoins ∧ q.islandMap = p.islandMap :=
  ⟨h.phase, congrArg (fun x => x.2.2.1) h.map, congrArg (fun x => x.2.2.2) h.map⟩

end Edited

theorem rebuildSection_noted (s : SectionNo) (p : Part) : Noted p (rebuildSection s p) := by
  unfold rebuildSection
  split
  · exact (Noted.refl p).rebuild _
  · exact .refl p

theorem Noted.beside {p q : Part} (h : Noted p q) (hdesk : SameDesk p q) : Beside p q := by
  obtain ⟨⟨_, _, _, _, _, _, rfl⟩, -⟩ := h
  exact ⟨rfl, hdesk, Nat.le_refl _, .inl rfl⟩

theorem rebuildSection_blank {k : SetNo} {q : Part} (s : SectionNo) (h : Blank k q) : Blank k (rebuildSection s q) := by
  unfold rebuildSection
  split
  · exact rebuild_blank _ h
  · exact h

theorem rebuildSection_beside {p q : Part} (s : SectionNo) (h : Beside p q) : Beside p (rebuildSection s q) := by
  unfold rebuildSection
  split
  · exact steady_rebuild (units_beside p).toCalm.steady _ h
  · exact h

theorem Beside.seqs {p q : Part} (h : Beside p q) (v : Vector SeqRecord 8) : Beside p { q with seq := v } :=
  h.of_eq rfl rfl rfl rfl rfl

/-! ### A station address written for a set (R8, R10) -/

section

variable {k : SetNo} {old : Nat} {p : Part}

/-- A set's object record after its station was written, the former one being `old`. -/
def stationImage (old now : Nat) (r : SetImage) : SetImage :=
  if old == now then r
  else if !stationAssigned old || !stationAssigned now then SetImage.reset
  else { r with fresh := Fresh.reset }

/-- A part with a set's object record replaced, but for what the units do, and the order in transmission may be marked. -/
structure Stationed (k : SetNo) (im : SetImage) (p q : Part) : Prop where
  edited : Edited p q
  cfg : q.cfg = p.cfg
  feedback : q.feedback = p.feedback
  consumerImage : q.consumerImage = p.consumerImage
  setImage : q.setImage = p.setImage.set k im

theorem Stationed.beside {im : SetImage} {q r : Part} (h : Stationed k im p q) (hb : Beside q r) : Stationed k im p r :=
  ⟨h.edited.trans (.beside hb), hb.cfg.trans h.cfg, hb.feedback.trans h.feedback, hb.consumerImage.trans h.consumerImage,
    hb.setImage.trans h.setImage⟩

theorem onSetImage_stationed (f : SetImage → SetImage) : Stationed k (f p.setImage[k]) p (onSetImage k f p) :=
  ⟨(Edited.refl p).of_eq rfl rfl rfl, rfl, rfl, rfl, rfl⟩

/-- The part with a set's order and records gone (R10). -/
def unstationed (k : SetNo) (p : Part) : Part :=
  onSelection k (fun _ => SelectionRecord.reset) (onGov k (fun _ => GovRecord.reset)
    (onSeq k (fun _ => SeqRecord.reset) (onSetImage k (fun _ => SetImage.reset)
      (markWithdrawn (.set k) (dropQueued (.set k) p)))))

theorem markWithdrawn_eq (o : ObjectRef) (p : Part) : ∃ tx, markWithdrawn o p = { p with fieldTx := tx } := by
  unfold markWithdrawn
  split
  · split
    · exact ⟨_, rfl⟩
    · exact ⟨p.fieldTx, rfl⟩
  · exact ⟨p.fieldTx, rfl⟩

/-- The frame of an order for the object is marked (R31). -/
theorem markWithdrawn_marks {o : ObjectRef} {tx : OrderInTransmission} (htx : p.fieldTx = some tx)
    (ho : tx.order.body.object = o) : (markWithdrawn o p).fieldTx = some { tx with withdrawn := true } := by
  unfold markWithdrawn
  rw [htx]
  simp only [Order.isFor, ho, beq_self_eq_true, if_true]

theorem unstationed_stationed : Stationed k SetImage.reset p (unstationed k p) := by
  obtain ⟨tx, htx⟩ := markWithdrawn_eq (.set k) (dropQueued (.set k) p)
  rw [unstationed, htx]
  unfold onSelection onGov onSeq onSetImage dropQueued
  exact ⟨(Edited.refl p).of_eq rfl rfl rfl, rfl, rfl, rfl, rfl⟩

theorem onGov_self (k : SetNo) (f : GovRecord → GovRecord) (p : Part) : (onGov k f p).gov[k] = f p.gov[k] :=
  modifyAt_self _ _ _

theorem onSelection_self (k : SetNo) (f : SelectionRecord → SelectionRecord) (p : Part) :
    (onSelection k f p).selection[k] = f p.selection[k] := modifyAt_self _ _ _

theorem onSetImage_self (k : SetNo) (f : SetImage → SetImage) (p : Part) : (onSetImage k f p).setImage[k] = f p.setImage[k] :=
  modifyAt_self _ _ _

theorem unstationed_blank : Blank k (unstationed k p) := by
  have hnone := noneFor_dropQueued (.set k) p
  obtain ⟨tx, htx⟩ := markWithdrawn_eq (.set k) (dropQueued (.set k) p)
  have hunstationed : unstationed k p = onSelection k (fun _ => SelectionRecord.reset) (onGov k (fun _ => GovRecord.reset)
    (onSeq k (fun _ => SeqRecord.reset) (onSetImage k (fun _ => SetImage.reset)
      { dropQueued (.set k) p with fieldTx := tx }))) := by rw [unstationed, htx]
  rw [hunstationed]
  generalize dropQueued (.set k) p = q at hnone
  exact ⟨⟨onSeq_self k (fun _ => SeqRecord.reset) _, hnone⟩, onGov_self k (fun _ => GovRecord.reset) _,
    onSelection_self k (fun _ => SelectionRecord.reset) _, onSetImage_self k (fun _ => SetImage.reset) _⟩

theorem unstationed_fieldTx : (unstationed k p).fieldTx = (markWithdrawn (.set k) (dropQueued (.set k) p)).fieldTx := by
  unfold unstationed onSelection onGov onSeq onSetImage
  rfl

theorem unconfigureSet_part : (unconfigureSet k p).part = unstationed k p := rfl

/-- What the units do leaves a frame that is being sent on the line. -/
theorem Beside.sending {q : Part} {tx : OrderInTransmission} (h : Beside p q) (htx : p.fieldTx = some tx) :
    q.fieldTx = some tx := by
  obtain hsame | ⟨hidle, -⟩ := h.line
  · exact hsame.trans htx
  · exact nomatch hidle.symm.trans htx

theorem enter_beside {o : Sequenced} (st : SetState) (h : Beside p o.part) : Beside p (o.enter k st).part := h.seqs _

theorem setStationWritten_same (h : old = p.cfg.sets[k].station) : setStationWritten k old p = sequenced p :=
  if_pos (beq_iff_eq.2 h)

theorem setStationWritten_configures (h : old ≠ p.cfg.sets[k].station) (ho : stationAssigned old = false) :
    setStationWritten k old p = configureSet k p := by
  refine (if_neg (mt beq_iff_eq.1 h)).trans (if_pos ?_)
  rw [ho]
  rfl

theorem setStationWritten_unconfigures (ho : stationAssigned old = true)
    (hn : stationAssigned p.cfg.sets[k].station = false) : setStationWritten k old p = unconfigureSet k p := by
  have h : old ≠ p.cfg.sets[k].station := fun h => Bool.false_ne_true (hn.symm.trans (h ▸ ho))
  refine (if_neg (mt beq_iff_eq.1 h)).trans ((if_neg ?_).trans (if_pos ?_))
  · rw [ho]
    exact Bool.false_ne_true
  · exact (congrArg not hn).trans rfl

theorem setStationWritten_remaps (h : old ≠ p.cfg.sets[k].station) (ho : stationAssigned old = true)
    (hn : stationAssigned p.cfg.sets[k].station = true) : setStationWritten k old p = sequenced (remap (.set k) p) := by
  refine (if_neg (mt beq_iff_eq.1 h)).trans ((if_neg ?_).trans (if_neg ?_))
  · rw [ho]
    exact Bool.false_ne_true
  · exact fun h => Bool.false_ne_true ((congrArg not hn).symm.trans h)

theorem stationImage_same {now : Nat} (h : old = now) (r : SetImage) : stationImage old now r = r := if_pos (beq_iff_eq.2 h)

theorem stationImage_reset {now : Nat} (h : old ≠ now) (hs : stationAssigned old = false ∨ stationAssigned now = false)
    (r : SetImage) : stationImage old now r = SetImage.reset := by
  refine (if_neg (mt beq_iff_eq.1 h)).trans (if_pos ?_)
  rcases hs with hs | hs <;> simp [hs]

theorem stationImage_remapped {now : Nat} (h : old ≠ now) (ho : stationAssigned old = true) (hn : stationAssigned now = true)
    (r : SetImage) : stationImage old now r = { r with fresh := Fresh.reset } := by
  refine (if_neg (mt beq_iff_eq.1 h)).trans (if_neg ?_)
  simp [ho, hn]

/-- The part in which a set that becomes configured begins, before its change is handed on. -/
theorem configureSet_beside : Beside (onSetImage k (fun _ => SetImage.reset) p) (configureSet k p).part := by
  unfold configureSet
  extract_lets fresh
  split
  · exact enter_beside _ (.refl _)
  · exact .refl _

/-- A written station and the changes it brings, handed on. -/
theorem setStationWritten_stationed :
    Stationed k (stationImage old p.cfg.sets[k].station p.setImage[k]) p (setStationWritten k old p).handOn := by
  by_cases h : old = p.cfg.sets[k].station
  · rw [setStationWritten_same h, stationImage_same h, handOn_nil rfl]
    exact ⟨.refl p, rfl, rfl, rfl, (Vector.set_getElem_self k.isLt).symm⟩
  · cases ho : stationAssigned old with
    | false =>
      have hfresh : Stationed k SetImage.reset p (onSetImage k (fun _ => SetImage.reset) p) :=
        onSetImage_stationed fun _ => SetImage.reset
      rw [setStationWritten_configures h ho, stationImage_reset h (.inl ho)]
      exact hfresh.beside (handOn_beside configureSet_beside)
    | true =>
      cases hn : stationAssigned p.cfg.sets[k].station with
      | false =>
        rw [setStationWritten_unconfigures ho hn, stationImage_reset h (.inr hn)]
        exact unstationed_stationed.beside (handOn_beside (.refl _))
      | true =>
        rw [setStationWritten_remaps h ho hn, stationImage_remapped h ho hn, handOn_nil rfl]
        exact ⟨(Edited.refl p).of_eq rfl rfl rfl, rfl, rfl, rfl, rfl⟩

end

/-! ### The control mode (R62) -/

section

variable {k : SetNo} {p : Part} {m : Mode}

theorem withdrawSet_beside {q : Part} (h : Beside p q) : Beside p (withdrawSet k q) := by
  unfold withdrawSet
  split
  · exact h.of_eq rfl rfl rfl rfl rfl
  · exact h

theorem toLocal_beside : Beside p (toLocal k p).part :=
  enter_beside _ (((withdrawSet_beside ((Beside.refl p).seqs _)).seqs _).seqs _)

theorem deriveSet_beside : Beside p (deriveSet k p).part := by
  unfold deriveSet
  extract_lets cleared
  have h : Beside p cleared := (((Beside.refl p).seqs _).seqs _).seqs _
  unfold Sequenced.settle
  split
  · exact h
  · exact enter_beside _ h

/-- A mode written and what it brings, handed on. -/
theorem changeMode_beside (k : SetNo) (m : Mode) (p : Part) : Beside (modeWritten k m p) (changeMode k m p).handOn := by
  refine handOn_beside ?_
  unfold changeMode
  extract_lets old written
  have hw : written = modeWritten k m p := rfl
  rw [hw]
  split
  · next hold =>
    rw [← beq_iff_eq.1 hold, show modeWritten k old p = p from modeWritten_same]
    exact .refl p
  · split
    · exact .refl _
    · clear_value old
      split
      · exact toLocal_beside
      · exact deriveSet_beside
      · exact .refl _

theorem changeMode_unconfigured (hc : setConfigured p k = false) : changeMode k m p = sequenced (modeWritten k m p) := by
  unfold changeMode
  extract_lets old written
  split
  · next hold =>
    rw [← beq_iff_eq.1 hold]
    exact congrArg sequenced (modeWritten_same (k := k)).symm
  · exact if_pos (by rw [hc, Bool.not_false, Bool.or_true])

end

/-! ### The write (R171) -/

section

variable {n : Byte} {m : Masked} {k : SetNo} {p : Part}

/-- The part with WRITE SET's fields but the mode written. -/
def fieldsWritten (k : SetNo) (m : Masked) (p : Part) : Part :=
  onSetCfg k (fun _ => (writtenSet m p.cfg.sets[k]).value) p

/-- What the written station brings, handed on. -/
def stationTaken (k : SetNo) (m : Masked) (p : Part) : Part :=
  (setStationWritten k p.cfg.sets[k].station (fieldsWritten k m p)).handOn

/-- The tables follow the written section. -/
def sectionTaken (k : SetNo) (m : Masked) (p : Part) : Part :=
  if p.cfg.sets[k].sect == (writtenSet m p.cfg.sets[k]).value.sect then stationTaken k m p
  else rebuildSection (writtenSet m p.cfg.sets[k]).value.sect (rebuildSection p.cfg.sets[k].sect (stationTaken k m p))

/-- The part after WRITE SET. -/
def setWritten (k : SetNo) (m : Masked) (p : Part) : Part :=
  (changeMode k (m.mode 9 p.cfg.sets[k].mode) (sectionTaken k m p)).handOn

theorem writeSet_outside (h : n.toNat = 0 ∨ 8 < n.toNat) : writeSet n m p = answered .noSuch p := by
  rw [writeSet, numbered_outside h]

theorem writeSet_refused (h : n.toNat = k.val + 1) (hr : setWriteRefused p k (writtenSet m p.cfg.sets[k]).value = true) :
    writeSet n m p = answered .refused p := by
  rw [writeSet, numbered_val h]
  exact if_pos hr

theorem writeSet_takes (h : n.toNat = k.val + 1) (hr : ¬setWriteRefused p k (writtenSet m p.cfg.sets[k]).value = true) :
    writeSet n m p = doneOr (writtenSet m p.cfg.sets[k]).clamped (setWritten k m p) := by
  rw [writeSet, numbered_val h]
  exact if_neg hr

theorem fieldsWritten_set : (fieldsWritten k m p).cfg.sets[k] = (writtenSet m p.cfg.sets[k]).value :=
  modifyAt_self _ _ _

theorem sectionTaken_beside : Beside (stationTaken k m p) (sectionTaken k m p) := by
  unfold sectionTaken
  split
  · exact .refl _
  · exact rebuildSection_beside _ (rebuildSection_beside _ (.refl _))

theorem sectionTaken_noted : Noted (stationTaken k m p) (sectionTaken k m p) := by
  unfold sectionTaken
  split
  · exact .refl _
  · exact (rebuildSection_noted _ _).trans (rebuildSection_noted _ _)

theorem stationTaken_stationed :
    Stationed k (stationImage p.cfg.sets[k].station (writtenSet m p.cfg.sets[k]).value.station p.setImage[k])
      (fieldsWritten k m p) (stationTaken k m p) := by
  have h := setStationWritten_stationed (k := k) (old := p.cfg.sets[k].station) (p := fieldsWritten k m p)
  rw [fieldsWritten_set] at h
  exact h

/-- What every write that takes effect leaves, but for the set's own records. -/
theorem setWritten_frame : Edited p (setWritten k m p)
    ∧ (setWritten k m p).cfg = { p.cfg with
        sets := p.cfg.sets.set k
          { (writtenSet m p.cfg.sets[k]).value with mode := m.mode 9 p.cfg.sets[k].mode } }
    ∧ (setWritten k m p).feedback = p.feedback ∧ (setWritten k m p).consumerImage = p.consumerImage
    ∧ (setWritten k m p).setImage = p.setImage.set k
        (stationImage p.cfg.sets[k].station (writtenSet m p.cfg.sets[k]).value.station p.setImage[k]) := by
  have hs := stationTaken_stationed (k := k) (m := m) (p := p)
  have hfields : Edited p (fieldsWritten k m p) := (Edited.refl p).of_eq rfl rfl rfl
  have htaken := hs.beside sectionTaken_beside
  have hmode := changeMode_beside k (m.mode 9 p.cfg.sets[k].mode) (sectionTaken k m p)
  have hedited : Edited (sectionTaken k m p) (modeWritten k (m.mode 9 p.cfg.sets[k].mode) (sectionTaken k m p)) :=
    (Edited.refl _).of_eq rfl rfl rfl
  refine ⟨((hfields.trans htaken.edited).trans hedited).trans (.beside hmode), hmode.cfg.trans ?_,
    hmode.feedback.trans htaken.feedback, hmode.consumerImage.trans htaken.consumerImage,
    hmode.setImage.trans htaken.setImage⟩
  have hset : (sectionTaken k m p).cfg.sets[k] = (writtenSet m p.cfg.sets[k]).value :=
    (congrArg (fun c : Configuration => c.sets[k]) htaken.cfg).trans fieldsWritten_set
  unfold modeWritten
  rw [hset, htaken.cfg]
  simp only [fieldsWritten, onSetCfg, modifyAt, Fin.getElem_fin, Vector.set_set]

/-- A write that names the station, section and mode that the set has. -/
theorem setWritten_same (hstation : p.cfg.sets[k].station = (writtenSet m p.cfg.sets[k]).value.station)
    (hsect : p.cfg.sets[k].sect = (writtenSet m p.cfg.sets[k]).value.sect)
    (hmode : m.mode 9 p.cfg.sets[k].mode = p.cfg.sets[k].mode) : setWritten k m p = fieldsWritten k m p := by
  have hs : stationTaken k m p = fieldsWritten k m p :=
    (congrArg Sequenced.handOn (setStationWritten_same (fieldsWritten_set.symm ▸ hstation))).trans (handOn_nil rfl)
  have ht : sectionTaken k m p = fieldsWritten k m p := (if_pos (beq_iff_eq.2 hsect)).trans hs
  have hsame : (fieldsWritten k m p).cfg.sets[k].mode = p.cfg.sets[k].mode :=
    (congrArg SetConfig.mode (fieldsWritten_set (k := k) (m := m) (p := p))).trans rfl
  unfold setWritten
  rw [ht, hmode, ← hsame, changeMode_same]
  exact handOn_nil rfl

/-- A write that takes the set its station: no trace of the set is left (R10). -/
theorem setWritten_unconfigured (ho : stationAssigned p.cfg.sets[k].station = true)
    (hn : stationAssigned (writtenSet m p.cfg.sets[k]).value.station = false) :
    Blank k (setWritten k m p) ∧ ∀ tx, p.fieldTx = some tx → tx.order.body.object = .set k →
      (setWritten k m p).fieldTx = some { tx with withdrawn := true } := by
  have hnow : stationAssigned (fieldsWritten k m p).cfg.sets[k].station = false := fieldsWritten_set.symm ▸ hn
  have hs : stationTaken k m p = (unconfigureSet k (fieldsWritten k m p)).handOn :=
    congrArg Sequenced.handOn (setStationWritten_unconfigures ho hnow)
  have hblank : Blank k (stationTaken k m p) := hs ▸ handOn_blank unstationed_blank
  have htaken : Blank k (sectionTaken k m p) := by
    unfold sectionTaken
    split
    · exact hblank
    · exact rebuildSection_blank _ (rebuildSection_blank _ hblank)
  have hcfg : (sectionTaken k m p).cfg = (fieldsWritten k m p).cfg := (stationTaken_stationed.beside sectionTaken_beside).cfg
  have hunset : setConfigured (sectionTaken k m p) k = false := by
    rw [setConfigured, setCfg, hcfg]
    exact hnow
  have hwritten : setWritten k m p = modeWritten k (m.mode 9 p.cfg.sets[k].mode) (sectionTaken k m p) :=
    (congrArg Sequenced.handOn (changeMode_unconfigured hunset)).trans (handOn_nil rfl)
  rw [hwritten]
  refine ⟨⟨htaken.unasked, htaken.gov, htaken.selection, htaken.image⟩, fun tx htx ho => ?_⟩
  have hmarked : (unstationed k (fieldsWritten k m p)).fieldTx = some { tx with withdrawn := true } :=
    unstationed_fieldTx.trans (markWithdrawn_marks (p := dropQueued (.set k) (fieldsWritten k m p)) htx ho)
  have hsent : (stationTaken k m p).fieldTx = some { tx with withdrawn := true } :=
    hs ▸ (handOn_beside (o := unconfigureSet k (fieldsWritten k m p)) (.refl _)).sending hmarked
  exact sectionTaken_beside.sending hsent

/-- The state of a set that becomes configured in RUN, before its mode is taken (R10, R42, log entry 51). -/
theorem stationTaken_configured (hp : p.phase = .run) (ho : stationAssigned p.cfg.sets[k].station = false)
    (hn : stationAssigned (writtenSet m p.cfg.sets[k]).value.station = true) :
    if p.cfg.sets[k].mode = .localRun then (stationTaken k m p).seq[k].state = some .localRun
    else Stands (stationTaken k m p).seq[k] := by
  have hstation : p.cfg.sets[k].station ≠ (fieldsWritten k m p).cfg.sets[k].station := by
    rw [fieldsWritten_set]
    exact fun h => Bool.false_ne_true (ho.symm.trans (h ▸ hn))
  have hs : stationTaken k m p = (configureSet k (fieldsWritten k m p)).handOn :=
    congrArg Sequenced.handOn (setStationWritten_configures hstation ho)
  obtain ⟨st, hst⟩ : ∃ st : SetState, st = if p.cfg.sets[k].mode == .localRun then .localRun else .standby := ⟨_, rfl⟩
  have hentered : configureSet k (fieldsWritten k m p)
      = (sequenced (onSetImage k (fun _ => SetImage.reset) (fieldsWritten k m p))).enter k st := by
    have hsame : (setCfg (onSetImage k (fun _ => SetImage.reset) (fieldsWritten k m p)) k).mode = p.cfg.sets[k].mode :=
      (congrArg SetConfig.mode (fieldsWritten_set (k := k) (m := m) (p := p))).trans rfl
    rw [hst, ← hsame]
    exact if_pos (beq_iff_eq.2 hp)
  have hstate : (configureSet k (fieldsWritten k m p)).part.seq[k].state = some st := by rw [hentered, enter_self]
  rw [hs]
  split
  · next hlocal =>
    obtain rfl : st = .localRun := hst.trans (if_pos (beq_iff_eq.2 hlocal))
    rw [handOn_settled (by rw [Settled, hstate]; exact ⟨nofun, nofun⟩)]
    exact hstate
  · next hother =>
    obtain rfl : st = .standby := hst.trans (if_neg (mt beq_iff_eq.1 hother))
    exact handOn_stands (.inl hstate)

/-- A mode written for a configured set that stands by with its breaker open, or is in LOCAL mode (R62). -/
theorem changeMode_standing {x : Mode} (hp : p.phase = .run) (hc : setConfigured p k = true)
    (himage : p.setImage[k] = SetImage.reset)
    (h : if p.cfg.sets[k].mode = .localRun then p.seq[k].state = some .localRun else Stands p.seq[k]) :
    if x = .localRun then (changeMode k x p).handOn.seq[k].state = some .localRun
    else Stands (changeMode k x p).handOn.seq[k] := by
  by_cases hold : p.cfg.sets[k].mode = .localRun
  · rw [if_pos hold] at h
    split
    · next hnew =>
      rw [hnew, ← hold, changeMode_same, handOn_nil rfl]
      exact h
    · next hnew =>
      have hmode : (modeWritten k x p).cfg.sets[k].mode = x := by
        rw [show (modeWritten k x p).cfg.sets[k] = { p.cfg.sets[k] with mode := x } from Vector.getElem_set_self _]
      have hderived : derived (modeWritten k x p) k = .standby := by
        rw [derived, hmode, if_neg hnew, show (modeWritten k x p).setImage[k] = SetImage.reset from himage]
        rfl
      obtain ⟨hend, -, -⟩ := deriveSet_handOn k (modeWritten k x p)
      rw [hderived] at hend
      rw [changeMode_fromLocal hp hc hold hnew]
      exact hend.imp_right And.right
  · rw [if_neg hold] at h
    split
    · next hnew =>
      obtain ⟨hend, -⟩ := toLocal_self k (modeWritten k .localRun p)
      rw [hnew, changeMode_toLocal hp hc hold, handOn_settled (by rw [Settled, hend]; exact ⟨nofun, nofun⟩)]
      exact hend
    · next hnew =>
      rw [changeMode_writes (.inr ⟨hnew, hold⟩), handOn_nil rfl]
      exact h

/-- A write that gives the set a station in RUN: it stands by, or is in LOCAL mode (R10, R42). -/
theorem setWritten_configured (hp : p.phase = .run) (ho : stationAssigned p.cfg.sets[k].station = false)
    (hn : stationAssigned (writtenSet m p.cfg.sets[k]).value.station = true) :
    if m.mode 9 p.cfg.sets[k].mode = .localRun then (setWritten k m p).seq[k].state = some .localRun
    else Stands (setWritten k m p).seq[k] := by
  have htaken := stationTaken_stationed.beside (sectionTaken_beside (k := k) (m := m) (p := p))
  have hset : (sectionTaken k m p).cfg.sets[k] = (writtenSet m p.cfg.sets[k]).value :=
    (congrArg (fun c : Configuration => c.sets[k]) htaken.cfg).trans fieldsWritten_set
  have hmode : (sectionTaken k m p).cfg.sets[k].mode = p.cfg.sets[k].mode := (congrArg SetConfig.mode hset).trans rfl
  have hc : setConfigured (sectionTaken k m p) k = true := by
    rw [setConfigured, setCfg, hset]
    exact hn
  have himage : (sectionTaken k m p).setImage[k] = SetImage.reset := by
    have hstation : p.cfg.sets[k].station ≠ (writtenSet m p.cfg.sets[k]).value.station := fun h =>
      Bool.false_ne_true (ho.symm.trans (h ▸ hn))
    rw [htaken.setImage, stationImage_reset hstation (.inl ho)]
    exact Vector.getElem_set_self _
  refine changeMode_standing (htaken.edited.phase.trans hp) hc himage ?_
  rw [hmode, sectionTaken_noted.seq]
  exact stationTaken_configured hp ho hn

end

/-- A written station is 0 where it names none (R1). -/
theorem written_unassigned {m : Masked} {n old : Nat} (ho : stationAssigned old = true) :
    stationAssigned (written m n 0 62 old) = false ↔ written m n 0 62 old = 0 := by
  have hold := (stationAssigned_iff old).1 ho
  have hle : written m n 0 62 old ≤ 62 := by
    unfold written
    split <;> omega
  rw [Bool.eq_false_iff, ne_eq, stationAssigned_iff]
  omega

/-- What R10 refuses, in the words of the statement. -/
theorem setWriteRefused_iff {p : Part} {k : SetNo} {new : SetConfig}
    (hnew : setConfigured p k = true → (stationAssigned new.station = false ↔ new.station = 0)) :
    setWriteRefused p k new = true ↔ p.phase = .run ∧ setConfigured p k = true
      ∧ (new.station = 0 ∨ new.sect ≠ p.cfg.sets[k].sect)
      ∧ (p.setImage[k].closed = true
        ∨ ¬(p.seq[k].state = some .standby ∨ p.seq[k].state = some .blocked ∨ p.seq[k].state = some .localRun)) := by
  simp only [setWriteRefused, setStateIs, Bool.and_eq_true, Bool.or_eq_true, Bool.not_eq_true', Bool.or_eq_false_iff,
    beq_iff_eq, beq_eq_false_iff_ne, bne_iff_ne, and_assoc, not_or]
  refine and_congr_right fun _ => and_congr_right fun hc => ?_
  rw [hnew hc]
  rfl

section

variable {p : Part} {w : List Instr} {tag n : Byte} {mask : BitVec 16} {fields : List Word} {k : SetNo}
  (hf : Free p) (hsaving : p.store.saving = none) (hdef : fieldsDefined setForms fields = true)

/-- The fields of WRITE SET as they travel (R170). -/
abbrev masked16 (mask : BitVec 16) (fields : List Word) : Masked := { mask := mask.toNat, fields := fields }

include hf hsaving hdef in
theorem writeSet_answers {q : Part} {code : ResultCode}
    (ho : writeSet n (masked16 mask fields) (numberedPart p) = answered code q) :
    Answers (.writeSet tag n mask fields) p w 9 tag (n :: (maskBytes16 mask ++ fromWords fields)) code []
      { q with nextRequest := p.nextRequest } :=
  answers_by hf rfl (parse_writeSet hdef) (.inr hsaving) nofun ho

end

/-- Settles O44: the write's four stages, the fields, the station with its change handed on, the tables and the mode. -/
theorem writeSetTakesEffect : Obligations.WriteSetTakesEffect := by
  unfold Obligations.WriteSetTakesEffect
  intro p w tag n mask fields hf hsaving hdef payload m
  refine ⟨fun hout => writeSet_answers (q := numberedPart p) hf hsaving hdef (writeSet_outside hout), ?_⟩
  intro k hk old sect rated pmin new clamped refused
  have hvalue : (writtenSet m old).value = { new with mode := old.mode } := writtenSet_value hdef
  have hmode : m.mode 9 old.mode = new.mode := mode_chosen old.mode (defined_field hdef rfl)
  have hnew : { (writtenSet m old).value with mode := m.mode 9 old.mode } = new := by rw [hvalue, hmode]
  have hclamped : (writtenSet m old).clamped = true ↔ clamped := by
    rw [writtenSet_clamped, hvalue]
  have hrefused : setWriteRefused (numberedPart p) k (writtenSet m old).value = true ↔ refused := by
    rw [hvalue]
    exact setWriteRefused_iff (p := numberedPart p) fun hc => written_unassigned hc
  refine ⟨fun hr => writeSet_answers (q := numberedPart p) hf hsaving hdef (writeSet_refused hk (hrefused.2 hr)),
    fun hr => ?_⟩
  obtain ⟨code, hcode, hcoded⟩ := coded_doneOr (setWritten k m (numberedPart p)) hclamped
  have hstation : (writtenSet m (numberedPart p).cfg.sets[k]).value.station = new.station :=
    (congrArg SetConfig.station hvalue).trans rfl
  have hsect : (writtenSet m (numberedPart p).cfg.sets[k]).value.sect = new.sect := (congrArg SetConfig.sect hvalue).trans rfl
  obtain ⟨hedited, hcfg, hfeedback, hconsumer, himage⟩ := setWritten_frame (k := k) (m := m) (p := numberedPart p)
  have hself : (setWritten k m (numberedPart p)).setImage[k] = stationImage old.station new.station p.setImage[k] := by
    rw [himage, hstation]
    exact Vector.getElem_set_self _
  have hsame := setWritten_same (k := k) (m := m) (p := numberedPart p)
  have hconf := setWritten_configured (k := k) (m := m) (p := numberedPart p)
  have hunconf := setWritten_unconfigured (k := k) (m := m) (p := numberedPart p)
  have hanswer := writeSet_answers (w := w) (tag := tag) hf hsaving hdef
    ((writeSet_takes hk (mt hrefused.1 hr)).trans hcode)
  rw [hstation] at hsame hconf hunconf
  rw [hsect] at hsame
  have hended := hedited.numbered
  obtain ⟨hphase, hjoins, hmap⟩ := hended.mapParts
  refine ⟨_, code, hanswer, hcoded, hcfg.trans ?_, fun hmask hfits => ?_, hended.desk, hended.clock, hphase, hfeedback,
    hconsumer, hended.meter, hended.tie, hjoins, hmap, fun j hj => ?_, fun hst => ⟨?_, fun hse hmo => ?_⟩,
    fun ho hn hst => ?_, fun ho hn => ⟨?_, fun hp => ?_⟩, fun ho hn => ?_⟩
  · exact congrArg (fun c : SetConfig => { p.cfg with sets := p.cfg.sets.set k c }) hnew
  · refine hcoded.2 fun hc => ?_
    have habsent := writtenSet_absent (m := m) (congrArg BitVec.toNat hmask) (hfits.1 k)
    exact Bool.false_ne_true (habsent.symm.trans (hclamped.2 hc))
  · change (setWritten k m (numberedPart p)).setImage[j] = p.setImage[j]
    rw [himage]
    exact Vector.getElem_set_ne _ _ fun h => hj (Fin.ext h.symm)
  · exact hself.trans (stationImage_same hst _)
  · change (setWritten k m (numberedPart p)).seq[k] = p.seq[k] ∧ (setWritten k m (numberedPart p)).gov = p.gov
    rw [hsame hst hse (hmode.trans hmo.symm)]
    exact ⟨rfl, rfl⟩
  · exact hself.trans (stationImage_remapped hst ho hn _)
  · have hst : old.station ≠ new.station := fun h => Bool.false_ne_true (ho.symm.trans (h ▸ hn))
    exact hself.trans (stationImage_reset hst (.inl ho) _)
  · have hstate := hconf hp ho hn
    rw [show m.mode 9 (numberedPart p).cfg.sets[k].mode = new.mode from hmode] at hstate
    exact ⟨fun hl => by rw [if_pos hl] at hstate; exact hstate, fun hl => by rw [if_neg hl] at hstate; exact hstate⟩
  · obtain ⟨hblank, hmarked⟩ := hunconf ho hn
    exact ⟨hblank.image, hblank.unasked.1, hblank.gov, hblank.selection, queuedFor_eq_none.2 hblank.unasked.2, hmarked⟩

end Sys2Proof.Proofs
end

section
/-! A consumer that leaves the shed list or its station (R31, R133, R134). Its feedback timer holds an order, and the model gives no
reason why that order should be the consumer's own: no hypothesis of the statements says so. An order of another object stays where
it is as the consumer's own is withdrawn. -/

namespace Sys2Proof.Proofs

open Sys2Proof.Machine Sys2Proof.Claims

/-- The entry of consumer 1, with a station. -/
def strayEntry : EntryConfig := { EntryConfig.blank 0 with station := 1 }

/-- The part after reset with consumer 1 listed, and an order of set 1 in consumer 1's feedback timer. -/
def strayFeedback : Part :=
  { State.reset.part with
    cfg := { Configuration.default with shedList := [strayEntry] }
    feedback := State.reset.part.feedback.set 0
      (some { order := { serial := 0, body := .set 0 .start, urgent := false }, deadline := 0 }) }

/-- WRITE CONSUMER's fields with a section code that is defined, and every other value 0. -/
def zeroFields : List Word := 1#32 :: List.replicate 9 0#32

/-- In RUN, what follows an event leaves the feedback timers alone. -/
theorem kick_feedback {p : Part} (h : p.phase = .run) : (kick p).feedback = p.feedback := by
  have hcheck : checkAcquire p = p := if_neg (by rw [h]; exact Bool.false_ne_true)
  obtain ⟨t, x, y, harb⟩ := arbitrate_eq p
  obtain ⟨rq, b, rp, r, t', n, hsend⟩ := sendNext_eq (arbitrate p)
  rw [kick, hcheck, hsend, harb]

/-- A command keeps the consumer's feedback timer running. -/
def keepsFeedback (c : Instr) : Bool :=
  match exec c { part := strayFeedback, pending := [] } with
  | .next t => t.part.feedback[(0 : ConsumerNo)].isSome
  | _ => false

/-- So no answer to it leaves the consumer without one. -/
theorem feedback_stays {c : Instr} {kind : Nat} {tag : Byte} {payload data : List Byte} {code : ResultCode} {q : Part}
    (hkeeps : keepsFeedback c = true) (h : Answers c strayFeedback [] kind tag payload code data q)
    (hp : q.phase = strayFeedback.phase) : q.feedback[(0 : ConsumerNo)] ≠ none := by
  intro hnone
  have hrun : (replied kind tag payload code data strayFeedback q).phase = .run := hp
  have hend : (kick (replied kind tag payload code data strayFeedback q)).feedback[(0 : ConsumerNo)] = none := by
    rw [kick_feedback hrun]
    exact hnone
  unfold keepsFeedback at hkeeps
  rw [h] at hkeeps
  change (kick (replied kind tag payload code data strayFeedback q)).feedback[(0 : ConsumerNo)].isSome = true at hkeeps
  rw [hend] at hkeeps
  exact Bool.false_ne_true hkeeps

theorem strayFeedback_free : Free strayFeedback := by
  unfold Free Awake
  decide +kernel

theorem strayFeedback_entry : entryCfg strayFeedback 0 = some strayEntry := rfl

/-- No sequence runs in the part, and no order of the entry. -/
theorem strayFeedback_still (s : SectionNo) : ¬(ShedRuns strayFeedback s ∨ OrderRuns strayFeedback 0) := by
  rintro (⟨i, -, hi⟩ | h)
  · exact hi (by revert i; decide +kernel)
  · rcases h with h | h <;> exact nomatch h

theorem removeConsumer_keepsFeedback : keepsFeedback (.removeConsumer 0 1) = true := by decide +kernel

theorem writeConsumer_keepsFeedback : keepsFeedback (.writeConsumer 0 1 256#16 zeroFields) = true := by decide +kernel

/-- Refutes O47: REMOVE CONSUMER takes consumer 1 off the list, and the order of set 1 stays in its feedback timer. -/
theorem not_shedListEdits : ¬ Obligations.ShedListEdits := by
  unfold Obligations.ShedListEdits
  rintro ⟨-, h⟩
  obtain ⟨-, -, -, -, -, hedits⟩ := h strayFeedback [] 0 1 1 (zeroFields.take 9) 0 strayFeedback_free rfl rfl rfl
  obtain ⟨-, hremoved⟩ := hedits strayEntry strayFeedback_entry
  obtain ⟨-, q, hanswer, ⟨-, -, hmap, -⟩, ⟨-, -, -, -, hfeedback, -⟩, -⟩ := hremoved (strayFeedback_still _)
  exact feedback_stays removeConsumer_keepsFeedback hanswer (congrArg (fun x => x.1) hmap) hfeedback

/-- Refutes O45: WRITE CONSUMER takes consumer 1 its station, and the order of set 1 stays in its feedback timer. -/
theorem not_writeConsumerTakesEffect : ¬ Obligations.WriteConsumerTakesEffect := by
  unfold Obligations.WriteConsumerTakesEffect
  intro h
  obtain ⟨-, hwrites⟩ := h strayFeedback [] 0 1 256#16 zeroFields strayFeedback_free rfl rfl
  obtain ⟨-, -, htakes⟩ := hwrites 0 strayEntry rfl strayFeedback_entry
  have hcollides := htakes (fun hc => ?_) (fun hr => ?_)
  · obtain ⟨q, code, hanswer, -, -, -, -, -, hphase, -, -, -, -, -, -, -, -, -, -, hforgotten, -⟩ := hcollides
    obtain ⟨-, -, -, -, hfeedback, -⟩ := hforgotten rfl rfl
    exact feedback_stays writeConsumer_keepsFeedback hanswer hphase hfeedback
  · obtain ⟨-, hruns⟩ := hc
    rcases hruns with hs | hs | ho
    · exact strayFeedback_still _ (.inl hs)
    · exact strayFeedback_still _ (.inl hs)
    · exact strayFeedback_still 0 (.inr ho)
  · exact hr.1 rfl

end Sys2Proof.Proofs
end

section
/-! WRITE PLANT (R170, R173): its fields, and the records of the ties and meters whose stations it gives, takes or changes
(R8, R10). -/

namespace Sys2Proof.Proofs

open Sys2Proof.Machine Sys2Proof.Claims

/-! ### The desk -/

/-- Nothing but the supervisor line's own events changes the desk. -/
theorem edits_desk (a : Part) : Edits (SameDesk a) where
  share _ _ h := h
  gov _ _ _ h := h
  selection _ _ h := h
  entry _ _ h := h
  inFlight _ _ h := h
  islands _ _ _ _ h := h
  occurs _ k o h := occur_desk k o h
  handed _ c x u _ h := handOver_desk (.consumer c x) u h
  dropped _ _ h := h
  setHanded _ k x h := handOver_desk (.set k x) false h
  setJoined _ k x h := joinQueues_desk (.set k x) false h
  setDropped _ _ h := h
  seqs _ _ _ h := h
  clocked _ _ h := h
  setImages _ _ h := h
  consumerImages _ _ h := h
  meterImages _ _ h := h
  tieImages _ _ _ h := h
  transmits _ _ h := h
  feedbacks _ _ h := h
  receives _ _ h := h
  arbitrates p h := by
    obtain ⟨t, x, y, e⟩ := arbitrate_eq p
    rw [e]
    exact h
  ties _ _ h := h
  mapped _ _ _ _ _ h := h
  seqFree _ _ h := h
  phased _ h := h
  config _ _ _ h := h

/-! ### What a tie's change leaves alone -/

/-- Configuration, phase, clock, feedback timers and object records are the same. -/
def MapAside (p q : Part) : Prop := SameDesk p q ∧ q.cfg = p.cfg ∧ q.phase = p.phase ∧ q.seen = p.seen

theorem mapAside_refl (p : Part) : MapAside p p := ⟨⟨rfl, .inl ⟨rfl, rfl⟩⟩, rfl, rfl, rfl⟩

theorem mapAside_beside {p q : Part} (h : Beside p q) : MapAside p q := ⟨h.desk, h.cfg, h.phase, h.fields.2.2⟩

theorem shaped_parts {p q : Part} {v : IslandNo → Bool} (h : Shaped p v q) :
    q.cfg = p.cfg ∧ q.phase = p.phase ∧ q.seen = p.seen := by
  obtain ⟨ha, -⟩ := h
  simp only [Part.aside, Part.settings, Prod.mk.injEq] at ha
  obtain ⟨-, ⟨hcfg, hphase, -⟩, hseen⟩ := ha
  exact ⟨hcfg, hphase, hseen⟩

/-- A tie's change remakes the islands, and leaves the rest alone (R17). -/
theorem tieChanged_mapAside (t : TieNo) (joins : Bool) (p : Part) : MapAside p (tieChanged t joins p) := by
  refine ⟨topo_tieChanged (edits_desk p).toTopo t joins (mapAside_refl p).1, ?_⟩
  unfold tieChanged
  split
  · exact ⟨rfl, rfl, rfl⟩
  · next old hold =>
    extract_lets recorded new mapped
    have hstart : Shaped mapped (fun i => mapped.islands[i].isSome) mapped := ⟨rfl, fun _ => rfl⟩
    split
    · exact ⟨rfl, rfl, rfl⟩
    · split
      · exact shaped_parts (p := mapped) (mergeIslands_shaped _ _ hstart)
      · exact shaped_parts (p := mapped) (splitIsland_shaped _ _ _ hstart)

/-! ### The records of ties and meters (R8, R10) -/

/-- An object's record after a write of its station, with its freshness and its reset value: `was` and `now` say whether it is
configured before and after the write, `moved` whether its station is another one. -/
def rewritten {α : Type} (was now moved : Bool) (remapped reset r : α) : α :=
  if was && now then (if moved then remapped else r) else if was || now then reset else r

section

variable {old : PlantConfig} {p q : Part}

/-- A tie's record after WRITE PLANT. -/
def tieRewritten (old now : PlantConfig) (t : TieNo) (r : TieImage) : TieImage :=
  rewritten (old.tiePresent[t] && stationAssigned old.tieStation[t]) (now.tiePresent[t] && stationAssigned now.tieStation[t])
    (old.tieStation[t] != now.tieStation[t]) { r with fresh := Fresh.reset } TieImage.reset r

/-- A meter's record after WRITE PLANT. -/
def meterRewritten (old now : PlantConfig) (s : SectionNo) (r : MeterImage) : MeterImage :=
  rewritten (stationAssigned old.meterStation[s]) (stationAssigned now.meterStation[s])
    (old.meterStation[s] != now.meterStation[s]) { r with fresh := Fresh.reset } MeterImage.reset r

/-- The parts are the same but for the map and the islands and, of the object records, the ties' and the meters'. -/
structure PlantKept (p q : Part) : Prop where
  desk : SameDesk p q
  cfg : q.cfg = p.cfg
  phase : q.phase = p.phase
  clock : q.clock = p.clock
  feedback : q.feedback = p.feedback
  setImage : q.setImage = p.setImage
  consumerImage : q.consumerImage = p.consumerImage

theorem PlantKept.trans {r : Part} (h : PlantKept p q) (h' : PlantKept q r) : PlantKept p r :=
  ⟨sameDesk_trans h.desk h'.desk, h'.cfg.trans h.cfg, h'.phase.trans h.phase, h'.clock.trans h.clock,
    h'.feedback.trans h.feedback, h'.setImage.trans h.setImage, h'.consumerImage.trans h.consumerImage⟩

theorem PlantKept.refl (p : Part) : PlantKept p p := ⟨(mapAside_refl p).1, rfl, rfl, rfl, rfl, rfl, rfl⟩

theorem MapAside.kept (h : MapAside p q) : PlantKept p q ∧ q.meterImage = p.meterImage ∧ q.tieImage = p.tieImage := by
  obtain ⟨hdesk, hcfg, hphase, hseen⟩ := h
  simp only [Part.seen, Prod.mk.injEq] at hseen
  obtain ⟨hclock, -, hfeedback, hset, hconsumer, hmeter, htie⟩ := hseen
  exact ⟨⟨hdesk, hcfg, hphase, hclock, hfeedback, hset, hconsumer⟩, hmeter, htie⟩

theorem onTieImage_kept (t : TieNo) (f : TieImage → TieImage) (p : Part) : PlantKept p (onTieImage t f p)
    ∧ (onTieImage t f p).meterImage = p.meterImage ∧ (onTieImage t f p).tieImage = p.tieImage.set t (f p.tieImage[t]) :=
  ⟨⟨(mapAside_refl p).1, rfl, rfl, rfl, rfl, rfl, rfl⟩, rfl, rfl⟩

/-- A tie after the write, and what its leaving the configuration remakes (R17). -/
theorem tieWritten_kept (old : PlantConfig) (t : TieNo) (p : Part) : PlantKept p (tieWritten old p t)
    ∧ (tieWritten old p t).meterImage = p.meterImage
    ∧ (tieWritten old p t).tieImage = p.tieImage.set t (tieRewritten old p.cfg.plant t p.tieImage[t]) := by
  have hsame : p.tieImage = p.tieImage.set t p.tieImage[t] := (Vector.set_getElem_self t.isLt).symm
  have hreset := onTieImage_kept t (fun _ => TieImage.reset) p
  have hrecord : tieRewritten old p.cfg.plant t p.tieImage[t]
      = rewritten (old.tiePresent[t] && stationAssigned old.tieStation[t]) (tieConfigured p t)
        (old.tieStation[t] != p.cfg.plant.tieStation[t]) { p.tieImage[t] with fresh := Fresh.reset } TieImage.reset
        p.tieImage[t] := rfl
  rw [hrecord]
  unfold tieWritten
  dsimp only
  generalize (old.tiePresent[t] && stationAssigned old.tieStation[t]) = was
  generalize tieConfigured p t = now
  match was, now with
  | false, false => exact ⟨.refl p, rfl, hsame⟩
  | false, true => exact hreset
  | true, false =>
    dsimp only
    split
    · obtain ⟨hkept, hmeter, htie⟩ := (tieChanged_mapAside t false (onTieImage t (fun _ => TieImage.reset) p)).kept
      exact ⟨hreset.1.trans hkept, hmeter, htie⟩
    · exact hreset
  | true, true =>
    dsimp only
    split
    · next hst =>
      rw [show (old.tieStation[t] != p.cfg.plant.tieStation[t]) = false from congrArg not hst]
      exact ⟨.refl p, rfl, hsame⟩
    · next hst =>
      rw [show (old.tieStation[t] != p.cfg.plant.tieStation[t]) = true from congrArg not (Bool.eq_false_iff.2 hst)]
      exact onTieImage_kept t (fun r => { r with fresh := Fresh.reset }) p

/-- A meter after the write. -/
theorem meterWritten_kept (old : PlantConfig) (s : SectionNo) (p : Part) : PlantKept p (meterWritten old p s)
    ∧ (meterWritten old p s).tieImage = p.tieImage
    ∧ (meterWritten old p s).meterImage = p.meterImage.set s (meterRewritten old p.cfg.plant s p.meterImage[s]) := by
  have hsame : p.meterImage = p.meterImage.set s p.meterImage[s] := (Vector.set_getElem_self s.isLt).symm
  have hwrites : ∀ f : MeterImage → MeterImage, PlantKept p (onMeterImage s f p)
      ∧ (onMeterImage s f p).tieImage = p.tieImage
      ∧ (onMeterImage s f p).meterImage = p.meterImage.set s (f p.meterImage[s]) := fun f =>
    ⟨⟨(mapAside_refl p).1, rfl, rfl, rfl, rfl, rfl, rfl⟩, rfl, rfl⟩
  have hrecord : meterRewritten old p.cfg.plant s p.meterImage[s]
      = rewritten (stationAssigned old.meterStation[s]) (meterConfigured p s)
        (old.meterStation[s] != p.cfg.plant.meterStation[s]) { p.meterImage[s] with fresh := Fresh.reset } MeterImage.reset
        p.meterImage[s] := rfl
  rw [hrecord]
  unfold meterWritten
  dsimp only
  generalize stationAssigned old.meterStation[s] = was
  generalize meterConfigured p s = now
  match was, now with
  | false, false => exact ⟨.refl p, rfl, hsame⟩
  | false, true => exact hwrites fun _ => MeterImage.reset
  | true, false => exact hwrites fun _ => MeterImage.reset
  | true, true =>
    dsimp only
    split
    · next hst =>
      rw [show (old.meterStation[s] != p.cfg.plant.meterStation[s]) = false from congrArg not hst]
      exact ⟨.refl p, rfl, hsame⟩
    · next hst =>
      rw [show (old.meterStation[s] != p.cfg.plant.meterStation[s]) = true from congrArg not (Bool.eq_false_iff.2 hst)]
      exact hwrites fun r => { r with fresh := Fresh.reset }

/-! ### All of them -/

/-- A fold that writes each record of a vector once. -/
theorem foldl_set_get {α : Type} {n : Nat} (l : List (Fin n)) (hl : l.Nodup) (f : Fin n → α → α) (v : Vector α n) (i : Fin n) :
    (l.foldl (fun u j => u.set j (f j u[j])) v)[i] = if i ∈ l then f i v[i] else v[i] := by
  induction l generalizing v with
  | nil => simp
  | cons j l ih =>
    obtain ⟨hj, hl⟩ := List.nodup_cons.1 hl
    rw [List.foldl_cons, ih hl]
    by_cases hi : i = j
    · subst hi
      rw [if_neg hj, if_pos List.mem_cons_self]
      exact Vector.getElem_set_self _
    · have hne : (v.set j (f j v[j]))[i] = v[i] := Vector.getElem_set_ne _ _ fun h => hi (Fin.ext h.symm)
      rw [hne]
      simp only [List.mem_cons, hi, false_or]

theorem ties_written (old : PlantConfig) (p : Part) : PlantKept p (allTies.foldl (tieWritten old) p)
    ∧ (allTies.foldl (tieWritten old) p).meterImage = p.meterImage
    ∧ (allTies.foldl (tieWritten old) p).tieImage
      = allTies.foldl (fun u t => u.set t (tieRewritten old p.cfg.plant t u[t])) p.tieImage := by
  have hfold : ∀ (l : List TieNo) (q : Part), q.cfg = p.cfg → PlantKept q (l.foldl (tieWritten old) q)
      ∧ (l.foldl (tieWritten old) q).meterImage = q.meterImage
      ∧ (l.foldl (tieWritten old) q).tieImage
        = l.foldl (fun u t => u.set t (tieRewritten old p.cfg.plant t u[t])) q.tieImage := by
    intro l
    induction l with
    | nil => exact fun q _ => ⟨.refl q, rfl, rfl⟩
    | cons t l ih =>
      intro q hq
      obtain ⟨hkept, hmeter, htie⟩ := tieWritten_kept old t q
      obtain ⟨hkept', hmeter', htie'⟩ := ih _ (hkept.cfg.trans hq)
      refine ⟨hkept.trans hkept', hmeter'.trans hmeter, htie'.trans ?_⟩
      rw [htie, hq]
      rfl
  exact hfold allTies p rfl

theorem meters_written (old : PlantConfig) (p : Part) : PlantKept p (allSections.foldl (meterWritten old) p)
    ∧ (allSections.foldl (meterWritten old) p).tieImage = p.tieImage
    ∧ (allSections.foldl (meterWritten old) p).meterImage
      = allSections.foldl (fun u s => u.set s (meterRewritten old p.cfg.plant s u[s])) p.meterImage := by
  have hfold : ∀ (l : List SectionNo) (q : Part), q.cfg = p.cfg → PlantKept q (l.foldl (meterWritten old) q)
      ∧ (l.foldl (meterWritten old) q).tieImage = q.tieImage
      ∧ (l.foldl (meterWritten old) q).meterImage
        = l.foldl (fun u s => u.set s (meterRewritten old p.cfg.plant s u[s])) q.meterImage := by
    intro l
    induction l with
    | nil => exact fun q _ => ⟨.refl q, rfl, rfl⟩
    | cons s l ih =>
      intro q hq
      obtain ⟨hkept, htie, hmeter⟩ := meterWritten_kept old s q
      obtain ⟨hkept', htie', hmeter'⟩ := ih _ (hkept.cfg.trans hq)
      refine ⟨hkept.trans hkept', htie'.trans htie, hmeter'.trans ?_⟩
      rw [hmeter, hq]
      rfl
  exact hfold allSections p rfl

end

/-! ### The write -/

/-- WRITE PLANT's fields, as they are written (R173). -/
theorem writtenPlant_value (m : Masked) (c : PlantConfig) : (writtenPlant m c).value =
    { reserve := written m 0 0 40000 c.reserve
      overload := written m 1 80 120 c.overload
      fastOverload := written m 2 100 150 c.fastOverload
      ceiling := written m 3 80 120 c.ceiling
      overloadConfirm := written m 4 500 10000 c.overloadConfirm
      settle := written m 5 1 30 c.settle
      startConfirm := written m 6 1 60 c.startConfirm
      stopDelay := written m 7 10 600 c.stopDelay
      stopHysteresis := written m 8 0 20000 c.stopHysteresis
      restoreDelay := written m 9 5 600 c.restoreDelay
      restoreStep := written m 10 1 120 c.restoreStep
      restoreMargin := written m 11 0 20000 c.restoreMargin
      restoreMode := chosen m 12 (fun c => if c = 0 then .continuous else .step) c.restoreMode
      nominal := if m.mask.testBit 13 then (if (m.fields.getD 13 0#32).toInt < 55000 then 50000 else 60000) else c.nominal
      freqDeadband := written m 14 0 500 c.freqDeadband
      trimGain := written m 15 0 255 c.trimGain
      trimMax := written m 16 0 96 c.trimMax
      heavyHold := written m 17 5 60 c.heavyHold
      heavyExpiry := written m 18 10 300 c.heavyExpiry
      autoStart := chosen m 19 (fun c => c == 1) c.autoStart
      autoStop := chosen m 20 (fun c => c == 1) c.autoStop
      autoRestore := chosen m 21 (fun c => c == 1) c.autoRestore
      tiePresent := Vector.ofFn fun t => chosen m (22 + t.val) (fun c => c == 1) c.tiePresent[t]
      tieStation := Vector.ofFn fun t => written m (26 + t.val) 0 62 c.tieStation[t]
      meterStation := Vector.ofFn fun s => written m (30 + s.val) 0 62 c.meterStation[s] } := by
  rw [← restoreMode_chosen c.restoreMode]
  rfl

theorem writtenPlant_clamped (m : Masked) (c : PlantConfig) : (writtenPlant m c).clamped = true ↔
    (∃ r ∈ plantRanges, beyond m r.1 r.2.1 r.2.2)
    ∨ (m.mask.testBit 13 = true ∧ (m.fields.getD 13 0#32).toInt ≠ 50000 ∧ (m.fields.getD 13 0#32).toInt ≠ 60000) := by
  have hranges : ∀ r ∈ plantRanges, r.2.1 ≤ r.2.2 := by decide
  have hnominal : ∀ v : Int, ((nominalOf v : Nat) : Int) ≠ v ↔ v ≠ 50000 ∧ v ≠ 60000 := fun v => by
    unfold nominalOf
    split <;> omega
  unfold writtenPlant
  extract_lets nominal
  simp only [Bool.or_eq_true, List.any_eq_true, Bool.and_eq_true, bne_iff_ne]
  refine or_congr (exists_congr fun r => and_congr_right fun hr => beyond_iff (hranges r hr)) (and_congr_right fun hp => ?_)
  rw [show nominal = nominalOf (m.value 13) from if_pos hp]
  exact hnominal _

section

variable {m : Masked} {p : Part}

/-- The part with WRITE PLANT's fields written, before what they bring about. -/
def plantFields (m : Masked) (p : Part) : Part :=
  { p with cfg := { p.cfg with plant := (writtenPlant m p.cfg.plant).value } }

/-- The part with the written fields' effect on ties and meters. -/
def plantMapped (m : Masked) (p : Part) : Part :=
  allSections.foldl (meterWritten p.cfg.plant) (allTies.foldl (tieWritten p.cfg.plant) (plantFields m p))

theorem plantMapped_kept (m : Masked) (p : Part) : PlantKept (plantFields m p) (plantMapped m p)
    ∧ (∀ t : TieNo, (plantMapped m p).tieImage[t]
      = tieRewritten p.cfg.plant (writtenPlant m p.cfg.plant).value t p.tieImage[t])
    ∧ ∀ s : SectionNo, (plantMapped m p).meterImage[s]
      = meterRewritten p.cfg.plant (writtenPlant m p.cfg.plant).value s p.meterImage[s] := by
  obtain ⟨hties, hsame, htie⟩ := ties_written p.cfg.plant (plantFields m p)
  obtain ⟨hmeters, hsame', hmeter⟩ := meters_written p.cfg.plant (allTies.foldl (tieWritten p.cfg.plant) (plantFields m p))
  refine ⟨hties.trans hmeters, fun t => ?_, fun s => ?_⟩
  · have hget := foldl_set_get allTies (by decide) (tieRewritten p.cfg.plant (writtenPlant m p.cfg.plant).value) p.tieImage t
    rw [if_pos (mem_allTies t)] at hget
    rw [plantMapped, hsame', htie]
    exact hget
  · have hget := foldl_set_get allSections (by decide) (meterRewritten p.cfg.plant (writtenPlant m p.cfg.plant).value)
      p.meterImage s
    rw [if_pos (mem_allSections s)] at hget
    rw [plantMapped, hmeter, hties.cfg, hsame]
    exact hget

/-- What follows the ties and the meters is beside (R106, R140, R152). -/
theorem writePlant_beside (m : Masked) (p : Part) :
    ∃ q, writePlant m p = doneOr (writtenPlant m p.cfg.plant).clamped q ∧ Beside (plantMapped m p) q := by
  refine ⟨_, rfl, ?_⟩
  have hu := units_beside (plantMapped m p)
  refine handing_testAll hu.toHanding ?_
  have htabled : Beside (plantMapped m p) (if p.cfg.plant.ceiling == (writtenPlant m p.cfg.plant).value.ceiling
      then plantMapped m p else (islandNames (plantMapped m p)).foldl (fun q i => rebuild i q) (plantMapped m p)) := by
    split
    · exact .refl _
    · exact fold_keeps _ _ (fun _ i hq => steady_rebuild hu.toCalm.steady i hq) (.refl _)
  split
  · exact calm_releaseHeld hu.toCalm htabled
  · exact htabled

end

/-- Settles O46: the fields, the ties and the meters one by one, and then what is beside the records. -/
theorem writePlantTakesEffect : Obligations.WritePlantTakesEffect := by
  unfold Obligations.WritePlantTakesEffect
  intro p w tag mask fields hf hsaving hdef m old yes clamped was
  have hvalue := writtenPlant_value m old
  have hclamped : (writtenPlant m old).clamped = true ↔ clamped := writtenPlant_clamped m old
  obtain ⟨q, hwrite, hbeside⟩ := writePlant_beside m (numberedPart p)
  obtain ⟨code, hcode, hcoded⟩ := coded_doneOr q hclamped
  obtain ⟨hkept, htie, hmeter⟩ := plantMapped_kept m (numberedPart p)
  obtain ⟨hkept', hmeters, hties⟩ := (mapAside_beside hbeside).kept
  have hall := hkept.trans hkept'
  have hanswer := answers_by (w := w) (c := .writePlant tag mask fields) (kind := 11) (tag := tag) hf rfl
    (parse_writePlant hdef) (.inr hsaving) nofun (hwrite.trans hcode)
  have hplant : q.cfg.plant = (writtenPlant m old).value := congrArg Configuration.plant hall.cfg
  refine ⟨_, code, hanswer, hcoded, fun hmask => hcoded.2 ?_, sameDesk_numbered hall.desk, hall.clock, hall.phase, hall.feedback,
    hall.setImage, hall.consumerImage, fun t => ?_, fun s => ?_, ?_⟩
  · have hzero : m.mask = 0 := congrArg BitVec.toNat hmask
    rintro (⟨r, -, hr⟩ | ⟨hbit, -⟩)
    · exact not_beyond_absent hzero hr
    · rw [hzero, Nat.zero_testBit] at hbit
      exact Bool.false_ne_true hbit
  · have htied : q.tieImage[t] = tieRewritten old q.cfg.plant t p.tieImage[t] := by
      rw [hties, hplant]
      exact htie t
    have hcases : ∀ (b b' moved : Bool) (r : TieImage),
        rewritten b b' moved { r with fresh := Fresh.reset } TieImage.reset r
          = match was b b' moved with
            | some f => { r with fresh := f r.fresh }
            | none => TieImage.reset := by
      intro b b' moved r
      cases b <;> cases b' <;> cases moved <;> rfl
    exact htied.trans (hcases _ _ _ _)
  · have hmetered : q.meterImage[s] = meterRewritten old q.cfg.plant s p.meterImage[s] := by
      rw [hmeters, hplant]
      exact hmeter s
    have hcases : ∀ (b b' moved : Bool) (r : MeterImage),
        rewritten b b' moved { r with fresh := Fresh.reset } MeterImage.reset r
          = match was b b' moved with
            | some f => { r with fresh := f r.fresh }
            | none => MeterImage.reset := by
      intro b b' moved r
      cases b <;> cases b' <;> cases moved <;> rfl
    exact hmetered.trans (hcases _ _ _ _)
  · refine hall.cfg.trans ?_
    rw [← hvalue]
    rfl

end Sys2Proof.Proofs
end

section
/-! An accepted SET STATUS record (R44, R47, R50, R54 to R60): what the set's operation makes of its record, and that the hand-on,
the marking and the Shed Unit leave it alone. -/

namespace Sys2Proof.Proofs

open Sys2Proof.Machine Sys2Proof.Claims Sequenced

/-! ### The operations of one record (R44) -/

section

variable {k : SetNo} {p : Part} {o : Sequenced}

theorem handSyncBy_steps {hand : OrderBody → Bool → Part → HandedOver}
    (hhand : ∀ q b u, Steps k p q → Steps k p (hand b u q).part) (h : Steps k p o.part) :
    Steps k p (o.handSyncBy hand k).part := by
  unfold Sequenced.handSyncBy
  extract_lets deadBus handed o1
  have h1 : Steps k p o1.part := Steps.noteHanded _ _ (hhand _ _ _ (h.onSeq _))
  split
  · exact h1
  · exact Steps.handSet ((enter_steps (o := o1.on (stopSetTimer k)) .blocked (h1.onSeq _)).occur _ _) _

theorem handSync_steps (h : Steps k p o.part) : Steps k p (o.handSync k).part :=
  handSyncBy_steps (fun _ b u hq => hq.handOver b u) h

theorem joinSync_steps (h : Steps k p o.part) : Steps k p (o.handSyncBy joinQueues k).part :=
  handSyncBy_steps (fun _ b u hq => hq.joinQueues b u) h

theorem unexpectedClose_steps (h : Steps k p o.part) : Steps k p (o.unexpectedClose k).part :=
  enter_steps _ (((h.onSeq _).withdrawSet).onSeq _)

theorem synchronised_steps (h : Steps k p o.part) : Steps k p (o.synchronised k).part :=
  enter_steps _ (((h.onSeq _).withdrawSet).onSeq _)

theorem trippedOff_steps (h : Steps k p o.part) : Steps k p (o.trippedOff k).part :=
  enter_steps _ (((h.onSeq _).onSeq _).withdrawSet)

theorem protection_steps (h : Steps k p o.part) : Steps k p (o.protection k).part := by
  unfold Sequenced.protection
  extract_lets r
  split
  · split
    · exact tripped_steps h
    · exact tripped_steps h
    · exact tripped_steps h
    · exact (tripped_steps h).handSet _
    · exact (tripped_steps h).handSet _
    · exact h
  · exact h

theorem stoppedIfDown_steps (h : Steps k p o.part) : Steps k p (o.stoppedIfDown k).part := by
  unfold Sequenced.stoppedIfDown
  split
  · exact standby_steps h
  · exact h

theorem runningReported_steps (h : Steps k p o.part) : Steps k p (o.runningReported k).part := by
  unfold Sequenced.runningReported
  extract_lets entered o1
  have he : Steps k p entered.part := enter_steps _ (h.onSeq _)
  split
  · have h1 : Steps k p o1.part := joinSync_steps he
    split
    · exact synchronised_steps h1
    · exact unexpectedClose_steps h1
  · exact handSync_steps he

theorem recordEvent_steps (k : SetNo) (p : Part) : Steps k p (recordEvent k p).part := by
  have h : Steps k p (sequenced p).part := .refl k p
  unfold recordEvent
  extract_lets r o
  split
  · split
    · exact runningReported_steps h
    · split
      · exact unexpectedClose_steps h
      · exact protection_steps h
  · split
    · exact synchronised_steps h
    · exact protection_steps h
  · split
    · exact h
    · exact trippedOff_steps h
  · split
    · exact h
    · exact trippedOff_steps h
  · split
    · exact h
    · exact trippedOff_steps h
  · split
    · exact h
    · exact protection_steps (enterStopping_steps h)
  · split
    · exact unexpectedClose_steps h
    · exact protection_steps (stoppedIfDown_steps h)
  · split
    · exact unexpectedClose_steps h
    · split
      · exact protection_steps (enter_steps _ h)
      · exact protection_steps h
  · split
    · exact unexpectedClose_steps h
    · exact h
  · split
    · exact unexpectedClose_steps h
    · exact protection_steps h
  · exact h
  · exact h

end

/-! ### What they make of the set's record -/

section

variable {k : SetNo} {o : Sequenced}

theorem unexpectedClose_state (o : Sequenced) (k : SetNo) : (o.unexpectedClose k).part.seq[k].state = some .rampIn :=
  congrArg SeqRecord.state (enter_self _ k .rampIn)

theorem synchronised_self (o : Sequenced) (k : SetNo) : (o.synchronised k).part.seq[k].state = some .rampIn
    ∧ (o.synchronised k).part.seq[k].timer = none ∧ (o.synchronised k).part.seq[k].deadBusSent = none := by
  obtain ⟨l, hl⟩ := withdrawSet_self k (stopSetTimer k o.part)
  have hrecord : (setDeadBusSent k none (withdrawSet k (stopSetTimer k o.part))).seq[k]
      = { withOutcome l { o.part.seq[k] with timer := none } with deadBusSent := none } := by
    rw [setDeadBusSent, onSeq_self, hl, stopSetTimer_self]
  rw [Sequenced.synchronised, enter_self]
  refine ⟨rfl, ?_, ?_⟩ <;> simp only [Sequenced.on, hrecord]
  rfl

theorem trippedOff_self (o : Sequenced) (k : SetNo) : (o.trippedOff k).part.seq[k].state = some .tripped
    ∧ (o.trippedOff k).part.seq[k].timer = none ∧ (o.trippedOff k).part.seq[k].origin = none := by
  obtain ⟨l, hl⟩ := withdrawSet_self k (setOrigin k none (stopSetTimer k o.part))
  rw [setOrigin_self, stopSetTimer_self] at hl
  rw [Sequenced.trippedOff, enter_self]
  refine ⟨rfl, ?_, ?_⟩ <;> simp only [Sequenced.on, hl] <;> rfl

/-- The states of a set that a held trip takes to TRIPPED (R59). -/
def Protected (st : SetState) : Prop :=
  st = .standby ∨ st = .stopping ∨ st = .blocked ∨ st = .starting ∨ st = .synchronising

theorem protection_state {st : SetState} (ht : o.part.setImage[k].trip = true) (hc : o.part.setImage[k].closed = false)
    (hs : o.part.seq[k].state = some st) (h : Protected st) : (o.protection k).part.seq[k].state = some .tripped := by
  have htripped : ((o.on (stopSetTimer k)).enter k .tripped).part.seq[k].state = some .tripped :=
    congrArg SeqRecord.state (tripped_self o k)
  have hstopped : (handSet k .stop ((o.on (stopSetTimer k)).enter k .tripped).part).1.seq[k].state = some .tripped := by
    obtain ⟨l, hl⟩ := handSet_seq_self k .stop ((o.on (stopSetTimer k)).enter k .tripped).part
    rw [hl]
    exact htripped
  unfold Sequenced.protection
  extract_lets r
  rw [if_pos (by simp only [r, ht, hc, Bool.not_false, Bool.and_self]), hs]
  rcases h with rfl | rfl | rfl | rfl | rfl
  · exact htripped
  · exact htripped
  · exact htripped
  · exact hstopped
  · exact hstopped

theorem enterStopping_state (o : Sequenced) (k : SetNo) : (o.enterStopping k).part.seq[k].state = some .stopping
    ∨ (o.enterStopping k).part.seq[k].state = some .blocked := by
  unfold Sequenced.enterStopping
  extract_lets o1 handed o2
  split
  · obtain ⟨l, hl⟩ := handSet_seq_self k .stop o1.part
    exact .inl ((congrArg SeqRecord.state hl).trans (congrArg SeqRecord.state (enter_self _ k .stopping)))
  · exact .inr (congrArg SeqRecord.state (enter_self _ k .blocked))

/-- A SYNC that finds room is queued (R48). -/
theorem handSync_queued (hc : setConfigured o.part k = true) (hr : Room o.part) :
    ∃ l d, (o.handSync k).part.seq[k] = withOutcome l { o.part.seq[k] with deadBusSent := d } := by
  obtain ⟨d, hd⟩ : ∃ d, d = deadBusNow o.part k := ⟨_, rfl⟩
  obtain ⟨q, hq⟩ : ∃ q, q = setDeadBusSent k (some d) o.part := ⟨_, rfl⟩
  have hroom : Room q := by rw [hq]; exact hr
  have hconf : setConfigured q k = true := by rw [hq]; exact hc
  obtain ⟨hqueued, -⟩ := handSet_raises (a := .sync d) hconf hroom
  obtain ⟨l, hl⟩ := handSet_seq_self k (.sync d) q
  have hrun : o.handSync k = { o with part := (handSet k (.sync d) q).1 } := by
    subst hd hq
    exact if_pos hqueued
  refine ⟨l, some d, ?_⟩
  rw [hrun]
  refine hl.trans ?_
  rw [hq, setDeadBusSent, onSeq_self]

/-- A SYNC that is not queued blocks the set with a STOP (R56). -/
theorem handSync_refused {q : Part} {d : Bool} (hd : d = deadBusNow o.part k) (hq : q = setDeadBusSent k (some d) o.part)
    (h : (handSet k (.sync d) q).2 = false) :
    o.handSync k = (({ o with part := (handSet k (.sync d) q).1 }.on (stopSetTimer k)).enter k .blocked).on fun p =>
      (handSet k .stop (occur .syncFail (.set k) p)).1 := by
  subst hd hq
  unfold Sequenced.handSync Sequenced.handSyncBy
  exact if_neg (ne_true_of_eq_false h)

/-- The set is blocked by a STOP that follows its event (R56). -/
theorem blocked_self {e : Sequenced} (hs : e.part.seq[k].state = some .blocked) (ht : e.part.seq[k].timer = none)
    (hf : Flagged e.part .orderQueueFull) {q : Part} (hq : q = (handSet k .stop (occur .syncFail (.set k) e.part)).1) :
    q.seq[k].state = some .blocked ∧ q.seq[k].timer = none ∧ Flagged q .syncFail ∧ Flagged q .orderQueueFull := by
  obtain ⟨l, hl⟩ := handSet_seq_self k .stop (occur .syncFail (.set k) e.part)
  have hsteps : Steps k (occur .syncFail (.set k) e.part) q := hq ▸ (Steps.refl k _).handSet .stop
  rw [occur_seq, ← hq] at hl
  refine ⟨?_, ?_, hsteps.flag _ (occur_flagged _ _ _), hsteps.flag _ (occur_keeps_flag _ _ _ hf)⟩
  · rw [hl]
    exact hs
  · rw [hl]
    exact ht

/-- One that finds neither room nor an order to replace blocks the set (R56). -/
theorem handSync_full (hc : setConfigured o.part k = true) (hfull : 32 ≤ o.part.normal.length)
    (hq : queuedFor o.part (.set k) = none) :
    (o.handSync k).part.seq[k].state = some .blocked ∧ (o.handSync k).part.seq[k].timer = none
    ∧ Flagged (o.handSync k).part .syncFail ∧ Flagged (o.handSync k).part .orderQueueFull := by
  obtain ⟨d, hd⟩ : ∃ d, d = deadBusNow o.part k := ⟨_, rfl⟩
  obtain ⟨q, hqeq⟩ : ∃ q, q = setDeadBusSent k (some d) o.part := ⟨_, rfl⟩
  have hhand : handSet k (.sync d) q = (noteOutcome k (.sync d) .notQueued (occur .orderQueueFull (.set k) q), false) :=
    handSet_full (by rw [hqeq]; exact hc) (by rw [hqeq]; exact hfull) (by rw [hqeq]; exact hq)
  have hrun := handSync_refused hd hqeq (congrArg Prod.snd hhand)
  obtain ⟨x, hx⟩ : ∃ x, x = (handSet k (.sync d) q).1 := ⟨_, rfl⟩
  have hflag : Flagged x .orderQueueFull := by
    rw [hx, hhand]
    exact occur_flagged .orderQueueFull (.set k) q
  obtain ⟨e, he⟩ : ∃ e, e = ({ o with part := x }.on (stopSetTimer k)).enter k .blocked := ⟨_, rfl⟩
  have hself : e.part.seq[k].state = some .blocked ∧ e.part.seq[k].timer = none := by
    have hstopped := stopSetTimer_self k x
    rw [he, enter_self]
    simp only [Sequenced.on, hstopped, and_self]
  have hkept : Flagged e.part .orderQueueFull := he ▸ hflag
  rw [← hx, ← he] at hrun
  rw [hrun]
  exact blocked_self hself.1 hself.2 hkept rfl

end

/-! ### The event of one record (R44) -/

section

variable {k : SetNo} {p : Part} {st : SetState}

theorem runningReported_closes {o : Sequenced} (hc : o.part.setImage[k].closed = true) :
    (o.runningReported k).part.seq[k].state = some .rampIn := by
  unfold Sequenced.runningReported
  extract_lets entered o1
  rw [if_pos hc]
  split
  · exact (synchronised_self o1 k).1
  · exact unexpectedClose_state o1 k

/-- A breaker reported closed brings the set onto the bus (R47, R50, R60). -/
theorem recordEvent_closes (hs : p.seq[k].state = some st) (hst : Protected st ∨ st = .tripped)
    (hc : p.setImage[k].closed = true) : (recordEvent k p).part.seq[k].state = some .rampIn := by
  have hunexpected := unexpectedClose_state (sequenced p) k
  unfold recordEvent
  extract_lets r o
  have hrc : r.closed = true := hc
  rcases hst with (rfl | rfl | rfl | rfl | rfl) | rfl <;> rw [hs] <;> dsimp only
  · rw [if_pos hrc]
    exact hunexpected
  · rw [if_pos hrc]
    exact hunexpected
  · rw [if_pos hrc]
    exact hunexpected
  · split
    · exact runningReported_closes hc
    · exact hunexpected
  · rw [if_pos hrc]
    exact (synchronised_self (sequenced p) k).1
  · rw [if_pos hrc]
    exact hunexpected

theorem recordEvent_synchronised (hs : p.seq[k].state = some .synchronising) (hc : p.setImage[k].closed = true) :
    recordEvent k p = (sequenced p).synchronised k := by
  unfold recordEvent
  rw [hs]
  exact if_pos hc

/-- An open breaker and a held trip take the set to TRIPPED (R59). -/
theorem recordEvent_trips (hs : p.seq[k].state = some st) (hst : Protected st ∨ st = .opening)
    (hc : p.setImage[k].closed = false) (ht : p.setImage[k].trip = true) :
    (recordEvent k p).part.seq[k].state = some .tripped := by
  have hopen : ¬p.setImage[k].closed = true := ne_true_of_eq_false hc
  have himage : ∀ {o : Sequenced}, Steps k p o.part → o.part.setImage = p.setImage := fun h => h.setImage
  have htrip : ∀ {o : Sequenced} {st'}, Steps k p o.part → o.part.seq[k].state = some st' → Protected st' →
      (o.protection k).part.seq[k].state = some .tripped := fun h hs' hp =>
    protection_state (by rw [himage h]; exact ht) (by rw [himage h]; exact hc) hs' hp
  have hself : Steps k p (sequenced p).part := .refl k p
  unfold recordEvent
  extract_lets r o
  rcases hst with hst | rfl
  · have hcalm := htrip hself hs hst
    rcases hst with rfl | rfl | rfl | rfl | rfl <;> rw [hs] <;> dsimp only
    · rw [if_neg hopen]
      split
      · exact htrip (enter_steps .blocked hself) (congrArg SeqRecord.state (enter_self _ k .blocked)) (.inr (.inr (.inl rfl)))
      · exact hcalm
    · rw [if_neg hopen]
      unfold Sequenced.stoppedIfDown
      split
      · exact htrip (standby_steps hself) (congrArg SeqRecord.state (standby_self o k)) (.inl rfl)
      · exact hcalm
    · rw [if_neg hopen]
      exact hcalm
    · rw [if_neg, if_neg hopen]
      · exact hcalm
      · simp only [r, hc, ht, Bool.not_true, Bool.or_self, Bool.and_false, Bool.false_eq_true, not_false_eq_true]
    · rw [if_neg hopen]
      exact hcalm
  · rw [hs]
    dsimp only
    rw [if_neg hopen]
    rcases enterStopping_state o k with hstate | hstate
    · exact htrip (enterStopping_steps hself) hstate (.inr (.inl rfl))
    · exact htrip (enterStopping_steps hself) hstate (.inr (.inr (.inl rfl)))

/-- A breaker that opens unordered is a trip (R58). -/
theorem recordEvent_trippedOff (hs : p.seq[k].state = some st) (hst : st = .rampIn ∨ st = .onBus ∨ st = .rampOut)
    (hc : p.setImage[k].closed = false) : recordEvent k p = (sequenced p).trippedOff k := by
  unfold recordEvent
  rcases hst with rfl | rfl | rfl <;> rw [hs] <;> exact if_neg (ne_true_of_eq_false hc)

/-- A set that has started is to be synchronised (R47). -/
theorem recordEvent_started (hs : p.seq[k].state = some .starting) (hr : p.setImage[k].running = true)
    (hc : p.setImage[k].closed = false) (ht : p.setImage[k].trip = false) :
    recordEvent k p = (((sequenced p).on (stopSetTimer k)).enter k .synchronising).handSync k := by
  unfold recordEvent
  extract_lets r o
  rw [hs]
  dsimp only
  rw [if_pos (by simp only [r, hr, ht, Bool.not_false, Bool.or_true, Bool.and_true])]
  exact if_neg (ne_true_of_eq_false hc)

/-- A set whose breaker has opened as ordered is stopped (R54). -/
theorem recordEvent_opened (hs : p.seq[k].state = some .opening) (hc : p.setImage[k].closed = false)
    (ht : p.setImage[k].trip = false) : recordEvent k p = (sequenced p).enterStopping k := by
  have himage : ((sequenced p).enterStopping k).part.setImage = p.setImage := (enterStopping_steps (.refl k p)).setImage
  unfold recordEvent
  rw [hs]
  refine (if_neg (ne_true_of_eq_false hc)).trans (protection_none (.inl ?_))
  rw [himage]
  exact ht

/-- One that is reported running while it stands by is blocked (R60). -/
theorem recordEvent_strayRun (hs : p.seq[k].state = some .standby) (hr : p.setImage[k].running = true)
    (hc : p.setImage[k].closed = false) (ht : p.setImage[k].trip = false) :
    recordEvent k p = (sequenced p).enter k .blocked := by
  unfold recordEvent
  rw [hs]
  exact (if_neg (ne_true_of_eq_false hc)).trans ((if_pos hr).trans (protection_none (.inl ht)))

/-- A stopping set stands by once it is down (R55). -/
theorem recordEvent_down {d : Nat} (hs : p.seq[k].state = some .stopping) (htimer : p.seq[k].timer = some (.stop, d))
    (hr : p.setImage[k].running = false) (hc : p.setImage[k].closed = false) (ht : p.setImage[k].trip = false) :
    recordEvent k p = ((sequenced p).on fun q => setOrigin k none (stopSetTimer k q)).enter k .standby := by
  have hdown := stoppedIfDown_down (o := sequenced p) hs htimer hr
  unfold recordEvent
  rw [hs]
  refine (if_neg (ne_true_of_eq_false hc)).trans ((congrArg (Sequenced.protection · k) hdown).trans (protection_none (.inl ?_)))
  exact ht

/-- Before that it waits. -/
theorem recordEvent_waits (hs : p.seq[k].state = some .stopping) (hc : p.setImage[k].closed = false)
    (ht : p.setImage[k].trip = false)
    (h : p.setImage[k].running = true ∨ ∀ d, p.seq[k].timer ≠ some (.stop, d)) : recordEvent k p = sequenced p := by
  have hwaits := stoppedIfDown_runs (o := sequenced p) h
  unfold recordEvent
  rw [hs]
  refine (if_neg (ne_true_of_eq_false hc)).trans ((congrArg (Sequenced.protection · k) hwaits).trans (protection_none (.inl ?_)))
  exact ht

theorem recordEvent_stillClosed (hs : p.seq[k].state = some .opening) (hc : p.setImage[k].closed = true) :
    recordEvent k p = sequenced p := by
  unfold recordEvent
  rw [hs]
  exact if_pos hc

theorem recordEvent_local (hs : p.seq[k].state = some .localRun) : recordEvent k p = sequenced p := by
  unfold recordEvent
  rw [hs]

end

/-! ### What follows the event (R15, R44, R57) -/

/-- A property of a set's record that neither the Reserve Unit's requests nor a changed marking ends. -/
structure Lasts (k : SetNo) (P : SeqRecord → Prop) : Prop where
  hands : Handing (fun q => P q.seq[k])
  unsynced : ∀ r, P r → r.state ≠ some .synchronising

theorem lasts_settled {k : SetNo} {r : SeqRecord} (hr : Settled r) (hs : r.state ≠ some .synchronising) : Lasts k (· = r) :=
  ⟨handing_quiet k r hr, fun _ h => h ▸ hs⟩

theorem lasts_offered (k : SetNo) (r₀ : SeqRecord) : Lasts k (Offered r₀) := by
  refine ⟨handing_offered k r₀, fun r h => ?_⟩
  rcases h.1 with h | h <;> rw [h] <;> exact nofun

section

variable {k j : SetNo} {P : SeqRecord → Prop} {p : Part}

theorem Lasts.syncAgree (h : Lasts k P) (i : IslandNo) (hp : P p.seq[k]) : P (syncAgree i p).part.seq[k] := by
  unfold Machine.syncAgree
  refine List.foldlRecOn (motive := fun o : Sequenced => P o.part.seq[k]) _ _ hp fun o ho j _ => ?_
  split
  · next hdis =>
    have hj : k ≠ j := by
      rintro rfl
      simp only [syncDisagrees, setStateIs, Bool.and_eq_true, beq_iff_eq] at hdis
      exact h.unsynced _ ho hdis.1.2
    rw [(handSync_steps (Steps.refl j o.part)).others k hj]
    exact ho
  · exact ho

theorem Lasts.handMarking (h : Lasts k P) (i : IslandNo) (was : Bool) (hp : P p.seq[k]) : P (handMarking i was p).seq[k] := by
  unfold Machine.handMarking
  split
  · have hdead : P (occur .deadIsland (.island i) p).seq[k] := by
      rw [occur_seq]
      exact hp
    exact handing_deadIsland h.hands i (calm_endPeriods h.hands.toCalm i (handing_handOn h.hands _ (h.syncAgree i hdead)))
  · exact calm_rebuild h.hands.toCalm i (calm_retrigger h.hands.toCalm i (calm_clearLow h.hands.toCalm i
      (calm_beginPeriods h.hands.toCalm i (handing_handOn h.hands _ (h.syncAgree i hp)))))
  · exact hp

/-- The part whose set loss is raised (R57). -/
def lossRaised (k : SetNo) (old : SetImage) (p : Part) : Part :=
  if isSetLoss p k old.closed then occur .setLoss (.set k) p else p

theorem lossRaised_eq (k : SetNo) (old : SetImage) (p : Part) :
    ∃ f r t n, lossRaised k old p = { p with rawFlags := f, reports := r, supTx := t, allowance := n } := by
  unfold lossRaised
  split
  · exact occur_eq .setLoss (.set k) p
  · exact ⟨_, _, _, _, rfl⟩

theorem Lasts.setChanged (h : Lasts j P) {old : SetImage} {was : Bool}
    (hp : P (recordEvent k (lossRaised k old p)).part.seq[j]) : P (setChanged k old was p).seq[j] := by
  have hs : P (recordEvent k (lossRaised k old p)).handOn.seq[j] := handing_handOn h.hands _ hp
  obtain ⟨m, hm⟩ : ∃ m, m = (match setIsland (recordEvent k (lossRaised k old p)).handOn k with
    | some i => Machine.handMarking i was (recordEvent k (lossRaised k old p)).handOn
    | none => (recordEvent k (lossRaised k old p)).handOn) := ⟨_, rfl⟩
  have hmarked : P m.seq[j] := by
    rw [hm]
    split
    · exact h.handMarking _ was hs
    · exact hs
  have hrun : Machine.setChanged k old was p
      = if old.closed == p.setImage[k].closed then m else shedBreakerChange k (isSetLoss p k old.closed) m := by
    rw [hm]
    rfl
  rw [hrun]
  split
  · exact hmarked
  · exact handing_shedBreakerChange h.hands k _ hmarked

/-- What the event has, and the units keep, the record's changes have. -/
theorem setChanged_keeps {I : Part → Prop} (h : Units I) {old : SetImage} {was : Bool}
    (hp : I (recordEvent k (lossRaised k old p)).part) : I (setChanged k old was p) := by
  have hs : I (recordEvent k (lossRaised k old p)).handOn := units_handOn h _ hp
  obtain ⟨m, hm⟩ : ∃ m, m = (match setIsland (recordEvent k (lossRaised k old p)).handOn k with
    | some i => handMarking i was (recordEvent k (lossRaised k old p)).handOn
    | none => (recordEvent k (lossRaised k old p)).handOn) := ⟨_, rfl⟩
  have hmarked : I m := by
    rw [hm]
    split
    · exact units_handMarking h _ was hs
    · exact hs
  have hrun : setChanged k old was p
      = if old.closed == p.setImage[k].closed then m else shedBreakerChange k (isSetLoss p k old.closed) m := by
    rw [hm]
    rfl
  rw [hrun]
  split
  · exact hmarked
  · exact handing_shedBreakerChange h.toHanding k _ hmarked

end

/-! ### The record taken (R4, R44) -/

/-- The part with the record's values written. -/
def recorded (k : SetNo) (running closed : Bool) (kw : Nat) (trip : Bool) (p : Part) : Part :=
  { p with
    setImage := p.setImage.set k
      { running := running, closed := closed, kw := kw, trip := trip, fresh := p.setImage[k].fresh.accept 400 p.clock } }

/-- The marking of the set's island. -/
def markedLive (k : SetNo) (p : Part) : Bool :=
  match setIsland p k with
  | some i => islandLive p i
  | none => false

/-- The part at which the Set Sequencer judges the record: its values written, and a set loss raised (R57). -/
def judged (k : SetNo) (running closed : Bool) (kw : Nat) (trip : Bool) (p : Part) : Part :=
  lossRaised k p.setImage[k] (recorded k running closed kw trip p)

section

variable {k j : SetNo} {running closed trip : Bool} {kw : Nat} {p : Part} {st : SetState}

theorem recorded_image :
    (recorded k running closed kw trip p).setImage[k]
      = { running := running, closed := closed, kw := kw, trip := trip, fresh := p.setImage[k].fresh.accept 400 p.clock } :=
  Vector.getElem_set_self _

theorem setStatus_changed
    (h : p.setImage[k].running ≠ running ∨ p.setImage[k].closed ≠ closed ∨ p.setImage[k].trip ≠ trip) :
    deliverRecord (.set k running closed kw trip) p
      = setChanged k p.setImage[k] (markedLive k p) (recorded k running closed kw trip p) := by
  refine if_neg ?_
  simp only [Bool.and_eq_true, beq_iff_eq, not_and_or]
  rcases h with h | h | h
  · exact .inl (.inl h)
  · exact .inl (.inr h)
  · exact .inr h

theorem judged_eq (k : SetNo) (running closed : Bool) (kw : Nat) (trip : Bool) (p : Part) :
    ∃ f r t n, judged k running closed kw trip p = { p with
      setImage := (recorded k running closed kw trip p).setImage, rawFlags := f, reports := r, supTx := t, allowance := n } :=
  lossRaised_eq k p.setImage[k] (recorded k running closed kw trip p)

theorem judged_seq : (judged k running closed kw trip p).seq = p.seq := by
  obtain ⟨f, r, t, n, h⟩ := judged_eq k running closed kw trip p
  rw [h]

theorem judged_image : (judged k running closed kw trip p).setImage[k]
    = { running := running, closed := closed, kw := kw, trip := trip, fresh := p.setImage[k].fresh.accept 400 p.clock } := by
  obtain ⟨f, r, t, n, h⟩ := judged_eq k running closed kw trip p
  rw [h]
  exact recorded_image

theorem judged_room (h : Room p) : Room (judged k running closed kw trip p) := by
  obtain ⟨f, r, t, n, heq⟩ := judged_eq k running closed kw trip p
  rw [heq]
  exact h

theorem judged_full (h : 32 ≤ p.normal.length ∧ queuedFor p (.set k) = none) :
    32 ≤ (judged k running closed kw trip p).normal.length
    ∧ queuedFor (judged k running closed kw trip p) (.set k) = none := by
  obtain ⟨f, r, t, n, heq⟩ := judged_eq k running closed kw trip p
  rw [heq]
  exact h

theorem judged_configured (h : setConfigured p k = true) : setConfigured (judged k running closed kw trip p) k = true := by
  obtain ⟨f, r, t, n, heq⟩ := judged_eq k running closed kw trip p
  rw [heq]
  exact h

/-- A breaker that opens outside RAMP_OUT and OPENING is a loss (R57). -/
theorem judged_loss (hphase : p.phase = .run) (hc : setConfigured p k = true) (hs : p.seq[k].state = some st)
    (hwas : p.setImage[k].closed = true) (h : st ≠ .rampOut ∧ st ≠ .opening) :
    Flagged (judged k running false kw trip p) .setLoss := by
  have himage : (recorded k running false kw trip p).setImage[k].closed = false := by rw [recorded_image]
  have hstate : ∀ st', st ≠ st' → setStateIs (recorded k running false kw trip p) k st' = false := fun st' hne => by
    refine beq_eq_false_iff_ne.mpr ?_
    change p.seq[k].state ≠ some st'
    rw [hs]
    exact fun h => hne (Option.some.inj h)
  have hphase' : (recorded k running false kw trip p).phase = .run := hphase
  have hc' : setConfigured (recorded k running false kw trip p) k = true := hc
  have hloss : isSetLoss (recorded k running false kw trip p) k p.setImage[k].closed = true := by
    simp only [isSetLoss, hphase', hc', hwas, himage, hstate _ h.1, hstate _ h.2, beq_self_eq_true, Bool.not_false,
      Bool.and_self]
  unfold judged lossRaised
  rw [hloss]
  exact occur_flagged .setLoss (.set k) _

/-- What a record that leaves the breaker as it was hands on: the Set Sequencer's changes alone. -/
theorem setChanged_sameBreaker {was : Bool} {old : SetImage} (hc : old.closed = p.setImage[k].closed)
    (hwas : was = markedLive k p) : setChanged k old was p = (recordEvent k p).handOn := by
  have hraised : lossRaised k old p = p := by
    refine if_neg ?_
    rw [isSetLoss, hc]
    cases p.setImage[k].closed <;> simp
  have hbeside : Beside p (recordEvent k p).handOn :=
    units_handOn (units_beside p) _ (units_recordEvent (units_beside p) k (.refl p))
  have hmarked : (match setIsland (recordEvent k p).handOn k with
      | some i => handMarking i was (recordEvent k p).handOn
      | none => (recordEvent k p).handOn) = (recordEvent k p).handOn := by
    have hisland : setIsland (recordEvent k p).handOn k = setIsland p k := by
      simp only [setIsland, islandOf, setCfg, hbeside.cfg, hbeside.islandMap]
    rw [hisland]
    split
    · next i hi =>
      have hlive : islandLive (recordEvent k p).handOn i = was := by
        rw [islandLive_congr hbeside.cfg hbeside.setImage hbeside.islandMap, hwas, markedLive, hi]
      unfold handMarking
      rw [hlive]
      cases was <;> rfl
    · rfl
  have hrun : setChanged k old was p
      = if old.closed == p.setImage[k].closed then (match setIsland (recordEvent k (lossRaised k old p)).handOn k with
          | some i => handMarking i was (recordEvent k (lossRaised k old p)).handOn
          | none => (recordEvent k (lossRaised k old p)).handOn)
        else shedBreakerChange k (isSetLoss p k old.closed) _ := rfl
  rw [hrun, hraised, hmarked, hc]
  exact if_pos (beq_self_eq_true _)

/-! ### What becomes of the set -/

/-- A state in which neither a request of the Reserve Unit nor a marking moves a set. -/
def Lasting (st : SetState) : Prop := st ≠ .standby ∧ st ≠ .rampOut ∧ st ≠ .synchronising

theorem lasts_of {r : SeqRecord} (hs : r.state = some st) (h : Lasting st) : Lasts k (· = r) := by
  obtain ⟨hstandby, hrampOut, hsync⟩ := h
  refine lasts_settled ⟨?_, ?_⟩ ?_ <;> rw [hs]
  · exact fun h => hstandby (Option.some.inj h)
  · exact fun h => hrampOut (Option.some.inj h.1)
  · exact fun h => hsync (Option.some.inj h)

/-- The record's event leaves the set in a lasting state: what follows leaves it there. -/
theorem lands {q : Part} (hq : q = setChanged k p.setImage[k] (markedLive k p) (recorded k running closed kw trip p))
    {r : SeqRecord} (hr : (recordEvent k (judged k running closed kw trip p)).part.seq[k] = r) (hs : r.state = some st)
    (hl : Lasting st) : q.seq[k] = r := by
  rw [hq]
  exact (lasts_of hs hl).setChanged hr

theorem lands_state {q : Part} (hq : q = setChanged k p.setImage[k] (markedLive k p) (recorded k running closed kw trip p))
    (hs : (recordEvent k (judged k running closed kw trip p)).part.seq[k].state = some st) (hl : Lasting st) :
    q.seq[k].state = some st := by
  rw [lands hq rfl hs hl]
  exact hs

theorem lands_flag {q : Part} (hq : q = setChanged k p.setImage[k] (markedLive k p) (recorded k running closed kw trip p))
    {e : EventKind} (h : Flagged (recordEvent k (judged k running closed kw trip p)).part e) : Flagged q e := by
  rw [hq]
  exact setChanged_keeps (units_flag e) h

theorem lasting_rampIn : Lasting .rampIn := ⟨nofun, nofun, nofun⟩

theorem lasting_tripped : Lasting .tripped := ⟨nofun, nofun, nofun⟩

theorem lasting_blocked : Lasting .blocked := ⟨nofun, nofun, nofun⟩

/-- A STARTING set that is reported running, its breaker still open (R47, R48, R56). -/
theorem started_moves {q : Part} (hq : q = setChanged k p.setImage[k] (markedLive k p) (recorded k true false kw false p))
    (hc : setConfigured p k = true) (hs : p.seq[k].state = some .starting) (hopen : p.setImage[k].closed = false) :
    (Room p → q.seq[k].state = some .synchronising)
    ∧ (32 ≤ p.normal.length ∧ queuedFor p (.set k) = none →
      q.seq[k].state = some .blocked ∧ q.seq[k].timer = none ∧ Flagged q .syncFail ∧ Flagged q .orderQueueFull) := by
  obtain ⟨w, hw⟩ : ∃ w, w = recorded k true false kw false p := ⟨_, rfl⟩
  have himage : w.setImage[k].running = true ∧ w.setImage[k].closed = false ∧ w.setImage[k].trip = false := by
    rw [hw, recorded_image]
    exact ⟨rfl, rfl, rfl⟩
  have hstate : w.seq[k].state = some .starting := by rw [hw]; exact hs
  have hlive : markedLive k p = markedLive k w := by
    have hbus : ∀ i j, onIslandBus w i j = onIslandBus p i j := fun i j => by
      have hclosed : w.setImage[j].closed = p.setImage[j].closed := by
        by_cases hj : j = k
        · rw [hj, himage.2.1, hopen]
        · rw [hw]
          exact congrArg SetImage.closed (Vector.getElem_set_ne k.isLt j.isLt fun h => hj (Fin.ext h.symm))
      simp only [onIslandBus, hclosed]
      rw [hw]
      rfl
    have hmarked : ∀ i, islandLive w i = islandLive p i := fun i => by simp only [islandLive, funext (hbus i)]
    have hisland : setIsland w k = setIsland p k := by rw [hw]; rfl
    unfold markedLive
    rw [hisland]
    split
    · exact (hmarked _).symm
    · rfl
  have hrun : q = (recordEvent k w).handOn := by
    rw [hq, ← hw]
    exact setChanged_sameBreaker (by rw [hopen, himage.2.1]) hlive
  rw [recordEvent_started hstate himage.1 himage.2.1 himage.2.2] at hrun
  obtain ⟨o, ho⟩ : ∃ o, o = ((sequenced w).on (stopSetTimer k)).enter k .synchronising := ⟨_, rfl⟩
  have hself : o.part.seq[k].state = some .synchronising := ho ▸ congrArg SeqRecord.state (enter_self _ k .synchronising)
  have hfields : o.part.cfg = p.cfg ∧ o.part.normal = p.normal ∧ o.part.urgent = p.urgent := by
    rw [ho, hw]
    exact ⟨rfl, rfl, rfl⟩
  have hconf : setConfigured o.part k = true := by
    rw [setConfigured, setCfg, hfields.1]
    exact hc
  rw [← ho] at hrun
  constructor
  · intro hroom
    obtain ⟨l, d, hl⟩ := handSync_queued hconf (by rw [Room, hfields.2.1]; exact hroom)
    have hsync : (o.handSync k).part.seq[k].state = some .synchronising := by rw [hl]; exact hself
    rw [hrun, handOn_settled ⟨by rw [hsync]; exact nofun, by rw [hsync]; exact nofun⟩]
    exact hsync
  · rintro ⟨hfull, hnone⟩
    obtain ⟨hblocked, htimer, hfail, hqueue⟩ := handSync_full hconf (by rw [hfields.2.1]; exact hfull)
      (by rw [queuedFor, hfields.2.1, hfields.2.2]; exact hnone)
    have hsettled := handOn_settled (blocked_settled hblocked)
    rw [hrun]
    exact ⟨(congrArg SeqRecord.state hsettled).trans hblocked, (congrArg SeqRecord.timer hsettled).trans htimer,
      handOn_flag hfail, handOn_flag hqueue⟩

/-- An OPENING set whose breaker has opened (R54, R56). -/
theorem opened_moves {q : Part} (hq : q = setChanged k p.setImage[k] (markedLive k p) (recorded k running false kw false p))
    (hc : setConfigured p k = true) (hs : p.seq[k].state = some .opening) :
    (Room p → q.seq[k].state = some .stopping)
    ∧ (32 ≤ p.normal.length ∧ queuedFor p (.set k) = none →
      q.seq[k].state = some .blocked ∧ q.seq[k].timer = none ∧ Flagged q .stopFail ∧ Flagged q .orderQueueFull) := by
  obtain ⟨x, hx⟩ : ∃ x, x = judged k running false kw false p := ⟨_, rfl⟩
  have hrun : recordEvent k x = (sequenced x).enterStopping k := by
    refine recordEvent_opened ?_ ?_ ?_
    · rw [hx, judged_seq]
      exact hs
    · rw [hx, judged_image]
    · rw [hx, judged_image]
  have hconf : setConfigured (sequenced x).part k = true := hx ▸ judged_configured hc
  constructor
  · intro hroom
    obtain ⟨hstate, -⟩ := enterStopping_queued hconf (hx ▸ judged_room hroom)
    exact lands_state hq (by rw [← hx, hrun]; exact hstate) ⟨nofun, nofun, nofun⟩
  · intro hfull
    have hfull' := hx ▸ judged_full (running := running) (closed := false) (kw := kw) (trip := false) hfull
    obtain ⟨hblocked, htimer, hfail, hqueue⟩ := enterStopping_full hconf hfull'.1 hfull'.2
    have hend := lands hq (by rw [← hx, hrun]) hblocked lasting_blocked
    refine ⟨?_, ?_, lands_flag hq ?_, lands_flag hq ?_⟩
    · rw [hend]
      exact hblocked
    · rw [hend]
      exact htimer
    · rw [← hx, hrun]
      exact hfail
    · rw [← hx, hrun]
      exact hqueue

/-- A STOPPING set that is reported down (R55). -/
theorem down_moves {q : Part} {d : Nat}
    (hq : q = setChanged k p.setImage[k] (markedLive k p) (recorded k false false kw false p))
    (hs : p.seq[k].state = some .stopping) (ht : p.seq[k].timer = some (.stop, d)) :
    (q.seq[k].state = some .standby ∨ q.seq[k].state = some .starting) ∧ q.seq[k].timer = none ∧ q.seq[k].origin = none := by
  obtain ⟨x, hx⟩ : ∃ x, x = judged k false false kw false p := ⟨_, rfl⟩
  have hrecord : x.seq[k] = p.seq[k] := by rw [hx, judged_seq]
  have himage := judged_image (k := k) (running := false) (closed := false) (kw := kw) (trip := false) (p := p)
  rw [← hx] at himage
  have hrun := recordEvent_down (p := x) (hrecord ▸ hs) (hrecord ▸ ht) (by rw [himage]) (by rw [himage]) (by rw [himage])
  have hself : (recordEvent k x).part.seq[k] = { x.seq[k] with
      state := some .standby, timer := none, origin := none, stayFrom := x.nextOrder } := by
    rw [hrun]
    exact standby_self (sequenced x) k
  have hoffered : Offered (recordEvent k x).part.seq[k] (recordEvent k x).part.seq[k] := by
    refine ⟨.inl ?_, ?_, rfl, rfl, rfl⟩ <;> rw [hself]
  have hstands : Offered (recordEvent k x).part.seq[k] q.seq[k] := by
    rw [hx] at hoffered ⊢
    rw [hq]
    exact (lasts_offered k _).setChanged (k := k) hoffered
  obtain ⟨hstate, htimer, horigin, -, -⟩ := hstands
  refine ⟨hstate, htimer, horigin.trans ?_⟩
  rw [hself]

end

/-- Settles O14: by the state of the set, the event of the record, and what lasts through the changes handed on. -/
theorem setRecordMovesSet : Obligations.SetRecordMovesSet := by
  unfold Obligations.SetRecordMovesSet
  intro p k running closed kw trip st ha hc hs hchange full
  obtain ⟨q, hq⟩ : ∃ q, q = setChanged k p.setImage[k] (markedLive k p) (recorded k running closed kw trip p) := ⟨_, rfl⟩
  obtain ⟨x, hx⟩ : ∃ x, x = judged k running closed kw trip p := ⟨_, rfl⟩
  have hstate : x.seq[k].state = some st := by rw [hx, judged_seq]; exact hs
  have hrecord : x.seq[k] = p.seq[k] := by rw [hx, judged_seq]
  have himage : x.setImage[k] =
      { running := running, closed := closed, kw := kw, trip := trip, fresh := p.setImage[k].fresh.accept 400 p.clock } := by
    rw [hx]
    exact judged_image
  have hrunning : x.setImage[k].running = running := by rw [himage]
  have hclosed : x.setImage[k].closed = closed := by rw [himage]
  have htrip : x.setImage[k].trip = trip := by rw [himage]
  have hbeside : Beside (recorded k running closed kw trip p) q :=
    hq ▸ units_setChanged (units_beside _) k _ _ (.refl _)
  have hland : ∀ {st'}, (recordEvent k x).part.seq[k].state = some st' → Lasting st' → q.seq[k].state = some st' :=
    fun h hl => lands_state hq (hx ▸ h) hl
  have hkeep : recordEvent k x = sequenced x → Lasting st → q.seq[k] = p.seq[k] := fun h hl =>
    lands hq (by rw [← hx, h]; exact hrecord) hs hl
  have htrips : (Protected st ∨ st = .opening) → closed = false → trip = true → q.seq[k].state = some .tripped :=
    fun hst h h' => hland (recordEvent_trips hstate hst (hclosed.trans h) (htrip.trans h')) lasting_tripped
  have hcloses : (Protected st ∨ st = .tripped) → closed = true → q.seq[k].state = some .rampIn := fun hst h =>
    hland (recordEvent_closes hstate hst (hclosed.trans h)) lasting_rampIn
  have htrippedOff : (st = .rampIn ∨ st = .onBus ∨ st = .rampOut) → closed = false →
      q.seq[k].state = some .tripped ∧ q.seq[k].timer = none ∧ q.seq[k].origin = none := fun hst h => by
    have hrun := recordEvent_trippedOff hstate hst (hclosed.trans h)
    obtain ⟨h1, h2, h3⟩ := trippedOff_self (sequenced x) k
    rw [← hrun] at h1 h2 h3
    have hend := lands hq (by rw [← hx]) h1 lasting_tripped
    rw [hend]
    exact ⟨h1, h2, h3⟩
  refine ⟨q, hq.trans (setStatus_changed hchange).symm, hbeside.setImage, hbeside.desk, hbeside.cfg, hbeside.clock, hbeside.map,
    hbeside.sameLine, hbeside.consumerImage, congrArg (fun i => i.2.2.1) hbeside.images,
    congrArg (fun i => i.2.2.2) hbeside.images, fun j hj hset hsync => ?_, fun hwas hopen hr ho => ?_, ?_⟩
  · have hothers : (recordEvent k x).part.seq[j] = p.seq[j] := by
      rw [(recordEvent_steps k x).others j hj, hx, judged_seq]
    rw [hx] at hothers
    rw [hq]
    exact (lasts_settled hset hsync).setChanged hothers
  · subst hopen
    have hloss : Flagged x .setLoss := hx ▸ judged_loss ha.2 hc hs hwas ⟨hr, ho⟩
    exact lands_flag hq (hx ▸ (recordEvent_steps k x).flag _ hloss)
  · cases st with
    | starting =>
      refine ⟨fun hr hc' ht hopen hroom => ?_, fun hr hc' ht hopen hfull => ?_, hcloses (.inl (.inr (.inr (.inr (.inl rfl))))),
        htrips (.inl (.inr (.inr (.inr (.inl rfl)))))⟩
      · subst hr hc' ht
        exact (started_moves hq hc hs hopen).1 hroom
      · subst hr hc' ht
        exact (started_moves hq hc hs hopen).2 hfull
    | synchronising =>
      refine ⟨fun h => ?_, htrips (.inl (.inr (.inr (.inr (.inr rfl)))))⟩
      have hrun := recordEvent_synchronised hstate (hclosed.trans h)
      obtain ⟨h1, h2, h3⟩ := synchronised_self (sequenced x) k
      rw [← hrun] at h1 h2 h3
      have hend := lands hq (by rw [← hx]) h1 lasting_rampIn
      rw [hend]
      exact ⟨h1, h2, h3⟩
    | rampIn => exact htrippedOff (.inl rfl)
    | onBus => exact htrippedOff (.inr (.inl rfl))
    | rampOut => exact htrippedOff (.inr (.inr rfl))
    | opening =>
      refine ⟨fun hc' ht hroom => ?_, fun hc' ht hfull => ?_, htrips (.inr rfl),
        fun h => hkeep (recordEvent_stillClosed hstate (hclosed.trans h)) ⟨nofun, nofun, nofun⟩⟩
      · subst hc' ht
        exact (opened_moves hq hc hs).1 hroom
      · subst hc' ht
        exact (opened_moves hq hc hs).2 hfull
    | standby =>
      refine ⟨hcloses (.inl (.inl rfl)), htrips (.inl (.inl rfl)), fun hc' ht hr => hland ?_ lasting_blocked⟩
      rw [recordEvent_strayRun hstate (hrunning.trans hr) (hclosed.trans hc') (htrip.trans ht), enter_self]
    | stopping =>
      refine ⟨hcloses (.inl (.inr (.inl rfl))), htrips (.inl (.inr (.inl rfl))), fun hc' ht hr htimer => ?_,
        fun hc' ht h => hkeep (recordEvent_waits hstate (hclosed.trans hc') (htrip.trans ht) ?_) ⟨nofun, nofun, nofun⟩⟩
      · subst hc' ht hr
        obtain ⟨d, hd⟩ := htimer
        exact down_moves hq hs hd
      · rw [hrecord, hrunning]
        exact h
    | blocked => exact ⟨hcloses (.inl (.inr (.inr (.inl rfl)))), htrips (.inl (.inr (.inr (.inl rfl))))⟩
    | tripped => exact hcloses (.inr rfl)
    | localRun => exact hkeep (recordEvent_local hstate) ⟨nofun, nofun, nofun⟩

end Sys2Proof.Proofs
end

section
/-! Dead islands (R112, R119, R153): what the clearing of an island and the end of its heavy queue make of the entries. -/

namespace Sys2Proof.Proofs

open Sys2Proof.Machine Sys2Proof.Claims

/-! ### Denials and entries (R29, R114, R161) -/

section

variable {p : Part} {c : ConsumerNo}

theorem entry_get {q : Part} (h : q.entry = p.entry) (c : ConsumerNo) : q.entry[c] = p.entry[c] := by rw [h]

theorem onEntry_other {c' : ConsumerNo} (h : c ≠ c') (f : EntryRecord → EntryRecord) (p : Part) :
    (onEntry c' f p).entry[c] = p.entry[c] := modifyAt_other p.entry c' c f h.symm

theorem onEntry_self (c : ConsumerNo) (f : EntryRecord → EntryRecord) (p : Part) :
    (onEntry c f p).entry[c] = f p.entry[c] := modifyAt_self _ _ _

theorem entryRestored_other {c' : ConsumerNo} (h : c ≠ c') (out : OrderOutcome) (p : Part) :
    (entryRestored c' out p).entry[c] = p.entry[c] := by
  have hshed : ∀ q : Part, (enterEntry c' .shed q).entry[c] = q.entry[c] := fun q => onEntry_other h _ q
  have hfailed : (enterEntry c' .shed (onEntry c' (fun r => { r with restoreFailed := true })
      (occur .restoreFail (.consumer c') p))).entry[c] = p.entry[c] := by
    rw [hshed, onEntry_other h, occur_entry]
  unfold entryRestored
  split
  · rw [occur_entry, enterEntry, onEntry_other h, removeRecord_entry]
  · exact hfailed
  · exact hfailed
  all_goals exact hshed p

/-- The outcome of a restore order changes no entry but that of its consumer, and that only while it waits for it (R161). -/
theorem restoreOutcome_entry (c' : ConsumerNo) (out : OrderOutcome) (h : p.entry[c].state ≠ some .restorePending) :
    (restoreOutcome c' out p).entry[c] = p.entry[c] := by
  unfold restoreOutcome
  split
  · next hpending =>
    have hne : c ≠ c' := by
      rintro rfl
      exact h (entryIs_iff.1 hpending)
    exact (entry_get ((rebuildFor_entry c' _).trans (endStepFor_entry c' _)) c).trans (entryRestored_other hne out p)
  · exact entry_get (endStepFor_entry c' p) c

theorem grantLost_entry (o : Order) (p : Part) : (grantLost o p).entry = p.entry :=
  grants_grantLost (grants_entry p.entry) o rfl

theorem handHeavy_entry (c' : ConsumerNo) (a : ConsumerOrder) (h : p.entry[c].state ≠ some .restorePending) :
    (handHeavy c' a p).part.entry[c] = p.entry[c] := by
  obtain ⟨o, ho⟩ : ∃ o, o = handOver (.consumer c' a) false p := ⟨_, rfl⟩
  have hentry : o.part.entry = p.entry := ho ▸ handOver_entry _ _ _
  unfold handHeavy
  rw [← ho]
  dsimp only
  split
  · split
    · exact entry_get ((handOver_entry _ _ _).trans hentry) c
    · split
      · exact (restoreOutcome_entry c' .replaced (by rw [hentry]; exact h)).trans (entry_get hentry c)
      · exact entry_get ((grantLost_entry _ _).trans hentry) c
  · exact entry_get hentry c

theorem deny_entry (c' : ConsumerNo) (h : p.entry[c].state ≠ some .restorePending) :
    (deny c' p).entry[c] = p.entry[c] := by
  rw [deny, occur_entry]
  exact handHeavy_entry c' .deny h

theorem emptyHeavy_entry (i : IslandNo) (h : p.entry[c].state ≠ some .restorePending) :
    (emptyHeavy i p).entry[c] = p.entry[c] := by
  unfold emptyHeavy
  extract_lets queue emptied
  refine List.foldlRecOn (motive := fun q : Part => q.entry[c] = p.entry[c]) queue _ rfl fun q hq r _ => ?_
  rw [deny_entry r.consumer (by rw [hq]; exact h)]
  exact hq

theorem reserveDead_entry (i : IslandNo) (h : p.entry[c].state ≠ some .restorePending) :
    (reserveDead i p).entry[c] = p.entry[c] := by
  have hcleared := emptyHeavy_entry (p := onReserve i (fun r => { r with timer := none, stoppingSet := none }) p) i h
  have hstart : ∀ q : Part, (blackoutStart i q).handOn.entry = q.entry := fun q =>
    (tests_handOn (grants_entry _).toTests _ rfl).trans ((Asked.refl q).blackoutStart i).entry
  unfold reserveDead
  rw [hstart]
  exact hcleared

end

/-! ### Shed orders and entries (R143) -/

section

variable {p : Part} {c : ConsumerNo} {e : EntryConfig} {a : ConsumerOrder} {u : Bool} {cause : ShedCause} {o : ShedHanded}

theorem displaced_other {c' : ConsumerNo} (h : c ≠ c') (old : Option Order) (p : Part) :
    (displaced c' old p).entry[c] = p.entry[c] := by
  unfold displaced
  split
  · split
    · unfold restoreOutcome
      split
      · exact (entry_get ((rebuildFor_entry c' _).trans (endStepFor_entry c' _)) c).trans (entryRestored_other h .replaced p)
      · exact entry_get (endStepFor_entry c' p) c
    · rfl
  · rfl

/-- A shed order changes no entry but its own. -/
theorem hand_other (h : c ≠ e.consumer) : (o.hand e a u cause).part.entry[c] = o.part.entry[c] := by
  unfold ShedHanded.hand
  extract_lets relief handed
  have hentry : handed.part.entry = o.part.entry := handOver_entry _ _ _
  split
  · refine (congrArg (fun v : Vector EntryRecord 48 => v[c]) (pendShed_entry _ _ _ _)).trans ?_
    refine (Vector.getElem_set_ne e.consumer.isLt c.isLt fun h' => h (Fin.ext h'.symm)).trans ?_
    exact (displaced_other h handed.replaced handed.part).trans (entry_get hentry c)
  · exact entry_get hentry c

/-- What a dead island's clearing may make of an entry: it is as it was, or was CONNECTED and is shed with cause DEAD_BUS
(R153). -/
def Cleared (r r' : EntryRecord) : Prop :=
  r' = r ∨ (r.state = some .connected ∧ r'.state = some .shedPending ∧ r'.cause = some .deadBus)

theorem Cleared.waits {r r' : EntryRecord} (h : Cleared r r') (hr : r.state ≠ some .restorePending) :
    r'.state ≠ some .restorePending := by
  rcases h with rfl | ⟨-, h, -⟩
  · exact hr
  · rw [h]
    exact nofun

theorem Cleared.trans {r r' r'' : EntryRecord} (h : Cleared r r') (h' : Cleared r' r'') : Cleared r r'' := by
  rcases h with rfl | ⟨hr, hs, hd⟩
  · exact h'
  · rcases h' with rfl | ⟨hc, -, -⟩
    · exact .inr ⟨hr, hs, hd⟩
    · exact nomatch hs.symm.trans hc

/-- A DEAD_BUS order for an entry that was CONNECTED. -/
theorem hand_cleared {r : EntryRecord} (hwas : c = e.consumer → r.state = some .connected) (h : Cleared r o.part.entry[c]) :
    Cleared r (o.hand e a u .deadBus).part.entry[c] := by
  by_cases hne : c = e.consumer
  · subst hne
    cases hq : (handOver (.consumer e.consumer a) u o.part).queued with
    | none =>
      rw [hand_unqueued hq]
      dsimp only
      rw [handOver_entry]
      exact h
    | some s =>
      refine .inr ⟨hwas rfl, ?_⟩
      rw [hand_queued hq]
      dsimp only
      rw [pendShed_entry]
      have hself := Vector.getElem_set_self (xs := (displaced e.consumer
        (handOver (.consumer e.consumer a) u o.part).replaced (handOver (.consumer e.consumer a) u o.part).part).entry)
        (x := pendedEntry (displaced e.consumer (handOver (.consumer e.consumer a) u o.part).replaced
          (handOver (.consumer e.consumer a) u o.part).part).entry[e.consumer] (shedRelief o.part e a) .deadBus)
        e.consumer.isLt
      exact ⟨(congrArg EntryRecord.state hself).trans rfl, (congrArg EntryRecord.cause hself).trans rfl⟩
  · rw [hand_other hne]
    exact h

end

/-! ### Dead-island clearing (R153) -/

section

variable {p : Part} {c : ConsumerNo} {i : IslandNo}

theorem abandonRestore_entry (i : IslandNo) (h : p.entry[c].state ≠ some .restorePending) :
    (abandonRestore i p).entry[c] = p.entry[c] := by
  unfold abandonRestore
  extract_lets ctx withdrawn
  change withdrawn.entry[c] = p.entry[c]
  unfold withdrawn
  split
  · unfold withdrawRestore
    split
    · exact restoreOutcome_entry (p := dropQueued (.consumer _) p) _ .withdrawn h
    · rfl
  · rfl

theorem discardSelections_entry (l : List SetNo) (p : Part) : (l.foldl (fun q k => discardSelection k q) p).entry = p.entry :=
  fold_keeps (I := fun q : Part => q.entry = p.entry) _ _ (fun _ _ h => h) rfl

theorem rebuild_entry (i : IslandNo) (p : Part) : (rebuild i p).entry = p.entry := ((Noted.refl p).rebuild i).entry

theorem clearDead_entry (i : IslandNo) (h : p.entry[c].state ≠ some .restorePending) :
    Cleared p.entry[c] (clearDead i p).entry[c] := by
  unfold clearDead
  extract_lets reset handed members
  have hreset : reset.entry[c] = p.entry[c] := abandonRestore_entry (p := onShed i (fun _ => ShedContext.fresh) p) i h
  have hhanded : Cleared p.entry[c] handed.part.entry[c] := by
    refine List.foldlRecOn (motive := fun o : ShedHanded => Cleared p.entry[c] o.part.entry[c]) _ _ (.inl ?_)
      fun o ho e he => hand_cleared ?_ ho
    · exact hreset
    · rintro rfl
      have hc := (List.mem_filter.mp he).2
      simp only [clearedWhenDead, Bool.and_eq_true] at hc
      rw [← hreset]
      exact entryIs_iff.1 hc.1.2
  have hrest := (grantsLost_entry handed _).trans ((rebuild_entry i _).trans (discardSelections_entry members handed.part))
  rw [entry_get hrest c]
  exact hhanded

theorem deadIsland_entry (i : IslandNo) (h : p.entry[c].state ≠ some .restorePending) :
    Cleared p.entry[c] (deadIsland i p).entry[c] := by
  have hcleared := clearDead_entry i h
  unfold deadIsland
  rw [reserveDead_entry i (hcleared.waits h)]
  exact hcleared

end

end Sys2Proof.Proofs
end

section
/-! The end of ACQUIRE (R9, R21, R61, R126, R189): the objects that go STALE, the states derived, and what the opening of the
islands can still do to them. -/

namespace Sys2Proof.Proofs

open Sys2Proof.Machine Sys2Proof.Claims

/-! ### Objects still UNQUALIFIED (R9) -/

/-- A field that a change leaves alone. -/
theorem modifyAt_field {α β : Type} {n : Nat} (v : Vector α n) (i j : Fin n) {g : α → α} (x : α → β)
    (hx : ∀ a, x (g a) = x a) :
    x (modifyAt v i g)[j] = x v[j] := by
  refine (congrArg x (modifyAt_get v i j g)).trans ?_
  split
  · exact hx _
  · rfl

/-- The part after objects have gone STALE: what the derivation of states and of the island map reads is as it was. -/
structure Staled (p q : Part) : Prop where
  cfg : q.cfg = p.cfg
  clock : q.clock = p.clock
  phase : q.phase = p.phase
  line : q.fieldRx = p.fieldRx ∧ q.feedback = p.feedback ∧ q.fieldTx = p.fieldTx
  sets : ∀ k : SetNo, q.setImage[k].running = p.setImage[k].running ∧ q.setImage[k].closed = p.setImage[k].closed
    ∧ q.setImage[k].trip = p.setImage[k].trip
  consumers : ∀ c : ConsumerNo, q.consumerImage[c].closed = p.consumerImage[c].closed
  ties : ∀ t : TieNo, q.tieImage[t].closed = p.tieImage[t].closed

namespace Staled

variable {p q : Part}

theorem refl (p : Part) : Staled p p :=
  ⟨rfl, rfl, rfl, ⟨rfl, rfl, rfl⟩, fun _ => ⟨rfl, rfl, rfl⟩, fun _ => rfl, fun _ => rfl⟩

theorem trans {r : Part} (h : Staled p q) (h' : Staled q r) : Staled p r where
  cfg := h'.cfg.trans h.cfg
  clock := h'.clock.trans h.clock
  phase := h'.phase.trans h.phase
  line := ⟨h'.line.1.trans h.line.1, h'.line.2.1.trans h.line.2.1, h'.line.2.2.trans h.line.2.2⟩
  sets k := ⟨(h'.sets k).1.trans (h.sets k).1, (h'.sets k).2.1.trans (h.sets k).2.1, (h'.sets k).2.2.trans (h.sets k).2.2⟩
  consumers c := (h'.consumers c).trans (h.consumers c)
  ties t := (h'.ties t).trans (h.ties t)

/-- A freshness record alone has changed. -/
theorem onFresh (o : ObjectRef) (f : Fresh → Fresh) (p : Part) : Staled p (Machine.onFresh o f p) := by
  cases o with
  | set k => exact ⟨rfl, rfl, rfl, ⟨rfl, rfl, rfl⟩, fun j => ⟨modifyAt_field _ _ _ SetImage.running fun _ => rfl,
      modifyAt_field _ _ _ SetImage.closed fun _ => rfl, modifyAt_field _ _ _ SetImage.trip fun _ => rfl⟩, fun _ => rfl, fun _ => rfl⟩
  | consumer c => exact ⟨rfl, rfl, rfl, ⟨rfl, rfl, rfl⟩, fun _ => ⟨rfl, rfl, rfl⟩,
      fun j => modifyAt_field _ _ _ ConsumerImage.closed fun _ => rfl, fun _ => rfl⟩
  | meter s => exact ⟨rfl, rfl, rfl, ⟨rfl, rfl, rfl⟩, fun _ => ⟨rfl, rfl, rfl⟩, fun _ => rfl, fun _ => rfl⟩
  | tie t => exact ⟨rfl, rfl, rfl, ⟨rfl, rfl, rfl⟩, fun _ => ⟨rfl, rfl, rfl⟩, fun _ => rfl,
      fun j => modifyAt_field _ _ _ TieImage.closed fun _ => rfl⟩

theorem goStale (o : ObjectRef) (p : Part) : Staled p (Machine.goStale o p) := by
  refine (onFresh o (fun _ => Fresh.gone) p).trans ?_
  obtain ⟨v, h, -, -⟩ := goStale_eq o p
  obtain ⟨f, r, t, n, e⟩ := occur_eq .objectStale (objectNamed o) (Machine.onFresh o (fun _ => Fresh.gone) p)
  rw [h, e]
  exact ⟨rfl, rfl, rfl, ⟨rfl, rfl, rfl⟩, fun _ => ⟨rfl, rfl, rfl⟩, fun _ => rfl, fun _ => rfl⟩

theorem configured (h : Staled p q) (o : ObjectRef) : objectConfigured q o = objectConfigured p o := by
  cases o <;> simp only [objectConfigured, setConfigured, setCfg, consumerConfigured, entryCfg, meterConfigured, tieConfigured,
    h.cfg]

end Staled

theorem staleRemaining_staled (p : Part) : Staled p (staleRemaining p) :=
  fold_keeps (I := Staled p) _ _ (fun q o h => by
    split
    · exact h.trans (.goStale o q)
    · exact h) (.refl p)

theorem goStale_images (o : ObjectRef) (p : Part) : SameImages (onFresh o (fun _ => Fresh.gone) p) (goStale o p) := by
  obtain ⟨v, h, -, -⟩ := goStale_eq o p
  obtain ⟨f, r, t, n, e⟩ := occur_eq .objectStale (objectNamed o) (onFresh o (fun _ => Fresh.gone) p)
  rw [h, e]
  rfl

/-- Freshness of an object at the end of ACQUIRE (R9). -/
def freshAtEnd (p : Part) (o : ObjectRef) : Fresh :=
  if objectConfigured p o = true ∧ (freshOf p o).state = .unqualified then Fresh.gone else freshOf p o

theorem staleRemaining_fresh (p : Part) (o : ObjectRef) : freshOf (staleRemaining p) o = freshAtEnd p o := by
  have hstep : ∀ (l : List ObjectRef) (q : Part), Staled p q →
      (o ∈ l ∧ freshOf q o = freshOf p o ∨ freshOf q o = freshAtEnd p o) →
      freshOf (l.foldl (fun q o => if objectConfigured q o && (freshOf q o).state == .unqualified then goStale o q else q) q) o
        = freshAtEnd p o := by
    intro l
    induction l with
    | nil => exact fun q _ h => h.resolve_left fun h => nomatch h.1
    | cons a l ih =>
      intro q hq h
      rw [List.foldl_cons]
      refine ih _ ?_ ?_
      · split
        · exact hq.trans (.goStale a q)
        · exact hq
      · by_cases ha : o = a
        · subst ha
          right
          simp only [Bool.and_eq_true, beq_iff_eq, hq.configured]
          split
          · next hc =>
            rw [freshOf_congr (goStale_images o q), freshOf_onFresh_self]
            rcases h with ⟨-, h⟩ | h
            · rw [h] at hc
              exact (if_pos hc).symm
            · rw [h, freshAtEnd] at hc
              split at hc
              · exact nomatch hc.2
              · contradiction
          · next hc =>
            rcases h with ⟨-, h⟩ | h
            · rw [h] at hc ⊢
              exact (if_neg hc).symm
            · exact h
        · have hsame : freshOf (if objectConfigured q a && (freshOf q a).state == .unqualified then goStale a q else q) o
              = freshOf q o := by
            split
            · rw [freshOf_congr (goStale_images a q), freshOf_onFresh_other _ q ha]
            · rfl
          rw [hsame]
          exact h.imp_left fun h => ⟨(List.mem_cons.mp h.1).resolve_left ha, h.2⟩
  exact hstep allObjects p (.refl p) (.inl ⟨mem_allObjects o, rfl⟩)

/-! ### Derived states (R61, R126) -/

/-- The record of a set whose state has been derived from these values (R61). -/
def DerivedFrom (p : Part) (k : SetNo) (r : SeqRecord) : Prop := r.state = some (derived p k) ∧ r.timer = none

section

variable {p q : Part} {k : SetNo} {c : ConsumerNo}

theorem derived_congr (hcfg : q.cfg = p.cfg) (himage : ∀ k : SetNo, q.setImage[k].running = p.setImage[k].running
    ∧ q.setImage[k].closed = p.setImage[k].closed ∧ q.setImage[k].trip = p.setImage[k].trip) (k : SetNo) :
    derived q k = derived p k := by
  obtain ⟨hrunning, hclosed, htrip⟩ := himage k
  rw [derived, hcfg, hclosed, htrip, hrunning, derived]

theorem deriveStates_seq (h : setConfigured p k = true) : DerivedFrom p k (deriveStates p).seq[k] := by
  have hstep : ∀ (l : List SetNo) (q : Part), q.cfg = p.cfg ∧ q.setImage = p.setImage → (k ∈ l ∨ DerivedFrom p k q.seq[k]) →
      DerivedFrom p k (l.foldl (fun q k => (deriveSet k q).part) q).seq[k] := by
    intro l
    induction l with
    | nil => exact fun q _ h => h.resolve_left nofun
    | cons a l ih =>
      intro q hq h
      rw [List.foldl_cons]
      refine ih _ ?_ ?_
      · obtain ⟨v, hv⟩ := deriveSet_eq a q
        rw [hv]
        exact hq
      · by_cases ha : k = a
        · subst ha
          obtain ⟨hstate, htimer, -⟩ := deriveSet_self k q
          right
          refine ⟨hstate.trans (congrArg some ?_), htimer⟩
          rw [derivedState_eq, derived_congr hq.1 fun j => by rw [hq.2]; exact ⟨rfl, rfl, rfl⟩]
        · rw [(deriveSet_steps a q).others k ha]
          exact h.imp_left fun h => (List.mem_cons.mp h).resolve_left ha
  unfold deriveStates
  extract_lets sets
  have hseq : ((allConsumers.filter (consumerConfigured p)).foldl (fun q c => deriveEntry c q) sets).seq = sets.seq :=
    fold_keeps (I := fun q : Part => q.seq = sets.seq) _ _ (fun _ _ h => h) rfl
  rw [hseq]
  exact hstep _ p ⟨rfl, rfl⟩ (.inl (List.mem_filter.mpr ⟨mem_allSets k, h⟩))

/-- The state of an entry that is derived from its breaker (R126). -/
def entryDerived (p : Part) (c : ConsumerNo) : EntryState := if p.consumerImage[c].closed then .connected else .openExternal

theorem deriveStates_entry (h : consumerConfigured p c = true) :
    (deriveStates p).entry[c].state = some (entryDerived p c) := by
  have hstep : ∀ (l : List ConsumerNo) (q : Part), q.consumerImage = p.consumerImage →
      (c ∈ l ∨ q.entry[c].state = some (entryDerived p c)) →
      (l.foldl (fun q c => deriveEntry c q) q).entry[c].state = some (entryDerived p c) := by
    intro l
    induction l with
    | nil => exact fun q _ h => h.resolve_left nofun
    | cons a l ih =>
      intro q hq h
      rw [List.foldl_cons]
      refine ih _ hq ?_
      by_cases ha : c = a
      · subst ha
        right
        rw [deriveEntry, enterEntry, onEntry_self, hq]
        rfl
      · have hsame : (deriveEntry a q).entry[c] = q.entry[c] := onEntry_other ha _ q
        rw [hsame]
        exact h.imp_left fun h => (List.mem_cons.mp h).resolve_left ha
  unfold deriveStates
  extract_lets sets
  refine hstep _ sets ?_ (.inl (List.mem_filter.mpr ⟨mem_allConsumers c, h⟩))
  exact fold_keeps (I := fun q : Part => q.consumerImage = p.consumerImage) _ _ (fun q k hq => by
    obtain ⟨v, hv⟩ := deriveSet_eq k q
    rw [hv]
    exact hq) rfl

end

/-! ### The opening of the islands (R21) -/

/-- What has been derived, the tables' building and the islands' opening. -/
def openedIslands (p : Part) : Part :=
  let derived := deriveStates p
  let tabled := (islandNames derived).foldl (fun q i => rebuild i q) derived
  (islandNames tabled).foldl (fun q i => openIsland i q) tabled

theorem endAcquire_opened (p : Part) :
    endAcquire p = { openedIslands (buildIslands (staleRemaining p)) with phase := .run, acquireAt := none } := rfl

section

variable {p : Part} {c : ConsumerNo} {k : SetNo}

/-- What the derived states have, and the hand-on keeps, the opened islands have. -/
theorem openedIslands_keeps {I : Part → Prop} (h : Handing I) (hp : I (deriveStates p)) : I (openedIslands p) :=
  fold_keeps _ _ (fun _ i hq => handing_openIsland h i hq) (fold_keeps _ _ (fun _ i hq => calm_rebuild h.toCalm i hq) hp)

theorem openedIslands_beside (p : Part) : Beside p (openedIslands p) := by
  refine openedIslands_keeps (units_beside p).toHanding ?_
  obtain ⟨v, w, h⟩ := deriveStates_eq p
  rw [h]
  exact (Beside.refl p).of_eq rfl rfl rfl rfl rfl

theorem openedIslands_settled (h : setConfigured p k = true) (hs : derived p k ≠ .standby) :
    (openedIslands p).seq[k].state = some (derived p k) := by
  have hstate := (deriveStates_seq h).1
  rw [openedIslands_keeps (handing_quiet k _ (derivedState_settled (p := p) (k := k) (r := (deriveStates p).seq[k])
    (by rw [derivedState_eq]; exact hstate) (by rw [derivedState_eq]; exact hs))) rfl]
  exact hstate

theorem openedIslands_standby (h : setConfigured p k = true) (hs : derived p k = .standby) :
    (openedIslands p).seq[k].state = some .standby ∨ (openedIslands p).seq[k].state = some .starting := by
  obtain ⟨hstate, htimer⟩ := deriveStates_seq h
  have hoffered : Offered (deriveStates p).seq[k] (deriveStates p).seq[k] := ⟨.inl (hs ▸ hstate), htimer, rfl, rfl, rfl⟩
  exact (openedIslands_keeps (handing_offered k _) hoffered).1

theorem openIsland_entry (i : IslandNo) (h : p.entry[c].state ≠ some .restorePending) :
    Cleared p.entry[c] (openIsland i p).entry[c] := by
  unfold openIsland
  split
  · exact .inl rfl
  · have hentry := occur_entry .deadIsland (.island i) p
    rw [← entry_get hentry c] at h ⊢
    exact deadIsland_entry i h

theorem openedIslands_entry (h : consumerConfigured p c = true) :
    Cleared (deriveStates p).entry[c] (openedIslands p).entry[c] := by
  have hstate : (deriveStates p).entry[c].state ≠ some .restorePending := by
    rw [deriveStates_entry h, entryDerived]
    split <;> exact nofun
  unfold openedIslands
  extract_lets d tabled
  have htabled : tabled.entry = d.entry := fold_keeps (I := fun q : Part => q.entry = d.entry) _ _
    (fun q i hq => (rebuild_entry i q).trans hq) rfl
  refine List.foldlRecOn (motive := fun q : Part => Cleared d.entry[c] q.entry[c]) _ _ (.inl (entry_get htabled c))
    fun q hq i _ => hq.trans (openIsland_entry i (hq.waits hstate))

end

/-- Settles O6: the objects that go STALE leave what is derived from, the derived states stand as the islands open. -/
theorem acquireTimerEndsAcquire : Obligations.AcquireTimerEndsAcquire := by
  unfold Obligations.AcquireTimerEndsAcquire
  intro p w d ha
  refine ⟨fun hphase hat => ?_, fun hphase => running_of_eq ha ?_⟩
  · obtain ⟨p1, hp1⟩ : ∃ q, q = staleRemaining (reach d p) := ⟨_, rfl⟩
    obtain ⟨p2, hp2⟩ : ∃ q, q = buildIslands p1 := ⟨_, rfl⟩
    have hstaled : Staled (reach d p) p1 := hp1 ▸ staleRemaining_staled _
    have hbuilt : Staled (reach d p) p2 := by
      refine hstaled.trans ?_
      rw [hp2]
      exact ⟨rfl, rfl, rfl, ⟨rfl, rfl, rfl⟩, fun _ => ⟨rfl, rfl, rfl⟩, fun _ => rfl, fun _ => rfl⟩
    have hbeside := openedIslands_beside p2
    have hrun : acquireExpired p = { openedIslands p2 with phase := .run, acquireAt := none } := by
      rw [hp2, hp1, ← endAcquire_opened, acquireExpired, hphase, hat]
    have hderived : ∀ k, derived p2 k = derived p k := fun k => derived_congr hbuilt.cfg hbuilt.sets k
    have hset : ∀ k, setConfigured p k = true → setConfigured p2 k = true := fun k hk =>
      (hbuilt.configured (.set k)).trans hk
    have hconsumer : ∀ c, consumerConfigured p c = true → consumerConfigured p2 c = true := fun c hc =>
      (hbuilt.configured (.consumer c)).trans hc
    have hjoins : Vector.ofFn (tieJoinsNow p1) = Vector.ofFn (tieJoinsNow p) := congrArg Vector.ofFn (funext fun t =>
      tieJoinsNow_congr p p1 t (congrArg Configuration.plant hstaled.cfg) (hstaled.ties t))
    have hmap := hbeside.map
    simp only [SameMap, Prod.mk.injEq] at hmap
    obtain ⟨-, -, hties, hislands⟩ := hmap
    have htx : (openedIslands p2).fieldTx = p.fieldTx := by
      rcases hbeside.line with h | ⟨-, h, -⟩
      · exact h.trans hbuilt.line.2.2
      · exact nomatch (h.symm.trans hbuilt.phase).trans hphase
    refine ⟨_, running_of_eq ha hrun, rfl, rfl, hbeside.clock.trans hbuilt.clock, hbeside.cfg.trans hbuilt.cfg, ?_,
      ⟨hbeside.fieldRx.trans hbuilt.line.1, hbeside.feedback.trans hbuilt.line.2.1, .inl htx⟩, fun o => ?_, ?_, ?_,
      fun k hk hs => ?_, fun k hk hs => ?_, fun c hc hopen => ?_, fun c hc hclosed => ?_⟩
    · rw [← hrun, acquireExpired, hphase, hat]
      exact opening_endAcquire (edits_desk p).toOpening (p := reach d p) ⟨rfl, .inl ⟨rfl, rfl⟩⟩
    · have himages : SameImages p1 { openedIslands p2 with phase := .run, acquireAt := none } := by
        have h := hbeside.images
        rw [hp2] at h ⊢
        exact h
      rw [freshOf_congr himages o, hp1, staleRemaining_fresh, freshAtEnd]
      rfl
    · refine (hties.trans ?_).trans hjoins
      rw [hp2]
      rfl
    · refine hislands.trans ?_
      rw [hp2, ← hjoins]
      rfl
    · rw [← hderived k] at hs ⊢
      exact openedIslands_settled (hset k hk) hs
    · rw [← hderived k] at hs
      exact openedIslands_standby (hset k hk) hs
    · have hentry := deriveStates_entry (hconsumer c hc)
      rw [entryDerived, hbuilt.consumers c, show (reach d p).consumerImage = p.consumerImage from rfl, hopen] at hentry
      rcases openedIslands_entry (hconsumer c hc) with h | ⟨h, -, -⟩
      · exact (congrArg EntryRecord.state h).trans hentry
      · exact nomatch h.symm.trans hentry
    · have hentry := deriveStates_entry (hconsumer c hc)
      rw [entryDerived, hbuilt.consumers c, show (reach d p).consumerImage = p.consumerImage from rfl, hclosed] at hentry
      rcases openedIslands_entry (hconsumer c hc) with h | ⟨-, h⟩
      · exact .inl ((congrArg EntryRecord.state h).trans hentry)
      · exact .inr h
  · rw [acquireExpired, hphase]

end Sys2Proof.Proofs
end

section
/-! The fast shed (R146 to R149): every consumer of a selection that is still CONNECTED in the island is shed, and the orders and
entries of the one outlast the shedding of the others. -/

namespace Sys2Proof.Proofs

open Sys2Proof.Machine Sys2Proof.Claims

/-! ### What a group of shed orders changes -/

namespace Handed

variable {p q : Part}

theorem dropQueued (h : Handed p q) (o : ObjectRef) : Handed p (Machine.dropQueued o q) :=
  h.trans ⟨⟨q.entry, q.selection, q.rawFlags, q.reports, q.supTx, q.allowance, q.islands, _, _, q.nextOrder, q.fieldTx, rfl⟩, rfl,
    Nat.le_refl _, fun _ h => h⟩

theorem abandonRestore (h : Handed p q) (i : IslandNo) : Handed p (Machine.abandonRestore i q) := by
  unfold Machine.abandonRestore
  extract_lets ctx withdrawn
  have hw : Handed p withdrawn := by
    unfold withdrawn
    split
    · unfold withdrawRestore
      split
      · unfold restoreOutcome
        split
        · exact (((h.dropQueued _).onEntry _ _).endStepFor _).rebuildFor _
        · exact (h.dropQueued _).endStepFor _
      · exact h
    · exact h
  exact hw.onIsland i fun _ => rfl

theorem takeAction {o : ShedHanded} (h : Handed p o.part) (i : IslandNo) (cause : ShedCause) (a : ShedAction) :
    Handed p (Machine.takeAction i cause o a).part := by
  unfold Machine.takeAction
  split
  · split
    · exact h.hand _ _ _ _
    · exact h
  · exact h

theorem takeActions {o : ShedHanded} (h : Handed p o.part) (i : IslandNo) (cause : ShedCause) (l : List ShedAction) :
    Handed p (l.foldl (Machine.takeAction i cause) o).part :=
  List.foldlRecOn (motive := fun o : ShedHanded => Handed p o.part) l _ h fun _ ho a _ => ho.takeAction i cause a

theorem offeredKw (h : Handed p q) {e : EntryConfig} (he : q.entry[e.consumer] = p.entry[e.consumer]) :
    Machine.offeredKw q e = Machine.offeredKw p e := by
  rw [Machine.offeredKw, he, h.consumerImage, Machine.offeredKw]

theorem entryInIsland (h : Handed p q) (i : IslandNo) (e : EntryConfig) :
    Machine.entryInIsland q i e = Machine.entryInIsland p i e := by
  rw [Machine.entryInIsland, inIsland, h.islandOf, Machine.entryInIsland, inIsland]

end Handed

/-! ### One action (R143, R146) -/

section

variable {p q : Part} {i : IslandNo} {a : ShedAction} {e : EntryConfig} {o : ShedHanded} {cause : ShedCause}

/-- The consumer of an action is CONNECTED in the island, under this entry. -/
def Sheddable (p : Part) (i : IslandNo) (a : ShedAction) (e : EntryConfig) : Prop :=
  entryCfg p a.consumer = some e ∧ entryInIsland p i e = true ∧ p.entry[a.consumer].state = some .connected

theorem Sheddable.consumer (h : Sheddable p i a e) : e.consumer = a.consumer := (entryCfg_some h.1).1

theorem Sheddable.configured (h : Sheddable p i a e) : consumerConfigured p a.consumer = true := by
  have hin := h.2.1
  rw [entryInIsland, Bool.and_eq_true] at hin
  unfold consumerConfigured
  rw [h.1]
  exact hin.1

/-- What other operations of the Shed Unit leave sheddable. -/
theorem Sheddable.handed (h : Sheddable p i a e) (hq : Handed p q) (he : q.entry[a.consumer] = p.entry[a.consumer]) :
    Sheddable q i a e :=
  ⟨(hq.entryCfg _).trans h.1, (hq.entryInIsland i e).trans h.2.1, (congrArg EntryRecord.state he).trans h.2.2⟩

theorem takeAction_taken (h : Sheddable o.part i a e) : takeAction i cause o a = o.hand e a.means.order true cause := by
  unfold takeAction
  rw [h.1]
  dsimp only
  rw [if_pos]
  rw [h.2.1, Bool.true_and]
  exact entryIs_iff.2 h.2.2

/-- An action is for one consumer's entry. -/
theorem takeAction_other {c : ConsumerNo} (h : c ≠ a.consumer) : (takeAction i cause o a).part.entry[c] = o.part.entry[c] := by
  unfold takeAction
  split
  · next e he =>
    split
    · exact hand_other (by rw [(entryCfg_some he).1]; exact h)
    · rfl
  · rfl

theorem displaced_queues (c : ConsumerNo) (old : Option Order) (p : Part) :
    (displaced c old p).urgent = p.urgent ∧ (displaced c old p).normal = p.normal
    ∧ (displaced c old p).fieldTx = p.fieldTx := by
  unfold displaced
  split
  · split
    · have hmoved := (Moved.refl p).restoreOutcome c .replaced
      exact ⟨hmoved.urgent, hmoved.normal, hmoved.fieldTx⟩
    · exact ⟨rfl, rfl, rfl⟩
  · exact ⟨rfl, rfl, rfl⟩

/-- A consumer's order outlasts an order for another consumer. -/
theorem raised_handOver {b : OrderBody} {x : OrderBody} {u : Bool} (hb : b.object ≠ x.object) (h : Raised p q b) :
    Raised p (handOver x u q).part b := by
  obtain ⟨o, ho, hs, hstands⟩ := h
  exact ⟨o, ho, hs, handOver_standing (by rw [ho]; exact hb) hstands⟩

theorem hand_raised {c : ConsumerNo} {x y : ConsumerOrder} {u : Bool} (hne : c ≠ e.consumer)
    (h : Raised p o.part (.consumer c x)) : Raised p (o.hand e y u cause).part (.consumer c x) := by
  have hhanded : Raised p (handOver (.consumer e.consumer y) u o.part).part (.consumer c x) :=
    raised_handOver (fun h' => hne (ObjectRef.consumer.inj h')) h
  unfold ShedHanded.hand
  extract_lets relief handed
  split
  · obtain ⟨hurgent, hnormal, htx⟩ := displaced_queues e.consumer handed.replaced handed.part
    obtain ⟨hurgent', hnormal', htx'⟩ := pendShed_queues e relief cause (displaced e.consumer handed.replaced handed.part)
    exact raised_congr hhanded (hurgent'.trans hurgent) (hnormal'.trans hnormal) (htx'.trans htx)
  · exact hhanded

theorem takeAction_raised {c : ConsumerNo} {x : ConsumerOrder} (hne : c ≠ a.consumer)
    (h : Raised p o.part (.consumer c x)) : Raised p (takeAction i cause o a).part (.consumer c x) := by
  unfold takeAction
  split
  · next e he =>
    split
    · exact hand_raised (by rw [(entryCfg_some he).1]; exact hne) h
    · exact h
  · exact h

theorem takeAction_queued (o : ShedHanded) (i : IslandNo) (cause : ShedCause) (a : ShedAction) :
    ∃ l, (takeAction i cause o a).queued = o.queued ++ l := by
  unfold takeAction
  split
  · split
    · unfold ShedHanded.hand
      extract_lets relief handed
      split
      · exact ⟨_, rfl⟩
      · exact ⟨[], (List.append_nil _).symm⟩
    · exact ⟨[], (List.append_nil _).symm⟩
  · exact ⟨[], (List.append_nil _).symm⟩

/-- The relief that an action's order gives (R129). -/
theorem shedRelief_handed {c : ConsumerNo} {y : ConsumerOrder} (hq : Handed p q) (hc : e.consumer = c)
    (he : q.entry[c] = p.entry[c]) : shedRelief q e y = shedRelief p e y := by
  subst hc
  have hoffered := hq.offeredKw he
  cases y <;> simp only [shedRelief, hq.consumerImage, hoffered]

end

/-! ### The actions of a selection (R146) -/

section

variable {p : Part} {i : IslandNo} {o : ShedHanded} {cause : ShedCause} {l : List ShedAction}

theorem takeActions_other {c : ConsumerNo} (h : c ∉ l.map ShedAction.consumer) :
    (l.foldl (takeAction i cause) o).part.entry[c] = o.part.entry[c] := by
  refine List.foldlRecOn (motive := fun x : ShedHanded => x.part.entry[c] = o.part.entry[c]) l _ rfl fun x hx a ha => ?_
  have hne : c ≠ a.consumer := fun hc => h (hc ▸ List.mem_map_of_mem ha)
  rw [takeAction_other hne]
  exact hx

theorem takeActions_raised {c : ConsumerNo} {x : ConsumerOrder} (hne : c ∉ l.map ShedAction.consumer)
    (h : Raised p o.part (.consumer c x)) : Raised p (l.foldl (takeAction i cause) o).part (.consumer c x) :=
  List.foldlRecOn (motive := fun y : ShedHanded => Raised p y.part (.consumer c x)) l _ h fun _ hy a ha =>
    takeAction_raised (a := a) (fun hc => hne (hc ▸ List.mem_map_of_mem ha)) hy

theorem takeActions_queued (o : ShedHanded) (i : IslandNo) (cause : ShedCause) (l : List ShedAction) :
    ∃ x, (l.foldl (takeAction i cause) o).queued = o.queued ++ x := by
  refine List.foldlRecOn (motive := fun y : ShedHanded => ∃ x, y.queued = o.queued ++ x) l _ ⟨[], (List.append_nil _).symm⟩ ?_
  intro y hy a _
  obtain ⟨x, hx⟩ := hy
  obtain ⟨z, hz⟩ := takeAction_queued y i cause a
  exact ⟨x ++ z, by rw [hz, hx, List.append_assoc]⟩

/-- What the order of an action makes of its consumer's entry, and of the queues (R143, R146). -/
structure Shed (p q : Part) (a : ShedAction) (e : EntryConfig) (cause : ShedCause) : Prop where
  entry : q.entry[a.consumer] = pendedEntry p.entry[a.consumer] (shedRelief p e a.means.order) cause
  raised : Raised p q (.consumer a.consumer a.means.order)

theorem takeAction_shed {a : ShedAction} {e : EntryConfig} (h : Sheddable o.part i a e) :
    Shed o.part (takeAction i cause o a).part a e cause ∧ (takeAction i cause o a).queued = o.queued ++ [a.consumer] := by
  obtain ⟨c, means⟩ := a
  have hc : e.consumer = c := h.consumer
  subst hc
  obtain ⟨hqueued, -, hentry, hraised⟩ := hand_connected (o := o) (e := e) (a := means.order) (u := true) (cause := cause)
    h.configured h.2.2 (.inl rfl)
  rw [takeAction_taken h]
  refine ⟨⟨?_, hraised⟩, hqueued⟩
  exact (congrArg (fun v : Vector EntryRecord 48 => v[e.consumer]) hentry).trans (Vector.getElem_set_self _)

/-- Every action whose consumer is sheddable as the group begins is taken. -/
theorem takeActions_shed (hl : (l.map ShedAction.consumer).Nodup) {a : ShedAction} (ha : a ∈ l) {e : EntryConfig}
    (h : Sheddable o.part i a e) :
    Shed o.part (l.foldl (takeAction i cause) o).part a e cause ∧ (l.foldl (takeAction i cause) o).queued ≠ [] := by
  induction l generalizing o with
  | nil => exact nomatch ha
  | cons b l ih =>
    rw [List.map_cons, List.nodup_cons] at hl
    obtain ⟨hb, hl⟩ := hl
    rw [List.foldl_cons]
    have hfirst : Handed o.part (takeAction i cause o b).part := (Handed.refl _).takeAction i cause b
    rcases List.mem_cons.mp ha with rfl | ha
    · obtain ⟨⟨hentry, hraised⟩, hqueued⟩ := takeAction_shed (cause := cause) h
      obtain ⟨x, hx⟩ := takeActions_queued (takeAction i cause o a) i cause l
      refine ⟨⟨(takeActions_other hb).trans hentry, takeActions_raised hb hraised⟩, ?_⟩
      rw [hx, hqueued]
      simp
    · have hne : a.consumer ≠ b.consumer := fun hc => hb (hc ▸ List.mem_map_of_mem ha)
      have hsame : (takeAction i cause o b).part.entry[a.consumer] = o.part.entry[a.consumer] := takeAction_other hne
      obtain ⟨⟨hentry, hraised⟩, hqueued⟩ := ih hl ha (h.handed hfirst hsame)
      refine ⟨⟨?_, raised_since hraised hfirst.orders⟩, hqueued⟩
      rw [hentry, hsame, shedRelief_handed hfirst h.consumer hsame]

/-- With every consumer sheddable, every order is queued. -/
theorem takeActions_all (hl : (l.map ShedAction.consumer).Nodup) (h : ∀ a ∈ l, ∃ e, Sheddable o.part i a e) :
    (l.foldl (takeAction i cause) o).queued = o.queued ++ l.map ShedAction.consumer := by
  induction l generalizing o with
  | nil => exact (List.append_nil _).symm
  | cons b l ih =>
    rw [List.map_cons, List.nodup_cons] at hl
    obtain ⟨hb, hl⟩ := hl
    obtain ⟨e, he⟩ := h b List.mem_cons_self
    have hfirst : Handed o.part (takeAction i cause o b).part := (Handed.refl _).takeAction i cause b
    rw [List.foldl_cons, ih hl fun a ha => ?_, (takeAction_shed he).2, List.append_assoc]
    · rfl
    · obtain ⟨e', he'⟩ := h a (List.mem_cons_of_mem _ ha)
      exact ⟨e', he'.handed hfirst (takeAction_other fun hc => hb (hc ▸ List.mem_map_of_mem ha))⟩

end

/-! ### The fast shed (R146 to R149) -/

section

variable {p : Part} {i : IslandNo} {cause : ShedCause} {actions : List ShedAction}

/-- A retrigger changes the restore context alone (R159). -/
theorem retrigger_held {α : Type} {g : Island → α} (hg : ∀ r x, g { r with restore := x } = g r) (i : IslandNo) (p : Part) :
    held g (retrigger i p) = held g p := by
  unfold retrigger
  split
  · exact held_onIsland fun r => hg r _
  · rfl

/-- The orders of a fast shed, once restoration is abandoned. -/
def fastHanded (i : IslandNo) (cause : ShedCause) (actions : List ShedAction) (p : Part) : ShedHanded :=
  actions.foldl (takeAction i cause) (noneHanded (abandonRestore i p))

/-- The burst that joins the context, and its event. -/
def fastTold (i : IslandNo) (clock : Nat) (o : ShedHanded) : Part :=
  let burst := retrigger i (onShed i (burstContext clock o.queued) o.part)
  if o.queued.isEmpty then burst else occur .fastShed (.island i) burst

theorem fastShed_eq : fastShed i cause actions p =
    ({ fastHanded i cause actions p with part := fastTold i p.clock (fastHanded i cause actions p) } : ShedHanded).done i := rfl

theorem fastHanded_handed : Handed p (fastHanded i cause actions p).part :=
  ((Handed.refl p).abandonRestore i).takeActions (o := noneHanded (abandonRestore i p)) i cause actions

/-- A part told of the burst: entries, queues and histories as the orders left them. -/
theorem fastTold_kept (i : IslandNo) (clock : Nat) (o : ShedHanded) :
    (fastTold i clock o).entry = o.part.entry ∧ (fastTold i clock o).urgent = o.part.urgent
    ∧ (fastTold i clock o).normal = o.part.normal ∧ (fastTold i clock o).fieldTx = o.part.fieldTx
    ∧ SameHistory o.part (fastTold i clock o) := by
  have hburst : ∃ w, retrigger i (onShed i (burstContext clock o.queued) o.part) = { o.part with islands := w } := by
    unfold retrigger
    split <;> exact ⟨_, rfl⟩
  have hhistory : SameHistory o.part (retrigger i (onShed i (burstContext clock o.queued) o.part)) := fun j =>
    (field_of_held (retrigger_held (g := Island.history) (fun _ _ => rfl) i _) j).trans
      (field_of_held (held_onIsland (g := Island.history)
        (f := fun r => { r with shed := burstContext clock o.queued r.shed }) fun _ => rfl) j)
  obtain ⟨w, hw⟩ := hburst
  rw [hw] at hhistory
  unfold fastTold
  rw [hw]
  dsimp only
  split
  · exact ⟨rfl, rfl, rfl, rfl, hhistory⟩
  · obtain ⟨f, r, t, n, heq⟩ := occur_eq .fastShed (.island i) { o.part with islands := w }
    rw [heq]
    exact ⟨rfl, rfl, rfl, rfl, hhistory⟩

theorem fastTold_shed (clock : Nat) {o : ShedHanded} (hi : o.part.islands[i].isSome = true) :
    (island (fastTold i clock o) i).shed = burstContext clock o.queued (island o.part i).shed := by
  have hburst : (island (retrigger i (onShed i (burstContext clock o.queued) o.part)) i).shed
      = burstContext clock o.queued (island o.part i).shed := by
    have hself : (island (onShed i (burstContext clock o.queued) o.part) i).shed
        = burstContext clock o.queued (island o.part i).shed := by rw [onShed, island_onIsland_self hi]
    exact (field_of_held (retrigger_held (g := Island.shed) (fun _ _ => rfl) i _) i).trans hself
  unfold fastTold
  dsimp only
  split
  · exact hburst
  · rw [occur_island]
    exact hburst

/-- The end of a fast shed keeps what rebuilds and lost grants keep. -/
theorem fastDone_keeps {I : Part → Prop} (h : Grants I) {o : ShedHanded} (ho : I o.part) : I (o.done i) := by
  unfold ShedHanded.done
  refine grantsLost_keeps h o ?_
  split
  · exact ho
  · exact steady_rebuild h.toSteady i ho

/-- Every action whose consumer is CONNECTED in the island is executed, with FAST_SHED. -/
theorem fastShed_shed (hl : (actions.map ShedAction.consumer).Nodup) {a : ShedAction} (ha : a ∈ actions) {e : EntryConfig}
    (h : Sheddable p i a e) :
    Shed p (fastShed i cause actions p) a e cause ∧ Flagged (fastShed i cause actions p) .fastShed := by
  have habandoned : Handed p (abandonRestore i p) := (Handed.refl p).abandonRestore i
  have hsame : (abandonRestore i p).entry[a.consumer] = p.entry[a.consumer] := abandonRestore_entry i (by rw [h.2.2]; exact nofun)
  obtain ⟨⟨hentry, hraised⟩, hqueued⟩ := takeActions_shed (o := noneHanded (abandonRestore i p)) (cause := cause) hl ha
    (h.handed habandoned hsame)
  obtain ⟨o, ho⟩ : ∃ o, o = fastHanded i cause actions p := ⟨_, rfl⟩
  have hfold : actions.foldl (takeAction i cause) (noneHanded (abandonRestore i p)) = o := ho.symm
  rw [hfold] at hentry hraised hqueued
  obtain ⟨hkept, hurgent, hnormal, htx, -⟩ := fastTold_kept i p.clock o
  have htold : Raised p (fastTold i p.clock o) (.consumer a.consumer a.means.order) :=
    raised_congr (raised_since hraised habandoned.orders) hurgent hnormal htx
  have hflag : Flagged (fastTold i p.clock o) .fastShed := by
    unfold fastTold
    dsimp only
    rw [if_neg (by rw [List.isEmpty_iff]; exact hqueued)]
    exact occur_flagged _ _ _
  rw [fastShed_eq, ← ho]
  refine ⟨⟨?_, ?_⟩, fastDone_keeps (units_flag .fastShed).toHanding.grants hflag⟩
  · have hend : (({ o with part := fastTold i p.clock o } : ShedHanded).done i).entry = o.part.entry :=
      (fastDone_keeps (grants_entry _) (o := { o with part := fastTold i p.clock o }) rfl).trans hkept
    have hrelief := shedRelief_handed (e := e) (y := a.means.order) habandoned h.consumer hsame
    refine (entry_get hend a.consumer).trans (hentry.trans ?_)
    exact congrArg₂ (pendedEntry · · cause) hsame hrelief
  · obtain ⟨x, hb, hs, hx⟩ := htold
    exact ⟨x, hb, hs, fastDone_keeps (grants_standing (c := a.consumer) (by rw [hb]; rfl))
      (o := { o with part := fastTold i p.clock o }) hx⟩

/-- The shed context after a fast shed (R146 to R148). -/
theorem fastShed_context (hi : p.islands[i].isSome = true) :
    (island (fastShed i cause actions p) i).shed
      = burstContext p.clock (fastHanded i cause actions p).queued (island p i).shed := by
  have hhanded := fastHanded_handed (p := p) (i := i) (cause := cause) (actions := actions)
  have htold := fastTold_shed (i := i) p.clock (o := fastHanded i cause actions p) ((hhanded.isSome i).trans hi)
  rw [hhanded.shed] at htold
  refine Eq.trans ?_ htold
  have hkept := fastDone_keeps (i := i) (grants_held (held keptBesideGrants (fastTold i p.clock (fastHanded i cause actions p))))
    (o := { fastHanded i cause actions p with part := fastTold i p.clock (fastHanded i cause actions p) }) rfl
  exact congrArg (fun x => x.2.1) (field_of_held hkept i)

theorem fastShed_history : SameHistory p (fastShed i cause actions p) := by
  have hhanded := fastHanded_handed (p := p) (i := i) (cause := cause) (actions := actions)
  have hkept := fastDone_keeps (i := i) (grants_held (held keptBesideGrants (fastTold i p.clock (fastHanded i cause actions p))))
    (o := { fastHanded i cause actions p with part := fastTold i p.clock (fastHanded i cause actions p) }) rfl
  obtain ⟨-, -, -, -, htold⟩ := fastTold_kept i p.clock (fastHanded i cause actions p)
  exact sameHistory_trans (sameHistory_trans hhanded.history htold) fun j =>
    congrArg (fun x => x.2.2.2) (field_of_held hkept j)

end

end Sys2Proof.Proofs
end

section
/-! A table rebuilt at this time (R140): what follows rebuilds it again or leaves it alone. -/

namespace Sys2Proof.Proofs

open Sys2Proof.Machine Sys2Proof.Claims

/-- The island's table has been rebuilt now. -/
def RebuiltNow (i : IslandNo) (t : Nat) (q : Part) : Prop := held Island.rebuiltAt q i = some (some t) ∧ q.clock = t

namespace RebuiltNow

variable {i : IslandNo} {t : Nat} {p q : Part}

theorem kept (h : RebuiltNow i t p) (hi : held Island.rebuiltAt q = held Island.rebuiltAt p) (hc : q.clock = p.clock) :
    RebuiltNow i t q := ⟨(congrFun hi i).trans h.1, hc.trans h.2⟩

theorem island_eq (h : RebuiltNow i t p) : (island p i).rebuiltAt = some t := by
  obtain ⟨hheld, -⟩ := h
  rw [held, Option.map_eq_some_iff] at hheld
  obtain ⟨r, hr, hat⟩ := hheld
  rw [island_some hr, hat]

theorem onIsland (h : RebuiltNow i t p) (j : IslandNo) {f : Island → Island} (hf : ∀ r, (f r).rebuiltAt = r.rebuiltAt) :
    RebuiltNow i t (Machine.onIsland j f p) := h.kept (held_onIsland hf) rfl

theorem onShed (h : RebuiltNow i t p) (j : IslandNo) (f : ShedContext → ShedContext) : RebuiltNow i t (Machine.onShed j f p) :=
  h.onIsland j fun _ => rfl

theorem onRestore (h : RebuiltNow i t p) (j : IslandNo) (f : RestoreContext → RestoreContext) :
    RebuiltNow i t (Machine.onRestore j f p) := h.onIsland j fun _ => rfl

theorem occur (h : RebuiltNow i t p) (e : EventKind) (o : EventObject) : RebuiltNow i t (Machine.occur e o p) := by
  obtain ⟨f, r, x, n, heq⟩ := occur_eq e o p
  rw [heq]
  exact h.kept rfl rfl

theorem handOver (h : RebuiltNow i t p) (b : OrderBody) (u : Bool) : RebuiltNow i t (Machine.handOver b u p).part := by
  obtain ⟨x, y, n, f, r, s, m, v, heq⟩ := handOver_eq b u p
  rw [heq]
  exact h.kept rfl rfl

/-- The selections noted before a table is written leave the island records and the clock alone. -/
theorem noted_beside (i : IslandNo) (l : List Selection) (p : Part) :
    (l.foldl (fun q s => noteSelection s q) (leaveTable i p)).islands = p.islands
    ∧ (l.foldl (fun q s => noteSelection s q) (leaveTable i p)).clock = p.clock := by
  have hleft : (leaveTable i p).islands = p.islands ∧ (leaveTable i p).clock = p.clock :=
    fold_keeps (I := fun q : Part => q.islands = p.islands ∧ q.clock = p.clock) _ _ (fun _ _ h => h) ⟨rfl, rfl⟩
  refine fold_keeps (I := fun q : Part => q.islands = p.islands ∧ q.clock = p.clock) _ _ (fun q s h => ?_) hleft
  unfold noteSelection
  extract_lets kept
  have hkept : kept.islands = p.islands ∧ kept.clock = p.clock := h
  split
  · obtain ⟨f, r, x, n, heq⟩ := occur_eq .contingencyShort (.set s.set) kept
    rw [heq]
    exact hkept
  · exact hkept

theorem rebuildWith (h : RebuiltNow i t p) (j : IslandNo) (f : Figures) (counted : List SetNo) :
    RebuiltNow i t (Machine.rebuildWith j f counted p) := by
  unfold Machine.rebuildWith
  extract_lets table noted
  obtain ⟨hislands, hclock⟩ := noted_beside j table p
  obtain ⟨hheld, ht⟩ := h
  have hnow : noted.clock = t := hclock.trans ht
  refine ⟨?_, hnow⟩
  have hnoted : held Island.rebuiltAt noted i = some (some t) := (congrFun (held_congr _ hislands) i).trans hheld
  rw [held, onIsland_get]
  rw [held] at hnoted
  split
  · rw [Option.map_map]
    obtain ⟨r, hr, -⟩ := Option.map_eq_some_iff.mp hnoted
    rw [hr, ← ht]
    rfl
  · exact hnoted

/-- A table that is rebuilt is rebuilt now. -/
theorem of_rebuildWith (hi : p.islands[i].isSome = true) (f : Figures) (counted : List SetNo) :
    RebuiltNow i p.clock (Machine.rebuildWith i f counted p) := by
  unfold Machine.rebuildWith
  extract_lets table noted
  obtain ⟨hislands, hclock⟩ := noted_beside i table p
  refine ⟨?_, hclock⟩
  obtain ⟨r, hr⟩ := Option.isSome_iff_exists.mp hi
  have hnoted : noted.islands[i] = some r := by
    rw [hislands]
    exact hr
  rw [held, onIsland_get, if_pos rfl, hnoted, ← hclock]
  rfl

theorem rebuild (h : RebuiltNow i t p) (j : IslandNo) : RebuiltNow i t (Machine.rebuild j p) :=
  rebuildWith (p := Machine.takeFigures j p) (h.onIsland j fun _ => rfl) j _ _

theorem rebuildFor (h : RebuiltNow i t p) (c : ConsumerNo) : RebuiltNow i t (Machine.rebuildFor c p) := by
  unfold Machine.rebuildFor
  split
  · exact h.rebuild _
  · exact h

/-! The hand-on, and the release of a grant. -/

theorem asked (h : RebuiltNow i t p) (ha : Asked p q) : RebuiltNow i t q :=
  h.kept (held_of_held (fun x => x.2.2.2.2.2.1) ha.kept) ha.clock

theorem deliverChange (h : RebuiltNow i t p) (c : SetChange) : RebuiltNow i t (Machine.deliverChange c p).part := by
  have hunits : RebuiltNow i t (govChange c (shareChange c p)) := by
    unfold govChange
    split <;> exact h.kept rfl rfl
  unfold Machine.deliverChange
  extract_lets units o
  have ho : RebuiltNow i t o.part := by
    unfold o
    split
    · exact hunits.asked ((Asked.refl _).reserveChange c)
    · exact hunits
  clear_value o
  change RebuiltNow i t (match setIsland o.part c.set with
    | some j => Machine.rebuild j o.part
    | none => o.part)
  split
  · exact ho.rebuild _
  · exact ho

theorem handOnAll (fuel : Nat) (l : List SetChange) (h : RebuiltNow i t p) : RebuiltNow i t (Machine.handOnAll fuel l p) := by
  induction fuel generalizing l p with
  | zero => exact h
  | succ fuel ih =>
    cases l with
    | nil => exact h
    | cons c rest => exact ih _ (h.deliverChange c)

theorem handOn {o : Sequenced} (h : RebuiltNow i t o.part) : RebuiltNow i t o.handOn := handOnAll 64 _ h

theorem testIsland (h : RebuiltNow i t p) (j : IslandNo) : RebuiltNow i t (Machine.testIsland j p) := by
  unfold Machine.testIsland
  split
  · exact handOn (h.asked (((Asked.refl p).takeFigures j).reserveJudge j _))
  · exact h

theorem releaseGrant (h : RebuiltNow i t p) (c : ConsumerNo) : RebuiltNow i t (Machine.releaseGrant c p) := by
  unfold Machine.releaseGrant
  split
  · exact testIsland (p := dropGrant _ c p) (h.onIsland _ fun _ => rfl) _
  · exact h

theorem grantLost (h : RebuiltNow i t p) (o : Order) : RebuiltNow i t (Machine.grantLost o p) := by
  unfold Machine.grantLost
  split
  · split
    · split
      · exact h.releaseGrant _
      · exact h
    · exact h
  · exact h

theorem heavyReplaced (h : RebuiltNow i t p) (o : Option Order) : RebuiltNow i t (Machine.heavyReplaced o p) := by
  unfold Machine.heavyReplaced
  split
  · exact h.grantLost _
  · exact h

/-! The shed orders. -/

theorem endStepFor (h : RebuiltNow i t p) (c : ConsumerNo) : RebuiltNow i t (Machine.endStepFor c p) :=
  fold_keeps (I := RebuiltNow i t) _ _ (fun _ j hq => hq.onIsland j fun r => by split <;> rfl) h

/-- A restore order that is replaced or withdrawn. -/
theorem restoreOutcome (h : RebuiltNow i t p) (c : ConsumerNo) {out : OrderOutcome} (hout : out = .replaced ∨ out = .withdrawn) :
    RebuiltNow i t (Machine.restoreOutcome c out p) := by
  unfold Machine.restoreOutcome
  have hentry : RebuiltNow i t (entryRestored c out p) := by
    rcases hout with rfl | rfl <;> exact h.kept rfl rfl
  split
  · exact (hentry.endStepFor c).rebuildFor c
  · exact h.endStepFor c

theorem displaced (h : RebuiltNow i t p) (c : ConsumerNo) (old : Option Order) : RebuiltNow i t (Machine.displaced c old p) := by
  unfold Machine.displaced
  split
  · split
    · exact h.restoreOutcome c (.inl rfl)
    · exact h
  · exact h

theorem retrigger (h : RebuiltNow i t p) (j : IslandNo) : RebuiltNow i t (Machine.retrigger j p) := by
  unfold Machine.retrigger
  split
  · exact h.onIsland j fun _ => rfl
  · exact h

theorem pendShed (h : RebuiltNow i t p) (e : EntryConfig) (relief : Nat) (cause : ShedCause) :
    RebuiltNow i t (Machine.pendShed e relief cause p) := by
  unfold Machine.pendShed
  extract_lets pended
  have hp : RebuiltNow i t pended := h.kept rfl rfl
  split
  · exact hp.retrigger _
  · exact hp

theorem hand {o : ShedHanded} (h : RebuiltNow i t o.part) (e : EntryConfig) (a : ConsumerOrder) (u : Bool) (cause : ShedCause) :
    RebuiltNow i t (o.hand e a u cause).part := by
  unfold ShedHanded.hand
  extract_lets relief handed
  have hh : RebuiltNow i t handed.part := h.handOver _ _
  split
  · exact (hh.displaced _ _).pendShed _ _ _
  · exact hh

theorem takeAction {o : ShedHanded} (h : RebuiltNow i t o.part) (j : IslandNo) (cause : ShedCause) (a : ShedAction) :
    RebuiltNow i t (Machine.takeAction j cause o a).part := by
  unfold Machine.takeAction
  split
  · split
    · exact h.hand _ _ _ _
    · exact h
  · exact h

theorem abandonRestore (h : RebuiltNow i t p) (j : IslandNo) : RebuiltNow i t (Machine.abandonRestore j p) := by
  unfold Machine.abandonRestore
  extract_lets ctx withdrawn
  have hw : RebuiltNow i t withdrawn := by
    unfold withdrawn
    split
    · unfold withdrawRestore
      split
      · exact (h.kept (q := dropQueued _ p) rfl rfl).restoreOutcome _ (.inr rfl)
      · exact h
    · exact h
  exact hw.onIsland j fun _ => rfl

theorem done {o : ShedHanded} (h : RebuiltNow i t o.part) (j : IslandNo) : RebuiltNow i t (o.done j) := by
  unfold ShedHanded.done
  refine fold_keeps (I := RebuiltNow i t) _ _ (fun _ r hq => hq.grantLost r) ?_
  split
  · exact h
  · exact h.rebuild j

theorem fastShed (h : RebuiltNow i t p) (j : IslandNo) (cause : ShedCause) (actions : List ShedAction) :
    RebuiltNow i t (Machine.fastShed j cause actions p) := by
  obtain ⟨o, ho⟩ : ∃ o, o = fastHanded j cause actions p := ⟨_, rfl⟩
  have hhanded : RebuiltNow i t o.part := by
    rw [ho]
    exact List.foldlRecOn (motive := fun o : ShedHanded => RebuiltNow i t o.part) actions _ (h.abandonRestore j)
      fun _ hx a _ => hx.takeAction j cause a
  have htold : RebuiltNow i t (fastTold j p.clock o) := by
    unfold fastTold
    dsimp only
    have hburst := (hhanded.onShed j (burstContext p.clock o.queued)).retrigger j
    split
    · exact hburst
    · exact hburst.occur _ _
  rw [fastShed_eq, ← ho]
  exact RebuiltNow.done (o := { o with part := fastTold j p.clock o }) htold j

theorem pacedTest (h : RebuiltNow i t p) (j : IslandNo) (f : Figures) : RebuiltNow i t (Machine.pacedTest j f p) := by
  unfold Machine.pacedTest
  split
  · split
    · exact (h.onShed j _).retrigger j
    · exact h
  · split
    · exact h
    · exact h.onShed j _
  all_goals exact h

theorem tryRestore (h : RebuiltNow i t p) (j : IslandNo) (f : Figures) : RebuiltNow i t (Machine.tryRestore j f p) := by
  unfold Machine.tryRestore
  split
  · exact h.onRestore j _
  · split
    · next x _ =>
      split
      · unfold restoreStepFor
        extract_lets handed
        have hh : RebuiltNow i t handed.part := h.handOver _ _
        split
        · have hentry : RebuiltNow i t (enterEntry x.consumer .restorePending handed.part) := hh.kept rfl rfl
          exact ((hentry.onRestore j _).rebuildFor _).heavyReplaced _
        · exact hh.onRestore j _
      · exact h.onRestore j _
    · exact h.onRestore j _

end RebuiltNow

end Sys2Proof.Proofs
end

section
/-! The stages of a share period (R51, R53, R56, R78, R115, R140, R149, R150): completed ramps, the head of the heavy queue, and the
Shed Unit's tests. -/

namespace Sys2Proof.Proofs

open Sys2Proof.Machine Sys2Proof.Claims Sequenced

/-! ### Completed ramps (R51, R53, R56) -/

section

variable {k : SetNo} {p : Part}

theorem rampComplete_steps (k : SetNo) (p : Part) : Steps k p (rampComplete k p).part := by
  unfold rampComplete
  split
  · exact enter_steps _ ((Steps.refl k p).onSeq _)
  · split
    · extract_lets o h o1
      have h1 : Steps k p o1.part := (enter_steps (o := (sequenced p).on (stopSetTimer k)) .opening ((Steps.refl k p).onSeq _)).handSet _
      split
      · exact h1
      · exact openFailed_steps h1
    · exact .refl k p

theorem rampComplete_in (h : p.seq[k].state = some .rampIn) :
    (rampComplete k p).part.seq[k].state = some .onBus ∧ (rampComplete k p).part.seq[k].slow = false := by
  have hrun : rampComplete k p = ((sequenced p).on (clearSlow k)).enter k .onBus := if_pos (beq_iff_eq.mpr h)
  have hclear : ((sequenced p).on (clearSlow k)).part.seq[k] = { p.seq[k] with slow := false } := clearSlow_self k p
  rw [hrun, enter_self, hclear]
  exact ⟨rfl, rfl⟩

/-- The set in OPENING, its OPEN not yet handed over (R53). -/
def openingBegun (k : SetNo) (p : Part) : Sequenced := ((sequenced p).on (stopSetTimer k)).enter k .opening

theorem rampComplete_out (h : p.seq[k].state = some .rampOut) :
    rampComplete k p =
      (if (handSet k .openBreaker (openingBegun k p).part).2 then
        { openingBegun k p with part := (handSet k .openBreaker (openingBegun k p).part).1 }
      else ({ openingBegun k p with part := (handSet k .openBreaker (openingBegun k p).part).1 } : Sequenced).openFailed k) := by
  have hin : setStateIs p k .rampIn = false := by
    rw [setStateIs, h]
    rfl
  have hout : setStateIs p k .rampOut = true := beq_iff_eq.mpr h
  unfold rampComplete
  rw [hin, hout]
  rfl

theorem openingBegun_steps (k : SetNo) (p : Part) : Steps k p (openingBegun k p).part :=
  enter_steps (o := (sequenced p).on (stopSetTimer k)) _ ((Steps.refl k p).onSeq _)

theorem openingBegun_state (k : SetNo) (p : Part) : (openingBegun k p).part.seq[k].state = some .opening :=
  congrArg SeqRecord.state (enter_self _ k .opening)

theorem rampComplete_opens (h : p.seq[k].state = some .rampOut) (hc : setConfigured p k = true) (hr : Room p) :
    (rampComplete k p).part.seq[k].state = some .opening ∧ Raised p (rampComplete k p).part (.set k .openBreaker) := by
  have hsteps := openingBegun_steps k p
  have hstate := openingBegun_state k p
  have hrun := rampComplete_out h
  have hroom : Room (openingBegun k p).part := hr
  obtain ⟨o, ho⟩ : ∃ o, o = openingBegun k p := ⟨_, rfl⟩
  rw [← ho] at hsteps hstate hrun hroom
  obtain ⟨hqueued, hraised⟩ := handSet_raises (a := .openBreaker) ((hsteps.setConfigured k).trans hc) hroom
  obtain ⟨l, hl⟩ := handSet_seq_self k .openBreaker o.part
  rw [hrun, if_pos hqueued]
  exact ⟨(congrArg SeqRecord.state hl).trans hstate, raised_since hraised hsteps.orders⟩

/-- Where the OPEN is not queued the set is back ON_BUS (R56). -/
theorem rampComplete_full (h : p.seq[k].state = some .rampOut) (hc : setConfigured p k = true) (hfull : 32 ≤ p.normal.length)
    (hq : queuedFor p (.set k) = none) :
    (rampComplete k p).part.seq[k].state = some .onBus ∧ (rampComplete k p).part.seq[k].origin = none
    ∧ (rampComplete k p).part.seq[k].slow = false
    ∧ (rampComplete k p).part.seq[k].lastOutcome = some (.openBreaker, .notQueued)
    ∧ Flagged (rampComplete k p).part .openFail ∧ Flagged (rampComplete k p).part .orderQueueFull := by
  have hsteps := openingBegun_steps k p
  have hrun := rampComplete_out h
  have hfull' : 32 ≤ (openingBegun k p).part.normal.length := hfull
  have hq' : queuedFor (openingBegun k p).part (.set k) = none := hq
  obtain ⟨o, ho⟩ : ∃ o, o = openingBegun k p := ⟨_, rfl⟩
  rw [← ho] at hsteps hrun hfull' hq'
  have hhand : handSet k .openBreaker o.part
      = (noteOutcome k .openBreaker .notQueued (occur .orderQueueFull (.set k) o.part), false) :=
    handSet_full ((hsteps.setConfigured k).trans hc) hfull' hq'
  obtain ⟨noted, hnoted⟩ : ∃ q, q = noteOutcome k .openBreaker .notQueued (occur .orderQueueFull (.set k) o.part) := ⟨_, rfl⟩
  have hrecord : noted.seq[k].lastOutcome = some (.openBreaker, .notQueued) := by rw [hnoted, noteOutcome, onSeq_self]
  have hflag : Flagged noted .orderQueueFull := by
    rw [hnoted]
    exact ((Steps.refl k (occur .orderQueueFull (.set k) o.part)).onSeq _).flag _ (occur_flagged _ _ _)
  rw [← hnoted] at hhand
  rw [hhand, if_neg Bool.false_ne_true] at hrun
  have hself := openFailed_self { o with part := noted } k
  have hsteps' : Steps k noted (({ o with part := noted } : Sequenced).openFailed k).part :=
    openFailed_steps (o := { o with part := noted }) (.refl k noted)
  rw [hrun]
  refine ⟨?_, ?_, ?_, ?_, openFailed_flag _ k, hsteps'.flag _ hflag⟩
  · rw [hself]
  · rw [hself]
  · rw [hself]
  · rw [hself]
    exact hrecord

theorem rampComplete_none (hin : p.seq[k].state ≠ some .rampIn) (hout : p.seq[k].state ≠ some .rampOut) :
    rampComplete k p = { part := p, changes := [] } := by
  have hin' : setStateIs p k .rampIn = false := beq_eq_false_iff_ne.mpr hin
  have hout' : setStateIs p k .rampOut = false := beq_eq_false_iff_ne.mpr hout
  unfold rampComplete
  rw [hin', hout']
  rfl

end

/-! ### The head of the heavy queue (R115) -/

section

variable {p : Part} {i : IslandNo} {f : Figures}

/-- A restore order that is replaced or withdrawn changes no history (R161). -/
theorem restoreOutcome_history (c : ConsumerNo) {out : OrderOutcome} (hout : out = .replaced ∨ out = .withdrawn) (p : Part) :
    SameHistory p (restoreOutcome c out p) := by
  have hentry : SameHistory p (entryRestored c out p) := by
    rcases hout with rfl | rfl <;> exact fun _ => rfl
  unfold restoreOutcome
  split
  · exact sameHistory_trans hentry (sameHistory_trans (endStepFor_history c _) (rebuildFor_history c _))
  · exact endStepFor_history c p

theorem handOver_history (b : OrderBody) (u : Bool) (p : Part) : SameHistory p (handOver b u p).part := fun j => by
  rw [island, handOver_islands, island]

theorem grants_history {q : Part} (h : held keptBesideGrants q = held keptBesideGrants p) : SameHistory p q := fun j =>
  congrArg (fun x => x.2.2.2) (field_of_held h j)

theorem handHeavy_history (c : ConsumerNo) (a : ConsumerOrder) (p : Part) : SameHistory p (handHeavy c a p).part := by
  have hover := handOver_history (.consumer c a) false p
  unfold handHeavy
  extract_lets h
  split
  · split
    · exact sameHistory_trans hover (handOver_history _ _ _)
    · split
      · exact sameHistory_trans hover (restoreOutcome_history c (.inl rfl) _)
      · exact sameHistory_trans hover (grants_history (grants_grantLost (grants_held (held keptBesideGrants h.part)) _ rfl))
  · exact hover

theorem considerHead_history (i : IslandNo) (spare : Int) (p : Part) : SameHistory p (considerHead i spare p).1 := by
  unfold considerHead
  split
  · next x _ =>
    split
    · extract_lets h
      have hhanded : SameHistory p h.part := handHeavy_history _ _ _
      split
      · extract_lets granted told
        have hheld : held Island.history granted = held Island.history h.part := held_onIsland fun _ => rfl
        have hgranted : SameHistory p granted := sameHistory_trans hhanded (field_of_held hheld)
        have htold : SameHistory p told := sameHistory_trans hgranted (occur_history _ _ _)
        split
        · exact sameHistory_trans htold (releaseGrant_history _ _)
        · exact htold
      · exact hhanded
    · exact fun _ => rfl
  · exact fun _ => rfl

/-- What the Reserve Unit's tests and the hand-on keep once the head has been considered. -/
theorem reservePeriod_keeps {I : Part → Prop} (h : Tests I) (hp : I (considerHead i f.spare p).1) : I (reservePeriod i f p) :=
  tests_handOn h _ (tests_reserveJudge h i _ hp)

theorem reservePeriod_history (i : IslandNo) (f : Figures) (p : Part) : SameHistory p (reservePeriod i f p) :=
  sameHistory_trans (considerHead_history i f.spare p) fun j =>
    congrArg (fun x => x.2.2.2.2) (field_of_held (reservePeriod_keeps (tests_held _) rfl) j)

/-- The queue and the grants that the consideration leaves. -/
theorem reservePeriod_island (i : IslandNo) (f : Figures) (p : Part) :
    (island (reservePeriod i f p) i).reserve.queue = (island (considerHead i f.spare p).1 i).reserve.queue
    ∧ (island (reservePeriod i f p) i).reserve.grants = (island (considerHead i f.spare p).1 i).reserve.grants
    ∧ (reservePeriod i f p).entry = (considerHead i f.spare p).1.entry := by
  have hkept := field_of_held (reservePeriod_keeps (i := i) (f := f) (p := p) (tests_held _) rfl) i
  exact ⟨congrArg (fun x => x.1) hkept, congrArg (fun x => x.2.1) hkept,
    reservePeriod_keeps (grants_entry _).toTests rfl⟩

/-- A head that the spare does not cover stays. -/
theorem considerHead_stays {q0 : HeavyRequest} {rest : List HeavyRequest} {spare : Int}
    (hq : (island p i).reserve.queue = q0 :: rest) (h : spare - q0.kw < (p.cfg.plant.reserve : Int)) :
    considerHead i spare p = (p, 0) := by
  unfold considerHead
  rw [hq]
  exact if_neg (not_le.mpr h)

/-- The part with the head of the queue granted (R115). -/
def granted (i : IslandNo) (q0 : HeavyRequest) (serial deadline : Nat) (p : Part) : Part :=
  onReserve i (fun r =>
    { r with
      queue := headed deadline r.queue.tail
      grants := r.grants ++ [{ consumer := q0.consumer, kw := q0.kw, hold := none, serial := serial }] }) p

/-- A head that the spare covers is granted. -/
theorem considerHead_grants {q0 : HeavyRequest} {rest : List HeavyRequest} {spare : Int}
    (hq : (island p i).reserve.queue = q0 :: rest) (h : (p.cfg.plant.reserve : Int) ≤ spare - q0.kw)
    (hc : objectConfigured p (.consumer q0.consumer) = true) (hnone : queuedFor p (.consumer q0.consumer) = none)
    (hroom : Room p) :
    considerHead i spare p = (occur .heavyGrant (.consumer q0.consumer) (granted i q0 p.nextOrder (headDeadline p)
      (handOver (.consumer q0.consumer .grant) false p).part), q0.kw) := by
  obtain ⟨hqueued, -⟩ := handOver_raises (b := .consumer q0.consumer .grant) (u := false) hc (.inr hroom)
  have hreplaced := handOver_noneReplaced (b := .consumer q0.consumer .grant) (u := false) hnone
  have hheavy : handHeavy q0.consumer .grant p =
      ⟨(handOver (.consumer q0.consumer .grant) false p).part, some p.nextOrder, false⟩ := by
    unfold handHeavy
    extract_lets o
    rw [show o.replaced = none from hreplaced, show o.queued = some p.nextOrder from hqueued]
  unfold considerHead
  rw [hq]
  dsimp only
  rw [if_pos h, hheavy]
  exact if_neg Bool.false_ne_true

theorem reservePeriod_grants {q0 : HeavyRequest} {rest : List HeavyRequest} (hi : p.islands[i].isSome = true)
    (hq : (island p i).reserve.queue = q0 :: rest) (h : (p.cfg.plant.reserve : Int) ≤ f.spare - q0.kw)
    (hc : objectConfigured p (.consumer q0.consumer) = true) (hnone : queuedFor p (.consumer q0.consumer) = none)
    (hroom : Room p) :
    (island (reservePeriod i f p) i).reserve.queue = headed (p.clock + p.cfg.plant.heavyExpiry * 1000) rest
    ∧ (island (reservePeriod i f p) i).reserve.grants = (island p i).reserve.grants
        ++ [{ consumer := q0.consumer, kw := q0.kw, hold := none, serial := p.nextOrder }]
    ∧ Raised p (reservePeriod i f p) (.consumer q0.consumer .grant) ∧ Flagged (reservePeriod i f p) .heavyGrant
    ∧ (reservePeriod i f p).entry = p.entry := by
  obtain ⟨-, hraised⟩ := handOver_raises (b := .consumer q0.consumer .grant) (u := false) hc (.inr hroom)
  have hhead := considerHead_grants hq h hc hnone hroom
  obtain ⟨hqueue, hgrants, hentry⟩ := reservePeriod_island i f p
  obtain ⟨o, ho⟩ : ∃ o, o = (handOver (.consumer q0.consumer .grant) false p).part := ⟨_, rfl⟩
  have hislands : o.islands = p.islands := ho ▸ handOver_islands _ _ _
  have hisland : island o i = island p i := by rw [island, hislands, island]
  rw [← ho] at hraised hhead
  have hself : island (granted i q0 p.nextOrder (headDeadline p) o) i = { island p i with
      reserve := { (island p i).reserve with
        queue := headed (headDeadline p) rest
        grants := (island p i).reserve.grants
          ++ [{ consumer := q0.consumer, kw := q0.kw, hold := none, serial := p.nextOrder }] } } := by
    rw [granted, onReserve, island_onIsland_self (by rw [hislands]; exact hi), hisland, hq]
    rfl
  rw [hhead] at hqueue hgrants hentry
  refine ⟨?_, ?_, ?_, ?_, ?_⟩
  · rw [hqueue, occur_island, hself]
    rfl
  · rw [hgrants, occur_island, hself]
  · obtain ⟨x, hb, hs, hx⟩ := hraised
    refine ⟨x, hb, hs, reservePeriod_keeps (tests_standing (c := q0.consumer) (by rw [hb]; rfl)) ?_⟩
    rw [hhead]
    exact bystander_standing_occur _ _ (q := granted i q0 p.nextOrder (headDeadline p) o) hx
  · refine reservePeriod_keeps (units_flag .heavyGrant).toHanding.tests ?_
    rw [hhead]
    exact occur_flagged _ _ _
  · rw [hentry, occur_entry]
    exact (show (granted i q0 p.nextOrder (headDeadline p) o).entry = o.entry from rfl).trans (ho ▸ handOver_entry _ _ _)

end

/-! ### A restore step behind the tests (R160) -/

section

variable {p : Part} {i : IslandNo} {f : Figures}

/-- The part in which a restore order has been handed over. -/
def restoreHanded (i : IslandNo) (c : ConsumerNo) (q : Part) : Part :=
  onRestore i (fun _ => { RestoreContext.fresh with state := .stepWait, stepConsumer := some c }) (enterEntry c .restorePending q)

theorem restoreStepFor_eq (i : IslandNo) (c : ConsumerNo) (p : Part) : restoreStepFor i c p =
    (if (handOver (.consumer c (restoreOrder p c)) false p).queued.isSome then
      heavyReplaced (handOver (.consumer c (restoreOrder p c)) false p).replaced
        (rebuildFor c (restoreHanded i c (handOver (.consumer c (restoreOrder p c)) false p).part))
    else stillDue i (handOver (.consumer c (restoreOrder p c)) false p).part) := rfl

/-- What the hand-over of a consumer's restore order keeps, a restore try keeps. -/
theorem tryRestore_keeps {I : Part → Prop} (hg : Grants I) (hrestore : ∀ q g, I q → I (onRestore i g q))
    (hstep : ∀ c, p.entry[c].state = some .shed → ∀ a, I p → I (handOver (.consumer c a) false p).part
      ∧ I (enterEntry c .restorePending (handOver (.consumer c a) false p).part)) (hp : I p) : I (tryRestore i f p) := by
  unfold tryRestore
  split
  · exact hrestore _ _ hp
  · split
    · next h hc =>
      split
      · obtain ⟨⟨-, -, -, hstate⟩, -⟩ := (restoreCandidate_iff p i h).1 hc
        obtain ⟨hhanded, hentered⟩ := hstep h.consumer hstate (restoreOrder p h.consumer) hp
        rw [restoreStepFor_eq]
        split
        · exact grants_heavyReplaced hg _ (steady_rebuildFor hg.toSteady h.consumer (hrestore _ _ hentered))
        · exact hrestore _ _ hhanded
      · exact hrestore _ _ hp
    · exact hrestore _ _ hp

/-- Shed contexts and histories. -/
def shedAndHistory (r : Island) := (r.shed, r.history)

theorem held_onRestore {α : Type} {x : Island → α} (hx : ∀ r c, x { r with restore := c } = x r) (i : IslandNo)
    (g : RestoreContext → RestoreContext) (p : Part) : held x (onRestore i g p) = held x p := held_onIsland fun r => hx r _

theorem tryRestore_held (i : IslandNo) (f : Figures) (p : Part) :
    held shedAndHistory (tryRestore i f p) = held shedAndHistory p := by
  have hgrants : Grants (fun q => held shedAndHistory q = held shedAndHistory p) :=
    (bystander_held shedAndHistory).grants
      (fun _ _ _ hf => held_onIsland fun r => congrArg (fun x => (x.2.2.1, x.2.2.2.2)) (hf r))
      (fun _ _ _ => held_onIsland fun _ => rfl) _
  refine tryRestore_keeps hgrants (fun q g hq => (held_onRestore (fun _ _ => rfl) i g q).trans hq) (fun c _ a hp => ?_) rfl
  have hover : held shedAndHistory (handOver (.consumer c a) false p).part = held shedAndHistory p :=
    held_congr _ (handOver_islands _ _ _)
  exact ⟨hover, hover⟩

/-- A restore try changes the entry of its candidate alone, which is SHED. -/
theorem tryRestore_entry {c : ConsumerNo} (h : p.entry[c].state ≠ some .shed) :
    (tryRestore i f p).entry[c] = p.entry[c] := by
  have hbystander : Bystander (fun q : Part => q.entry[c]) :=
    ⟨⟨fun _ _ _ _ _ => rfl, fun _ _ _ _ _ => rfl, fun _ _ _ _ => rfl⟩, fun _ _ => rfl, fun _ _ => rfl, fun _ _ => rfl,
      fun _ _ => rfl, fun _ _ => rfl⟩
  refine tryRestore_keeps (hbystander.grants (fun _ _ _ _ => rfl) (fun _ _ _ => rfl) _) (fun _ _ hq => hq)
    (fun c' hc' a _ => ?_) rfl
  have hover := entry_get (handOver_entry (.consumer c' a) false p) c
  have hne : c ≠ c' := by
    rintro rfl
    exact h hc'
  exact ⟨hover, (onEntry_other hne _ _).trans hover⟩

theorem tryRestore_raised {o : Part} {c : ConsumerNo} {a : ConsumerOrder} (h : p.entry[c].state ≠ some .shed)
    (hr : Raised o p (.consumer c a)) : Raised o (tryRestore i f p) (.consumer c a) := by
  obtain ⟨x, hb, hs, hx⟩ := hr
  refine ⟨x, hb, hs, tryRestore_keeps (grants_standing (c := c) (by rw [hb]; rfl)) (fun _ _ hq => hq) (fun c' hc' a' hp => ?_) hx⟩
  have hne : c ≠ c' := by
    rintro rfl
    exact h hc'
  have hover : Standing x (handOver (.consumer c' a') false p).part :=
    handOver_standing (by rw [hb]; exact fun h' => hne (ObjectRef.consumer.inj h')) hp
  exact ⟨hover, hover⟩

end

/-! ### The Shed Unit's tests (R149, R150) -/

section

variable {p q : Part} {i : IslandNo} {f : Figures} {counted : List SetNo}

theorem walk_congr (heligible : ∀ e, eligible q i e = eligible p i e)
    (haction : ∀ e n, entryAction q e n = entryAction p e n) (d : Nat) (l : List EntryConfig) (total : Nat) :
    walk q i d l total = walk p i d l total := by
  induction l generalizing total with
  | nil => rfl
  | cons e rest ih => simp only [walk, heligible, haction, ih]

/-- A rebuild changes no selection to come. -/
theorem selectionFor_noted (h : Noted p q) (i : IslandNo) (k : SetNo) (d : Int) : selectionFor q i k d = selectionFor p i k d := by
  have hoffered : ∀ e, offeredKw q e = offeredKw p e := fun e => by
    rw [offeredKw, h.entry, h.consumerImage, offeredKw]
  have heligible : ∀ e, eligible q i e = eligible p i e := fun e => by
    simp only [eligible, entryInIsland, inIsland, islandOf, h.islandMap, h.entry, hoffered]
  have haction : ∀ e n, entryAction q e n = entryAction p e n := fun e n => by
    simp only [entryAction, hoffered, h.consumerImage]
  unfold selectionFor
  rw [h.cfg, walk_congr heligible haction]

/-- The actions of a selection are for different consumers, each CONNECTED in the island. -/
theorem selection_sheddable (hpair : p.cfg.shedList.Pairwise fun a b => a.consumer ≠ b.consumer) (k : SetNo) (d : Int) :
    ((selectionFor p i k d).actions.map ShedAction.consumer).Nodup
    ∧ ∀ a ∈ (selectionFor p i k d).actions, ∃ e, Sheddable p i a e := by
  unfold selectionFor
  split
  · exact ⟨List.nodup_nil, nofun⟩
  · have hlist : (p.cfg.shedList.map EntryConfig.consumer).Nodup := List.pairwise_map.mpr hpair
    refine ⟨?_, fun a ha => ?_⟩
    · have hsub : ((p.cfg.shedList.filter (eligible p i)).map EntryConfig.consumer).Nodup :=
        hlist.sublist (List.filter_sublist.map _)
      exact hsub.sublist walk_consumers_prefix.sublist
    · obtain ⟨n, hn⟩ := List.mem_iff_getElem?.mp ha
      obtain ⟨-, e, he, heligible, haction⟩ := walk_getElem? hn
      have hc : e.consumer = a.consumer := by rw [haction, entryAction_consumer]
      obtain ⟨c, means⟩ := a
      dsimp only at hc
      subst hc
      obtain ⟨hlow, hhigh, hin, -⟩ := eligible_iff.1 heligible
      refine ⟨e, find?_consumer hpair he, ?_, connected_of_eligible heligible⟩
      rw [entryInIsland, (stationAssigned_iff _).2 ⟨hlow, hhigh⟩, Bool.true_and]
      exact beq_iff_eq.mpr hin

/-- The paced test changes the contexts alone. -/
theorem pacedTest_history (i : IslandNo) (f : Figures) (p : Part) : SameHistory p (pacedTest i f p) := by
  have hshed : ∀ g, held Island.history (onShed i g p) = held Island.history p := fun g => held_onIsland fun _ => rfl
  unfold pacedTest
  split
  · split
    · exact field_of_held ((retrigger_held (g := Island.history) (fun _ _ => rfl) i _).trans (hshed _))
    · exact fun _ => rfl
  · split
    · exact fun _ => rfl
    · exact field_of_held (hshed _)
  all_goals exact fun _ => rfl

/-- What the paced test makes of the shed context (R150). -/
theorem pacedTest_shed (hi : p.islands[i].isSome = true) (f : Figures) :
    ((island p i).shed.state = .idle → overloaded p f = true → (island (pacedTest i f p) i).shed =
      { (island p i).shed with
        state := .confirming, pacerTimer := some (p.clock + p.cfg.plant.overloadConfirm), steps := 0, exhausted := false })
    ∧ ((island p i).shed.state = .confirming → overloaded p f = false → (island (pacedTest i f p) i).shed = ShedContext.fresh)
    ∧ (((island p i).shed.state = .idle → overloaded p f = false) →
      ((island p i).shed.state = .confirming → overloaded p f = true) →
      (island (pacedTest i f p) i).shed = (island p i).shed) := by
  have hself : ∀ g, (island (onShed i g p) i).shed = g (island p i).shed := fun g => by rw [onShed, island_onIsland_self hi]
  unfold pacedTest
  refine ⟨fun hs ho => ?_, fun hs ho => ?_, fun hidle hconfirming => ?_⟩
  · rw [hs]
    dsimp only
    rw [if_pos ho]
    exact (field_of_held (retrigger_held (g := Island.shed) (fun _ _ => rfl) i _) i).trans (hself _)
  · rw [hs]
    dsimp only
    rw [if_neg (ne_true_of_eq_false ho)]
    exact hself _
  · split
    · next hs => rw [if_neg (ne_true_of_eq_false (hidle hs))]
    · next hs => rw [if_pos (hconfirming hs)]
    all_goals rfl

theorem shedPeriod_cases (i : IslandNo) (f : Figures) (counted : List SetNo) (p : Part) :
    shedPeriod i f counted p = overloadTests i f (rebuildWith i f counted p)
    ∨ shedPeriod i f counted p = tryRestore i f (overloadTests i f (rebuildWith i f counted p)) := by
  unfold shedPeriod
  extract_lets tested
  split
  · exact .inr rfl
  · exact .inl rfl

theorem shedPeriod_held (i : IslandNo) (f : Figures) (counted : List SetNo) (p : Part) :
    held shedAndHistory (shedPeriod i f counted p)
      = held shedAndHistory (overloadTests i f (rebuildWith i f counted p)) := by
  rcases shedPeriod_cases i f counted p with h | h <;> rw [h]
  exact tryRestore_held _ _ _

theorem overloadTests_history (i : IslandNo) (f : Figures) (p : Part) : SameHistory p (overloadTests i f p) := by
  unfold overloadTests
  split
  · exact fastShed_history
  · exact pacedTest_history i f p

theorem overloadTests_rebuilt {t : Nat} (i j : IslandNo) (f : Figures) (h : RebuiltNow j t p) :
    RebuiltNow j t (overloadTests i f p) := by
  unfold overloadTests
  split
  · exact h.fastShed i _ _
  · exact h.pacedTest i f

theorem shedPeriod_rebuilt (hi : p.islands[i].isSome = true) (f : Figures) (counted : List SetNo) :
    (island (shedPeriod i f counted p) i).rebuiltAt = some p.clock := by
  have htested := overloadTests_rebuilt i i f (RebuiltNow.of_rebuildWith hi f counted)
  refine RebuiltNow.island_eq ?_
  rcases shedPeriod_cases i f counted p with h | h <;> rw [h]
  · exact htested
  · exact htested.tryRestore i f

/-- A fast overload of a context that is tested for it (R149). -/
def FastOverload (p : Part) (f : Figures) (st : ShedState) : Prop :=
  st ≠ .burst ∧ st ≠ .postCheck ∧ f.capacity * (p.cfg.plant.fastOverload : Int) / 100 < f.projected

theorem fastOverload_iff {st : ShedState} :
    (fastTested st && fastOverloaded p f) = true ↔ FastOverload p f st := by
  rw [FastOverload, Bool.and_eq_true, fastOverloaded, decide_eq_true_iff]
  cases st <;> simp [fastTested, permitted]

/-- The actions of the fast shed (R149). -/
def fastActions (p : Part) (i : IslandNo) (f : Figures) : List ShedAction :=
  (selectionFor p i 0 (f.projected - f.capacity * (p.cfg.plant.ceiling : Int) / 100)).actions

theorem overloadTests_fast (h : FastOverload p f (island p i).shed.state) :
    overloadTests i f p = fastShed i .fastOverload (fastActions p i f) p := if_pos (fastOverload_iff.2 h)

theorem overloadTests_paced (h : ¬FastOverload p f (island p i).shed.state) : overloadTests i f p = pacedTest i f p :=
  if_neg (mt fastOverload_iff.1 h)

/-- A share period with a fast overload sheds the selection for it (R149). -/
theorem shedPeriod_sheds (hpair : p.cfg.shedList.Pairwise fun a b => a.consumer ≠ b.consumer)
    (h : FastOverload p f (island p i).shed.state) {a : ShedAction} (ha : a ∈ fastActions p i f) :
    (shedPeriod i f counted p).entry[a.consumer].state = some .shedPending
    ∧ (shedPeriod i f counted p).entry[a.consumer].cause = some .fastOverload
    ∧ Raised p (shedPeriod i f counted p) (.consumer a.consumer a.means.order)
    ∧ Flagged (shedPeriod i f counted p) .fastShed := by
  obtain ⟨w, hw⟩ : ∃ w, w = rebuildWith i f counted p := ⟨_, rfl⟩
  have hnoted : Noted p w := hw ▸ (Noted.refl p).rebuildWith i f counted
  have hactions : fastActions w i f = fastActions p i f := by
    rw [fastActions, hnoted.cfg, selectionFor_noted hnoted, fastActions]
  have hrun := overloadTests_fast (p := w) (i := i) (f := f) (by
    rw [hnoted.shed, FastOverload, hnoted.cfg]
    exact h)
  rw [hactions] at hrun
  obtain ⟨hnodup, hsheddable⟩ := selection_sheddable (p := w) (i := i) (by rw [hnoted.cfg]; exact hpair) 0
    (f.projected - f.capacity * (w.cfg.plant.ceiling : Int) / 100)
  change ((fastActions w i f).map _).Nodup at hnodup
  change ∀ a ∈ fastActions w i f, _ at hsheddable
  rw [hactions] at hnodup hsheddable
  obtain ⟨e, he⟩ := hsheddable a ha
  obtain ⟨⟨hentry, hraised⟩, hflag⟩ := fastShed_shed (cause := .fastOverload) hnodup ha he
  rw [← hrun] at hentry hraised hflag
  have hraised' : Raised p (overloadTests i f w) (.consumer a.consumer a.means.order) :=
    raised_since hraised (by rw [hnoted.nextOrder])
  rcases shedPeriod_cases i f counted p with hcase | hcase <;> rw [hcase, ← hw]
  · rw [hentry]
    exact ⟨rfl, rfl, hraised', hflag⟩
  · have hne : (overloadTests i f w).entry[a.consumer].state ≠ some .shed := by
      rw [hentry]
      exact nofun
    have hsame : (tryRestore i f (overloadTests i f w)).entry[a.consumer] = (overloadTests i f w).entry[a.consumer] :=
      tryRestore_entry hne
    rw [hsame, hentry]
    exact ⟨rfl, rfl, tryRestore_raised hne hraised', handing_tryRestore (units_flag .fastShed).toHanding i f hflag⟩

/-- The burst that it joins (R147). -/
theorem shedPeriod_burst (hi : p.islands[i].isSome = true)
    (hpair : p.cfg.shedList.Pairwise fun a b => a.consumer ≠ b.consumer) (h : FastOverload p f (island p i).shed.state) :
    (island (shedPeriod i f counted p) i).shed
      = burstContext p.clock ((fastActions p i f).map ShedAction.consumer) (island p i).shed := by
  obtain ⟨w, hw⟩ : ∃ w, w = rebuildWith i f counted p := ⟨_, rfl⟩
  have hnoted : Noted p w := hw ▸ (Noted.refl p).rebuildWith i f counted
  have hactions : fastActions w i f = fastActions p i f := by
    rw [fastActions, hnoted.cfg, selectionFor_noted hnoted, fastActions]
  have hrun := overloadTests_fast (p := w) (i := i) (f := f) (by
    rw [hnoted.shed, FastOverload, hnoted.cfg]
    exact h)
  obtain ⟨hnodup, hsheddable⟩ := selection_sheddable (p := w) (i := i) (by rw [hnoted.cfg]; exact hpair) 0
    (f.projected - f.capacity * (w.cfg.plant.ceiling : Int) / 100)
  have habandoned : Handed w (abandonRestore i w) := (Handed.refl w).abandonRestore i
  have hqueued : (fastHanded i .fastOverload (fastActions w i f) w).queued = (fastActions w i f).map ShedAction.consumer := by
    refine (takeActions_all (o := noneHanded (abandonRestore i w)) hnodup fun a ha => ?_).trans (List.nil_append _)
    obtain ⟨e, he⟩ := hsheddable a ha
    exact ⟨e, he.handed habandoned (abandonRestore_entry i (by rw [he.2.2]; exact nofun))⟩
  have hheld := field_of_held (shedPeriod_held i f counted p) i
  refine (congrArg Prod.fst hheld).trans ?_
  rw [← hw]
  change (island (overloadTests i f w) i).shed = _
  rw [hrun, fastShed_context ((hnoted.isSome i).trans hi), hqueued, hactions, hnoted.clock, hnoted.shed]

/-- A context that a burst has joined (R147). -/
theorem burst_context {now : Nat} {joined : List ConsumerNo} {x r : ShedContext} (h : x = burstContext now joined r) :
    x.burst = r.burst ++ joined.filter (fun c => !r.burst.contains c) ∧ (x.burst ≠ [] → x.state = .burst)
    ∧ (x.burst = [] → x.state = .postCheck ∧ x.checkTimer = some (now + 1000)) := by
  obtain ⟨burst, hburst⟩ : ∃ b, b = r.burst ++ joined.filter (fun c => !r.burst.contains c) := ⟨_, rfl⟩
  have hx : x = { r with
      state := if burst.isEmpty then .postCheck else .burst
      burst := burst
      checkTimer := if burst.isEmpty then some (now + 1000) else none
      pacerTimer := none
      stepConsumer := none
      saved := match r.saved with | some s => some s | none => pacedPhase now r } := by
    rw [h, hburst]
    rfl
  rw [hx, ← hburst]
  refine ⟨rfl, fun hne => if_neg ?_, fun hnil => ⟨if_pos ?_, if_pos ?_⟩⟩
  · rw [List.isEmpty_iff]
    exact hne
  · exact List.isEmpty_iff.2 hnil
  · exact List.isEmpty_iff.2 hnil

/-- Without one, the paced test (R150). -/
theorem shedPeriod_paced (h : ¬FastOverload p f (island p i).shed.state) :
    (island (shedPeriod i f counted p) i).shed = (island (pacedTest i f (rebuildWith i f counted p)) i).shed := by
  obtain ⟨w, hw⟩ : ∃ w, w = rebuildWith i f counted p := ⟨_, rfl⟩
  have hnoted : Noted p w := hw ▸ (Noted.refl p).rebuildWith i f counted
  have hrun := overloadTests_paced (p := w) (i := i) (f := f) (by
    rw [hnoted.shed, FastOverload, hnoted.cfg]
    exact h)
  have hheld := field_of_held (shedPeriod_held i f counted p) i
  refine (congrArg Prod.fst hheld).trans ?_
  rw [← hw, ← hrun]
  rfl

end

/-! ### The stages -/

theorem sharePeriodDue_none {p : Part} {i : IslandNo} (h : periodDue p i = none) : sharePeriodDue i p = p := by
  unfold sharePeriodDue
  rw [h]

/-- Settles O28: the stages as they are named, and each unit's part of them. -/
theorem sharePeriodStages : Obligations.SharePeriodStages := by
  unfold Obligations.SharePeriodStages
  refine ⟨fun p w i ha => ⟨fun h => running_of_eq ha (sharePeriodDue_none h), fun d hd => ?_⟩, fun p k => ?_,
    fun p i f q0 rest hi hq => ?_, fun p i f counted r hr hpair => ?_⟩
  · intro c completed planned reserved shed
    have hrun : sharePeriodDue i p = shed := by
      unfold sharePeriodDue
      rw [hd]
      rfl
    refine ⟨running_of_eq ha hrun, ?_⟩
    have hbeside : Beside (at' d p) shed :=
      units_beginSharePeriod (units_beside (at' d p)) i (p := at' d p) (.refl _)
    exact hbeside.sameAside
  · exact ⟨fun j hj => (rampComplete_steps k p).others j hj, rampComplete_in, fun h hc hr => rampComplete_opens h hc hr,
      fun h hfull hq hc => rampComplete_full h hc hfull hq, rampComplete_none⟩
  · intro q
    obtain ⟨hqueue, hgrants, hentry⟩ := reservePeriod_island i f p
    refine ⟨(handing_reservePeriod (units_beside p).toHanding i f (.refl p)).sameAside, reservePeriod_history i f p,
      fun h hc hnone hroom => reservePeriod_grants hi hq h hc hnone hroom, fun h => ?_⟩
    rw [considerHead_stays hq h] at hqueue hgrants hentry
    exact ⟨hqueue.trans hq, hgrants, hentry⟩
  · intro q floorOf fast overload
    have hi : p.islands[i].isSome = true := by rw [hr]; rfl
    have hisland : island p i = r := island_some hr
    have hfast : fast ↔ FastOverload p f (island p i).shed.state := by
      rw [hisland]
      exact Iff.rfl
    have hnoted : Noted p (rebuildWith i f counted p) := (Noted.refl p).rebuildWith i f counted
    have hover : overloaded (rebuildWith i f counted p) f = true ↔ overload := by
      rw [overloaded_iff, hnoted.cfg]
    have hpaced := pacedTest_shed (p := rebuildWith i f counted p) ((hnoted.isSome i).trans hi) f
    rw [hnoted.shed, hisland, hnoted.clock, hnoted.cfg] at hpaced
    obtain ⟨hconfirms, hcalms, hstays⟩ := hpaced
    have hend : ¬fast → (island q i).shed = (island (pacedTest i f (rebuildWith i f counted p)) i).shed := fun h =>
      shedPeriod_paced (mt hfast.2 h)
    refine ⟨(handing_shedPeriod (units_beside p).toHanding i f counted (.refl p)).sameAside,
      sameHistory_trans hnoted.history (sameHistory_trans (overloadTests_history i f _)
        fun j => congrArg Prod.snd (field_of_held (shedPeriod_held i f counted p) j)),
      shedPeriod_rebuilt hi f counted, fun h => ?_, fun h hs ho => (hend h).trans (hconfirms hs (hover.2 ho)),
      fun h hs ho => (hend h).trans (hcalms hs (Bool.eq_false_iff.2 (mt hover.1 ho))),
      fun h hidle hconf => (hend h).trans (hstays (fun hs => Bool.eq_false_iff.2 (mt hover.1 (hidle hs)))
        fun hs => hover.2 (hconf hs))⟩
    intro actions
    have hburst := shedPeriod_burst (counted := counted) hi hpair (hfast.1 h)
    rw [hisland] at hburst
    exact ⟨fun a ha => shedPeriod_sheds hpair (hfast.1 h) ha, burst_context hburst⟩

end Sys2Proof.Proofs
end

section
/-! The last breaker of an island opens (R112, R119, R153), with an order of the normal class in the urgent queue. The model gives no
reason why the urgent queue should hold urgent orders alone (R27, R28): no hypothesis of the statement says so. The shed order joins
behind it, and the DENY that follows finds the misplaced order first, is of its class, and takes the place of every order of the
consumer: the shed order is lost, where in the order of R27 it is handed over again (R144). -/

namespace Sys2Proof.Proofs

open Sys2Proof.Machine Sys2Proof.Claims

/-- The entry of consumer 1, with a station. -/
def lostEntry : EntryConfig := { EntryConfig.blank 0 with station := 2 }

/-- Set 1 alone has a station. -/
def lostSet : SetConfig := { SetConfig.default with station := 1 }

/-- Set 1 alone on the bus of island A, consumer 1 CONNECTED there with a request in the heavy queue, and a GRANT of the normal class
for consumer 1 in the urgent queue. -/
def misplaced : Part :=
  { State.reset.part with
    cfg := { Configuration.default with sets := Configuration.default.sets.set 0 lostSet, shedList := [lostEntry] }
    setImage := State.reset.part.setImage.set 0 { SetImage.reset with closed := true }
    seq := State.reset.part.seq.set 0 { SeqRecord.reset with state := some .onBus }
    entry := State.reset.part.entry.set 0 { EntryRecord.reset with state := some .connected }
    urgent := [{ serial := 0, body := .consumer 0 .grant, urgent := false }]
    islands := State.reset.part.islands.set 0 (some { Island.fresh with
      reserve := { Island.fresh.reserve with
        queue := [{ consumer := 0, kw := 1, arrival := 0, deadline := none }] } }) }

/-- The part after the breaker's opening. -/
def afterOpening : Part := deliverRecord (.set 0 false false 0 false) misplaced

theorem misplaced_running : Running misplaced := by
  unfold Running Awake
  decide +kernel

theorem misplaced_fits : misplaced.cfg.fits := by
  obtain ⟨hsets, -, hplant, -, -, hstandby, hnodup⟩ := default_fits
  refine ⟨fun k => ?_, fun e he => ?_, hplant, by decide, List.pairwise_singleton _ _, hstandby, hnodup⟩
  · by_cases hk : k = 0
    · subst hk
      change SetConfig.fits lostSet
      simp [lostSet, SetConfig.default, SetConfig.fits, Config.stationMax]
    · have hsame : misplaced.cfg.sets[k] = Configuration.default.sets[k] :=
        Vector.getElem_set_ne (by decide) k.isLt fun h => hk (Fin.ext h.symm)
      rw [hsame]
      exact hsets k
  · obtain rfl := List.mem_singleton.mp he
    simp [lostEntry, EntryConfig.blank, EntryConfig.fits, Config.stationMax]

/-- No shed order of consumer 1 is left. -/
theorem afterOpening_lost :
    ((afterOpening.urgent ++ afterOpening.normal).all fun o => o.body != .consumer 0 .trip) = true
    ∧ afterOpening.fieldTx.isNone = true := by decide +kernel

theorem not_raised_trip : ¬ Raised misplaced afterOpening (.consumer 0 .trip) := by
  obtain ⟨hall, hidle⟩ := afterOpening_lost
  rintro ⟨o, hbody, -, ho | ho⟩
  · have hne := List.all_eq_true.mp hall o ho
    rw [hbody] at hne
    exact absurd hne (by decide)
  · rw [Option.isNone_iff_eq_none.mp hidle] at ho
    exact nomatch ho

/-- Refutes O15: the breaker of set 1 opens, island A goes DEAD, and the TRIP of consumer 1 is in no queue. -/
theorem not_setLossShedsSelection : ¬ Obligations.SetLossShedsSelection := by
  unfold Obligations.SetLossShedsSelection
  rintro ⟨-, hdead, -⟩
  have hopens := hdead misplaced 0 0 false 0 false .onBus misplaced_running misplaced_fits
    (by decide +kernel) (by decide +kernel) (by decide +kernel) (by decide +kernel)
  obtain ⟨q, hq, -, -, -, -, -, -, -, hsheds, -⟩ := hopens
  obtain ⟨-, -, -, hraised⟩ := hsheds lostEntry (List.mem_singleton.mpr rfl) (by decide +kernel) (by decide +kernel) rfl
  have hend : q = afterOpening := hq
  rw [hend] at hraised
  exact not_raised_trip hraised

end Sys2Proof.Proofs
end

section
/-! An island splits (R20, R119, R121, R153) where the shed list names one consumer twice, in two sections. The model gives no reason
why each consumer should be listed once (R123): no hypothesis of the statement says so. The heavy grant of the consumer goes with its
first entry to the part that stays LIVE; the clearing of the DEAD part sheds its second entry, and the TRIP takes the place of the
consumer's GRANT, so that the grant is released. -/

namespace Sys2Proof.Proofs

open Sys2Proof.Machine Sys2Proof.Claims

/-- The entry of consumer 1 in this section. -/
def twiceEntry (s : SectionNo) : EntryConfig := { EntryConfig.blank 0 with sect := s, station := 2 }

/-- The grant of consumer 1. -/
def twiceGrant : HeavyGrant := { consumer := 0, kw := 1, hold := none, serial := 0 }

/-- Sections A and B joined by tie 1, set 1 on the bus in A, consumer 1 listed in A and in B and CONNECTED, its grant held and its
GRANT queued. -/
def twiceListed : Part :=
  { State.reset.part with
    cfg :=
      { Configuration.default with
        sets := Configuration.default.sets.set 0 { SetConfig.default with station := 1 }
        shedList := [twiceEntry 0, twiceEntry 1]
        plant := { PlantConfig.default with tiePresent := #v[true, false, false, false], tieStation := #v[3, 0, 0, 0] } }
    setImage := State.reset.part.setImage.set 0 { SetImage.reset with closed := true }
    seq := State.reset.part.seq.set 0 { SeqRecord.reset with state := some .onBus }
    entry := State.reset.part.entry.set 0 { EntryRecord.reset with state := some .connected }
    normal := [{ serial := 0, body := .consumer 0 .grant, urgent := false }]
    tieImage := State.reset.part.tieImage.set 0 { closed := true, fresh := Fresh.reset }
    tieJoins := #v[true, false, false, false]
    islandMap := some #v[0, 0, 2, 3]
    islands := #v[some { Island.fresh with reserve := { Island.fresh.reserve with grants := [twiceGrant] } }, none,
      some Island.fresh, some Island.fresh] }

theorem twiceListed_running : Running twiceListed := by
  unfold Running Awake
  decide +kernel

theorem twiceListed_map : twiceListed.mapFollows := by
  unfold Part.mapFollows
  decide +kernel

/-- The island of A stays LIVE, and its grant is gone. -/
theorem twiceListed_splits :
    let q := deliverRecord (.tie 0 false) twiceListed
    islandLive q 0 = true ∧ (island q 0).reserve.grants = [] := by decide +kernel

/-- Refutes O37: tie 1 opens, and the grant of consumer 1 does not go with its entry to island A. -/
theorem not_tieRecordRemakesIslands : ¬ Obligations.TieRecordRemakesIslands := by
  unfold Obligations.TieRecordRemakesIslands
  rintro ⟨h, -⟩
  obtain ⟨hlive, hlost⟩ := twiceListed_splits
  obtain ⟨-, hsplits⟩ := h twiceListed 0 false #v[0, 0, 2, 3] twiceListed_running twiceListed_map rfl (by decide +kernel)
    (by decide +kernel)
  obtain ⟨-, -, -, -, -, -, -, -, -, -, -, -, -, -, -, -, hparts, -⟩ := hsplits (by decide +kernel)
  obtain ⟨-, -, hshared, -⟩ := hparts 1 0 (by decide) (by decide +kernel) (.inr (by decide))
  obtain ⟨-, hgrants⟩ := hshared hlive
  have hkept := hlost.symm.trans hgrants
  exact absurd hkept (by decide +kernel)

end Sys2Proof.Proofs
end

section
/-! A condition of the heavy queues, the held grants, the entries and the shed histories: kept by whatever leaves them alone, by
what only takes a consumer's place away, and by an entry's change that its record allows (R114, R119, R126, R144, R156 to R161).
-/

namespace Sys2Proof.Proofs

open Sys2Proof.Machine Sys2Proof.Claims Sequenced

/-! ### What such a condition reads -/

/-- What it reads of an island record. -/
def ledger (r : Island) := (r.reserve.queue, r.reserve.grants, r.history)

/-- What it reads of the part but for the clock. -/
def ledgers (p : Part) := (p.phase, p.islandMap, p.cfg.shedList, p.entry, held ledger p)

theorem bystander_ledgers : Bystander ledgers :=
  ⟨⟨fun _ _ _ _ _ => rfl, fun _ _ _ _ _ => rfl, fun _ _ _ _ => rfl⟩, fun _ _ => rfl, fun _ _ => rfl, fun _ _ => rfl,
    fun _ _ => rfl, fun _ _ => rfl⟩

theorem ledgers_onIsland {p : Part} {i : IslandNo} {f : Island → Island} (hf : ∀ r, ledger (f r) = ledger r) :
    ledgers (onIsland i f p) = ledgers p := by
  unfold ledgers
  rw [held_onIsland hf]
  rfl

/-- What a condition of the histories reads of one record. -/
def stamp (h : HistoryRecord) := (h.consumer, h.time)

/-- The states in which an entry may have a history record (R156). -/
def Recorded (s : Option EntryState) : Prop := s = some .shed ∨ s = some .restorePending

/-- An island record holds no consumer's request, grant or history record that another one does not hold. -/
def Lessened (r' r : Island) : Prop :=
  r'.reserve.consumers.Subperm r.reserve.consumers ∧ (r'.history.map stamp).Sublist (r.history.map stamp)

theorem Lessened.of_reserve {r' r : Island} (hr : r'.reserve.consumers.Subperm r.reserve.consumers)
    (hh : r'.history = r.history) : Lessened r' r := ⟨hr, hh ▸ .refl _⟩

theorem Lessened.of_history {r' r : Island} (hr : r'.reserve = r.reserve)
    (hh : (r'.history.map stamp).Sublist (r.history.map stamp)) : Lessened r' r := ⟨hr ▸ .refl _, hh⟩

/-- The primitive changes that the condition is kept by. -/
structure Orderly (I : Part → Prop) : Prop where
  listed : ∀ p, I p → p.cfg.shedList.Pairwise fun a b => a.consumer ≠ b.consumer
  same : ∀ p q, ledgers q = ledgers p → p.clock ≤ q.clock → I p → I q
  shrinks : ∀ p i (f : Island → Island), (∀ r, p.islands[i] = some r → Lessened (f r) r) → I p → I (onIsland i f p)
  enters : ∀ p c (f : EntryRecord → EntryRecord), (f p.entry[c]).state.isSome = p.entry[c].state.isSome →
    (Recorded p.entry[c].state → Recorded (f p.entry[c]).state) → I p → I (onEntry c f p)
  frees : ∀ p c, p.entry[c].state.isSome = true → I p → I (enterEntry c .connected (removeRecord c p))

variable {I : Part → Prop} {p : Part}

namespace Orderly

theorem onIsland (h : Orderly I) (i : IslandNo) {f : Island → Island} (hf : ∀ r, ledger (f r) = ledger r) (hp : I p) :
    I (Machine.onIsland i f p) := h.same p _ (ledgers_onIsland hf) le_rfl hp

theorem onShed (h : Orderly I) (i : IslandNo) (f : ShedContext → ShedContext) (hp : I p) : I (Machine.onShed i f p) :=
  h.onIsland i (fun _ => rfl) hp

theorem onRestore (h : Orderly I) (i : IslandNo) (f : RestoreContext → RestoreContext) (hp : I p) :
    I (Machine.onRestore i f p) := h.onIsland i (fun _ => rfl) hp

theorem onReserve (h : Orderly I) (i : IslandNo) {f : ReserveRecord → ReserveRecord}
    (hf : ∀ r, (f r).consumers.Subperm r.consumers) (hp : I p) : I (Machine.onReserve i f p) :=
  h.shrinks p i _ (fun r _ => .of_reserve (hf r.reserve) rfl) hp

theorem occur (h : Orderly I) (k : EventKind) (o : EventObject) (hp : I p) : I (Machine.occur k o p) := by
  refine h.same p _ (bystander_ledgers.occur k o p) ?_ hp
  obtain ⟨f, r, t, n, e⟩ := occur_eq k o p
  rw [e]

theorem handOver (h : Orderly I) (b : OrderBody) (u : Bool) (hp : I p) : I (Machine.handOver b u p).part := by
  refine h.same p _ (bystander_ledgers.handOver b u p) ?_ hp
  obtain ⟨x, y, n, f, r, t, m, v, e⟩ := handOver_eq b u p
  rw [e]

theorem dropQueued (h : Orderly I) (o : ObjectRef) (hp : I p) : I (Machine.dropQueued o p) := h.same p _ rfl le_rfl hp

/-- The operations of the Set Sequencer leave the condition's fields alone. -/
theorem steps (h : Orderly I) {k : SetNo} {q : Part} (hs : Steps k p q) (hp : I p) : I q := by
  refine h.same p q ?_ ?_ hp
  all_goals
    obtain ⟨_, _, _, _, _, _, _, _, _, rfl⟩ := hs.fields
    rfl

theorem tests (h : Orderly I) : Tests I where
  share p _ hp := h.same p _ rfl le_rfl hp
  gov p _ _ hp := h.same p _ rfl le_rfl hp
  selection p _ hp := h.same p _ rfl le_rfl hp
  inFlight p _ hp := h.same p _ rfl le_rfl hp
  occurs _ k o hp := h.occur k o hp
  tables _ i f hf hp := h.onIsland i (fun r => by
    have := hf r
    simp only [Island.kept, Prod.mk.injEq] at this
    obtain ⟨hqueue, hgrants, -, -, hhistory⟩ := this
    simp only [ledger, hqueue, hgrants, hhistory]) hp
  starts p k hp := h.steps (startRequest_steps k p) hp
  abandons p k hp := h.steps (abandonRequest_steps k p) hp

theorem steady (h : Orderly I) : Steady I := h.tests.toSteady

theorem rebuild (h : Orderly I) (i : IslandNo) (hp : I p) : I (Machine.rebuild i p) := steady_rebuild h.steady i hp

theorem rebuildFor (h : Orderly I) (c : ConsumerNo) (hp : I p) : I (Machine.rebuildFor c p) :=
  steady_rebuildFor h.steady c hp

theorem handOn (h : Orderly I) (o : Sequenced) (ho : I o.part) : I o.handOn := tests_handOn h.tests o ho

theorem testIsland (h : Orderly I) (i : IslandNo) (hp : I p) : I (Machine.testIsland i p) := tests_testIsland h.tests i hp

theorem takeFigures (h : Orderly I) (i : IslandNo) (hp : I p) : I (Machine.takeFigures i p) :=
  steady_takeFigures h.steady i hp

theorem reach (h : Orderly I) (d : Nat) (hp : I p) : I (Machine.reach d p) := h.same p _ rfl (Nat.le_max_left _ _) hp

/-! ### Grants -/

theorem dropGrant (h : Orderly I) (i : IslandNo) (c : ConsumerNo) (hp : I p) : I (Machine.dropGrant i c p) :=
  h.onReserve i (fun _ => ((List.Sublist.refl _).append (List.filter_sublist.map _)).subperm) hp

theorem releaseGrant (h : Orderly I) (c : ConsumerNo) (hp : I p) : I (Machine.releaseGrant c p) := by
  unfold Machine.releaseGrant
  split
  · exact h.testIsland _ (h.dropGrant _ c hp)
  · exact hp

theorem grantLost (h : Orderly I) (o : Order) (hp : I p) : I (Machine.grantLost o p) := by
  unfold Machine.grantLost
  split
  · split
    · split
      · exact h.releaseGrant _ hp
      · exact hp
    · exact hp
  · exact hp

theorem heavyReplaced (h : Orderly I) (o : Option Order) (hp : I p) : I (Machine.heavyReplaced o p) := by
  unfold Machine.heavyReplaced
  split
  · exact h.grantLost _ hp
  · exact hp

theorem grantSent (h : Orderly I) (c : ConsumerNo) (serial : Nat) (hp : I p) : I (Machine.grantSent c serial p) := by
  refine fold_keeps _ _ (fun q i hq => h.onReserve i (fun r => ?_) hq) hp
  refine (List.Perm.of_eq ?_).subperm
  simp only [ReserveRecord.consumers, List.map_map]
  refine congrArg _ (List.map_congr_left fun g _ => ?_)
  simp only [Function.comp_apply]
  split <;> rfl

theorem drawReported (h : Orderly I) (c : ConsumerNo) (hp : I p) : I (Machine.drawReported c p) := by
  unfold Machine.drawReported
  split
  · split
    · exact h.releaseGrant c hp
    · exact hp
  · exact hp

/-! ### Entries and histories -/

theorem removeRecord (h : Orderly I) (c : ConsumerNo) (hp : I p) : I (Machine.removeRecord c p) :=
  fold_keeps _ _ (fun q i hq => h.shrinks q i _ (fun _ _ => .of_history rfl (List.filter_sublist.map _)) hq) hp

theorem changeRecord (h : Orderly I) (c : ConsumerNo) {f : HistoryRecord → HistoryRecord} (hf : ∀ g, stamp (f g) = stamp g)
    (hp : I p) : I (Machine.changeRecord c f p) := by
  refine fold_keeps _ _ (fun q i hq => h.shrinks q i _ (fun r _ => .of_history rfl ?_) hq) hp
  rw [List.map_map, List.map_congr_left (g := stamp) fun g _ => ?_]
  simp only [Function.comp_apply]
  split
  · exact hf g
  · rfl

/-- An entry enters a state from one in which it has no record, or one with a record from the other. -/
theorem enterEntry (h : Orderly I) (c : ConsumerNo) (st : EntryState) (hs : p.entry[c].state.isSome = true)
    (hr : Recorded p.entry[c].state → Recorded (some st)) (hp : I p) : I (Machine.enterEntry c st p) :=
  h.enters p c _ hs.symm hr hp

theorem retrigger (h : Orderly I) (i : IslandNo) (hp : I p) : I (Machine.retrigger i p) := by
  unfold Machine.retrigger
  split
  · exact h.onIsland i (fun _ => rfl) hp
  · exact hp

theorem endStepFor (h : Orderly I) (c : ConsumerNo) (hp : I p) : I (Machine.endStepFor c p) :=
  fold_keeps _ _ (fun _ i hq => h.onIsland i (fun r => by split <;> rfl) hq) hp

theorem endShedFor (h : Orderly I) (c : ConsumerNo) (hp : I p) : I (Machine.endShedFor c p) :=
  fold_keeps _ _ (fun _ i hq => h.onShed i _ hq) hp

theorem entryShedFailed (h : Orderly I) (c : ConsumerNo) (hs : p.entry[c].state = some .shedPending) (hp : I p) :
    I (Machine.entryShedFailed c p) := by
  have hstate : (Machine.occur .tripFail (.consumer c) p).entry[c].state = some .shedPending := by
    rw [entry_get (occur_entry _ _ _)]
    exact hs
  have hfree : ∀ st, Recorded (Machine.occur .tripFail (.consumer c) p).entry[c].state → Recorded (some st) := by
    intro st hr
    rw [hstate] at hr
    exact absurd hr (by simp [Recorded])
  have hentered (st : EntryState) : I (Machine.enterEntry c st (Machine.occur .tripFail (.consumer c) p)) :=
    h.enterEntry c st (by rw [hstate]; rfl) (hfree st) (h.occur _ _ hp)
  unfold Machine.entryShedFailed
  extract_lets failed
  split
  · exact h.enters _ c _ rfl id (hentered .connected)
  · exact hentered .openExternal

/-- A shed order's outcome other than its confirmation (R144). -/
theorem shedOutcome (h : Orderly I) (c : ConsumerNo) {out : OrderOutcome} (hout : out ≠ .confirmed) (hp : I p) :
    I (Machine.shedOutcome c out p) := by
  unfold Machine.shedOutcome
  split
  case isTrue hpending =>
    have hfailed := h.rebuildFor c (h.endShedFor c (h.entryShedFailed c (entryIs_iff.1 hpending) hp))
    cases out with
    | confirmed => exact absurd rfl hout
    | timedOut | superseded => exact hfailed
    | withdrawn | replaced | notQueued | sent => exact h.endShedFor c hp
  case isFalse => exact h.endShedFor c hp

theorem entryRestored (h : Orderly I) (c : ConsumerNo) (out : OrderOutcome) (hs : p.entry[c].state = some .restorePending)
    (hp : I p) : I (Machine.entryRestored c out p) := by
  have hshed {q : Part} (hq : q.entry[c].state = some .restorePending) (hI : I q) : I (Machine.enterEntry c .shed q) :=
    h.enterEntry c .shed (by rw [hq]; rfl) (fun _ => .inl rfl) hI
  unfold Machine.entryRestored
  split
  · exact h.occur _ _ (h.frees p c (by rw [hs]; rfl) hp)
  iterate 2
    refine hshed ?_ (h.enters _ c _ rfl id (h.occur _ _ hp))
    rw [onEntry_self, entry_get (occur_entry _ _ _)]
    exact hs
  all_goals exact hshed hs hp

theorem restoreOutcome (h : Orderly I) (c : ConsumerNo) (out : OrderOutcome) (hp : I p) : I (Machine.restoreOutcome c out p) := by
  unfold Machine.restoreOutcome
  split
  case isTrue hpending => exact h.rebuildFor c (h.endStepFor c (h.entryRestored c out (entryIs_iff.1 hpending) hp))
  case isFalse => exact h.endStepFor c hp

theorem withdrawRestore (h : Orderly I) (c : ConsumerNo) (hp : I p) : I (Machine.withdrawRestore c p) := by
  unfold Machine.withdrawRestore
  split
  · exact h.restoreOutcome c _ (h.dropQueued _ hp)
  · exact hp

theorem abandonRestore (h : Orderly I) (i : IslandNo) (hp : I p) : I (Machine.abandonRestore i p) := by
  unfold Machine.abandonRestore
  refine h.onRestore i _ ?_
  split
  · exact h.withdrawRestore _ hp
  · exact hp

theorem externalChange (h : Orderly I) (c : ConsumerNo) (old : ConsumerImage) (hp : I p) : I (Machine.externalChange c old p) := by
  have hmoved {st st' : EntryState} (hs : p.entry[c].state = some st) (hst : ¬Recorded (some st)) :
      I (Machine.enterEntry c st' p) := h.enterEntry c st' (by rw [hs]; rfl) (fun hr => absurd (hs ▸ hr) hst) hp
  have hfreed {st : EntryState} (hs : p.entry[c].state = some st) : I (restoredOutside c p) := h.frees p c (by rw [hs]; rfl) hp
  unfold Machine.externalChange
  extract_lets now kind
  split
  case h_1 hs =>
    split
    · exact h.rebuildFor c (hmoved hs (by simp [Recorded]))
    · exact hp
  case h_2 hs =>
    split
    · exact h.rebuildFor c (hmoved hs (by simp [Recorded]))
    · exact hp
  case h_3 hs =>
    split
    · exact h.rebuildFor c (hfreed hs)
    · exact hp
  case h_4 hs =>
    split
    · exact h.withdrawRestore c (h.rebuildFor c (hfreed hs))
    · exact hp
  all_goals exact hp

/-! ### Heavy requests -/

theorem handHeavy (h : Orderly I) (c : ConsumerNo) (a : ConsumerOrder) (hp : I p) : I (Machine.handHeavy c a p).part := by
  unfold Machine.handHeavy
  extract_lets handed
  have hhanded : I handed.part := h.handOver _ _ hp
  split
  · split
    · exact h.handOver _ _ hhanded
    · split
      · exact h.restoreOutcome c _ hhanded
      · exact h.grantLost _ hhanded
  · exact hhanded

theorem deny (h : Orderly I) (c : ConsumerNo) (hp : I p) : I (Machine.deny c p) := h.occur _ _ (h.handHeavy c _ hp)

end Orderly

/-- A queue given its head's deadline names the same consumers. -/
theorem headed_consumers (d : Nat) (q : List HeavyRequest) :
    (headed d q).map HeavyRequest.consumer = q.map HeavyRequest.consumer := by
  cases q with
  | nil => rfl
  | cons r rest => simp [headed]

theorem consumers_headed (d : Nat) (q : List HeavyRequest) (g : List HeavyGrant) (r : ReserveRecord) :
    ReserveRecord.consumers { r with queue := headed d q, grants := g }
      = q.map HeavyRequest.consumer ++ g.map HeavyGrant.consumer := by
  rw [ReserveRecord.consumers, headed_consumers]

namespace Orderly

/-- Requests leave a queue or change their kW. -/
theorem onQueue (h : Orderly I) (i : IslandNo) {f : List HeavyRequest → List HeavyRequest}
    (hf : ∀ q, ((f q).map HeavyRequest.consumer).Sublist (q.map HeavyRequest.consumer)) (hp : I p) :
    I (Machine.onQueue i f p) := by
  refine h.onReserve i (fun r => ?_) hp
  rw [consumers_headed]
  exact ((hf r.queue).append (.refl _)).subperm

/-- The head's request becomes a held grant (R115). -/
theorem granted (h : Orderly I) {i : IslandNo} {q : HeavyRequest} {rest : List HeavyRequest} (d kw serial : Nat)
    (hq : (island p i).reserve.queue = q :: rest) (hp : I p) :
    I (Machine.onReserve i (fun r =>
      { r with queue := headed d r.queue.tail,
               grants := r.grants ++ [{ consumer := q.consumer, kw := kw, hold := none, serial := serial }] }) p) := by
  refine h.shrinks p i _ (fun r hr => .of_reserve ?_ rfl) hp
  have hqueue : r.reserve.queue = q :: rest := by rw [← hq, island_some hr]
  dsimp only
  rw [consumers_headed, ReserveRecord.consumers, hqueue]
  refine List.Perm.subperm ?_
  simp only [List.tail_cons, List.map_append, List.map_cons, List.map_nil, List.cons_append, ← List.append_assoc]
  exact List.perm_append_comm

theorem considerHead (h : Orderly I) (i : IslandNo) (spare : Int) (hp : I p) : I (Machine.considerHead i spare p).1 := by
  unfold Machine.considerHead
  split
  case h_1 q rest hq =>
    split
    · extract_lets handed
      have hhanded : I handed.part := h.handHeavy q.consumer .grant hp
      have hqueue : (island handed.part i).reserve.queue = q :: rest := by
        rw [← hq]
        exact (handHeavy_reserve q.consumer .grant p i).1
      split
      · extract_lets granted told
        have htold : I told := h.occur _ _ (h.granted _ _ _ hqueue hhanded)
        split
        · exact h.releaseGrant _ htold
        · exact htold
      · exact hhanded
    · exact hp
  case h_2 => exact hp

end Orderly

end Sys2Proof.Proofs
end

section
/-! The Reserve Unit's and the Shed Unit's operations keep a condition of the heavy queues, the held grants, the entries and the
shed histories (R115 to R117, R143 to R162), and so do changes of marking (R15). -/

namespace Sys2Proof.Proofs

open Sys2Proof.Machine Sys2Proof.Claims Sequenced

variable {I : Part → Prop} {p : Part}

/-- A displaced order changes no entry that waits for no restore order. -/
theorem displaced_entry {c : ConsumerNo} (old : Option Order)
    (hs : p.entry[c].state ≠ some .restorePending) : (Machine.displaced c old p).entry[c] = p.entry[c] := by
  unfold Machine.displaced
  split
  · split
    · exact restoreOutcome_entry c _ hs
    · rfl
  · rfl

namespace Orderly

/-! ### Heavy requests (R115 to R119) -/

theorem reservePeriod (h : Orderly I) (i : IslandNo) (f : Figures) (hp : I p) : I (Machine.reservePeriod i f p) :=
  h.handOn _ (tests_reserveJudge h.tests i _ (h.considerHead i _ hp))

theorem headExpired (h : Orderly I) (i : IslandNo) (hp : I p) : I (Machine.headExpired i p) := by
  unfold Machine.headExpired
  split
  · exact h.testIsland i (h.deny _ (h.onQueue i (fun q => (List.tail_sublist q).map _) hp))
  · exact hp

theorem emptyHeavy (h : Orderly I) (i : IslandNo) (hp : I p) : I (Machine.emptyHeavy i p) := by
  refine fold_keeps _ _ (fun _ r hq => h.deny r.consumer hq) (h.onReserve i (fun r => ?_) hp)
  simp [ReserveRecord.consumers]

theorem forgetHeavy (h : Orderly I) (c : ConsumerNo) (hp : I p) : I (Machine.forgetHeavy c p) := by
  refine h.releaseGrant c ?_
  split
  · exact h.testIsland _ (h.onQueue _ (fun q => List.filter_sublist.map _) hp)
  · exact hp

/-! ### Shed orders (R143) -/

theorem displaced (h : Orderly I) (c : ConsumerNo) (old : Option Order) (hp : I p) : I (Machine.displaced c old p) := by
  unfold Machine.displaced
  split
  · split
    · exact h.restoreOutcome c _ hp
    · exact hp
  · exact hp

theorem pendShed (h : Orderly I) (e : EntryConfig) (relief : Nat) (cause : ShedCause)
    (hs : p.entry[e.consumer].state = some .connected) (hp : I p) : I (Machine.pendShed e relief cause p) := by
  have hentered := h.enterEntry e.consumer .shedPending (by rw [hs]; rfl) (fun hr => absurd (hs ▸ hr) (by simp [Recorded])) hp
  have hpended := h.enters _ e.consumer (fun r => { r with relief := relief, cause := some cause }) rfl id hentered
  unfold Machine.pendShed
  extract_lets pended
  split
  · exact h.retrigger _ hpended
  · exact hpended

/-- A shed order of a CONNECTED entry. -/
theorem hand (h : Orderly I) {o : ShedHanded} {e : EntryConfig} (a : ConsumerOrder) (u : Bool) (cause : ShedCause)
    (hs : o.part.entry[e.consumer].state = some .connected) (ho : I o.part) : I (o.hand e a u cause).part := by
  unfold ShedHanded.hand
  extract_lets relief handed
  have hhanded : I handed.part := h.handOver _ _ ho
  have hstate : handed.part.entry[e.consumer].state = some .connected := by
    rw [entry_get (handOver_entry _ _ _)]
    exact hs
  split
  · refine h.pendShed e _ cause ?_ (h.displaced e.consumer _ hhanded)
    rw [displaced_entry _ (by rw [hstate]; simp)]
    exact hstate
  · exact hhanded

theorem grantsLost (h : Orderly I) (o : ShedHanded) (hp : I p) : I (o.grantsLost p) :=
  fold_keeps _ _ (fun _ r hq => h.grantLost r hq) hp

theorem done (h : Orderly I) (o : ShedHanded) (i : IslandNo) (ho : I o.part) : I (o.done i) := by
  refine h.grantsLost o ?_
  split
  · exact ho
  · exact h.rebuild i ho

theorem takeAction (h : Orderly I) (i : IslandNo) (cause : ShedCause) (o : ShedHanded) (a : ShedAction) (ho : I o.part) :
    I (Machine.takeAction i cause o a).part := by
  unfold Machine.takeAction
  split
  case h_1 e he =>
    split
    case isTrue hc =>
      refine h.hand _ true cause ?_ ho
      have hconnected := entryIs_iff.1 (Bool.and_eq_true_iff.mp hc).2
      simpa only [(entryCfg_some he).1] using hconnected
    case isFalse => exact ho
  case h_2 => exact ho

/-! ### Fast shed and paced shed (R146 to R151) -/

theorem fastShed (h : Orderly I) (i : IslandNo) (cause : ShedCause) (actions : List ShedAction) (hp : I p) :
    I (Machine.fastShed i cause actions p) := by
  unfold Machine.fastShed
  extract_lets handed burst told
  have hhanded : I handed.part := hand_fold _ actions _ (fun o a => h.takeAction i cause o a) (h.abandonRestore i hp)
  have hburst : I burst := h.retrigger i (h.onShed i _ hhanded)
  clear_value burst
  refine h.done _ i ?_
  dsimp only [told]
  split
  · exact hburst
  · exact h.occur _ _ hburst

theorem discardSelection (h : Orderly I) (k : SetNo) (hp : I p) : I (Machine.discardSelection k p) := h.same p _ rfl le_rfl hp

theorem setLoss (h : Orderly I) (k : SetNo) (i : IslandNo) (hp : I p) : I (Machine.setLoss k i p) := by
  unfold Machine.setLoss
  extract_lets actions discarded
  have hdiscarded : I discarded := h.discardSelection k hp
  split
  · exact h.fastShed i _ _ hdiscarded
  · exact hdiscarded

theorem stepExhausted (h : Orderly I) (i : IslandNo) (hp : I p) : I (Machine.stepExhausted i p) := by
  unfold Machine.stepExhausted
  refine h.onShed i _ ?_
  split
  · exact hp
  · exact h.occur _ _ hp

theorem pacedStep (h : Orderly I) (i : IslandNo) (f : Figures) (hp : I p) : I (Machine.pacedStep i f p) := by
  unfold Machine.pacedStep
  split
  case h_1 => exact h.stepExhausted i hp
  case h_2 e he =>
    extract_lets handed stepped
    have hhanded : I handed.part := h.hand _ true .paced (connected_of_eligible (List.find?_some he)) hp
    split
    · exact hhanded
    · exact h.done _ i (h.occur _ _ (h.onShed i _ hhanded))

theorem pacedTest (h : Orderly I) (i : IslandNo) (f : Figures) (hp : I p) : I (Machine.pacedTest i f p) := by
  unfold Machine.pacedTest
  split
  · split
    · exact h.retrigger i (h.onShed i _ hp)
    · exact hp
  · split
    · exact hp
    · exact h.onShed i _ hp
  all_goals exact hp

theorem checkExpired (h : Orderly I) (i : IslandNo) (hp : I p) : I (Machine.checkExpired i p) := by
  have htaken := h.takeFigures i hp
  unfold Machine.checkExpired
  extract_lets f taken
  split
  · split
    · exact h.onShed i _ htaken
    · exact h.pacedStep i _ (h.onShed i _ htaken)
  · exact h.onShed i _ htaken

theorem pacerExpired (h : Orderly I) (i : IslandNo) (hp : I p) : I (Machine.pacerExpired i p) := by
  have htaken := h.takeFigures i hp
  unfold Machine.pacerExpired
  extract_lets f taken
  split
  · exact h.pacedStep i _ htaken
  · exact h.onShed i _ htaken

/-! ### Restore steps (R160, R161) -/

theorem restoreStepFor (h : Orderly I) (i : IslandNo) (c : ConsumerNo) (hs : p.entry[c].state = some .shed) (hp : I p) :
    I (Machine.restoreStepFor i c p) := by
  unfold Machine.restoreStepFor
  extract_lets handed stepped
  have hhanded : I handed.part := h.handOver _ _ hp
  have hstate : handed.part.entry[c].state = some .shed := by
    rw [entry_get (handOver_entry _ _ _)]
    exact hs
  split
  · exact h.heavyReplaced _ (h.rebuildFor c (h.onRestore i _
      (h.enterEntry c .restorePending (by rw [hstate]; rfl) (fun _ => .inr rfl) hhanded)))
  · exact h.onRestore i _ hhanded

theorem tryRestore (h : Orderly I) (i : IslandNo) (f : Figures) (hp : I p) : I (Machine.tryRestore i f p) := by
  unfold Machine.tryRestore
  split
  · exact h.onRestore i _ hp
  · split
    case h_1 g hg =>
      split
      · refine h.restoreStepFor i _ ?_ hp
        have hcandidate := List.find?_some hg
        simp only [isCandidate, Bool.and_eq_true] at hcandidate
        exact entryIs_iff.1 hcandidate.2
      · exact h.onRestore i _ hp
    case h_2 => exact h.onRestore i _ hp

theorem commandRestoreStep (h : Orderly I) (i : IslandNo) (hp : I p) : I (Machine.commandRestoreStep i p).1 := by
  unfold Machine.commandRestoreStep
  split
  · exact h.onRestore i _ hp
  · exact hp

theorem shedPeriod (h : Orderly I) (i : IslandNo) (f : Figures) (counted : List SetNo) (hp : I p) :
    I (Machine.shedPeriod i f counted p) := by
  have hrebuilt := steady_rebuildWith h.steady i f counted hp
  have htested : I (overloadTests i f (rebuildWith i f counted p)) := by
    unfold overloadTests
    split
    · exact h.fastShed i _ _ hrebuilt
    · exact h.pacedTest i f hrebuilt
  unfold Machine.shedPeriod
  extract_lets tested
  split
  · exact h.tryRestore i f htested
  · exact htested

/-! ### Dead islands, manual shed and release (R153 to R155) -/

/-- Shed orders of several CONNECTED entries, one for each consumer. -/
theorem foldl_hand (h : Orderly I) (order : EntryConfig → ConsumerOrder) (u : Bool) (cause : ShedCause) (l : List EntryConfig)
    {o : ShedHanded} (hl : l.Pairwise fun a b => a.consumer ≠ b.consumer)
    (hs : ∀ e ∈ l, o.part.entry[e.consumer].state = some .connected) (ho : I o.part) :
    I (l.foldl (fun o e => o.hand e (order e) u cause) o).part := by
  induction l generalizing o with
  | nil => exact ho
  | cons e l ih =>
    obtain ⟨hne, hl⟩ := List.pairwise_cons.mp hl
    refine ih hl (fun d hd => ?_) (h.hand _ u cause (hs e (.head _)) ho)
    rw [hand_other fun heq => hne d hd heq.symm]
    exact hs d (.tail _ hd)

theorem clearDead (h : Orderly I) (i : IslandNo) (hp : I p) : I (Machine.clearDead i p) := by
  unfold Machine.clearDead
  extract_lets reset handed members
  have hreset : I reset := h.abandonRestore i (h.onShed i _ hp)
  clear_value reset
  refine h.grantsLost _ (h.rebuild i (fold_keeps _ _ (fun _ k hq => h.discardSelection k hq) ?_))
  refine h.foldl_hand _ _ _ _ ((h.listed reset hreset).filter _) (fun e he => ?_) hreset
  have hcleared := (List.mem_filter.mp he).2
  simp only [clearedWhenDead, Bool.and_eq_true] at hcleared
  exact entryIs_iff.1 hcleared.1.2

theorem manualShed (h : Orderly I) (e : EntryConfig) (hp : I p) : I (Machine.manualShed e p).1 := by
  unfold Machine.manualShed
  split
  case h_1 hs =>
    extract_lets handed
    have hhanded : I handed.part := h.hand _ false .manual hs hp
    split
    · exact hhanded
    · split
      · exact h.done _ _ hhanded
      · exact hhanded
  case h_2 => exact h.changeRecord _ (fun _ => rfl) hp
  case h_3 => exact hp

theorem manualRelease (h : Orderly I) (c : ConsumerNo) (hp : I p) : I (Machine.manualRelease c p).1 := by
  have hreleased := h.changeRecord c (f := fun g => if g.cause == .manual then { g with cause := .released } else g)
    (fun g => by split <;> rfl) hp
  unfold Machine.manualRelease
  split
  · extract_lets released
    split
    · exact h.rebuildFor c (h.enters _ c _ rfl id hreleased)
    · exact hreleased
  · exact hp

/-! ### Changes of marking (R15) -/

theorem syncAgree (h : Orderly I) (i : IslandNo) (hp : I p) : I (Machine.syncAgree i p).part := by
  have hfold (l : List SetNo) (o : Sequenced) (ho : I o.part) :
      I (l.foldl (fun o k => if syncDisagrees o.part i k then o.handSync k else o) o).part := by
    induction l generalizing o with
    | nil => exact ho
    | cons k l ih =>
      refine ih _ ?_
      dsimp only
      split
      · exact h.steps (handSync_steps (.refl k o.part)) ho
      · exact ho
  exact hfold _ _ hp

theorem blackoutStart (h : Orderly I) (i : IslandNo) (hp : I p) : I (Machine.blackoutStart i p).part :=
  tests_blackoutStart h.tests i hp

theorem deadIsland (h : Orderly I) (i : IslandNo) (hp : I p) : I (Machine.deadIsland i p) :=
  h.handOn _ (h.blackoutStart i (h.emptyHeavy i (h.onReserve i (fun _ => .refl _) (h.clearDead i hp))))

theorem stopPeriods (h : Orderly I) (i : IslandNo) (hp : I p) : I (Machine.stopPeriods i p) := h.onIsland i (fun _ => rfl) hp

theorem stopPlans (h : Orderly I) (i : IslandNo) (hp : I p) : I (Machine.stopPlans i p) :=
  fold_keeps _ _ (fun q _ hq => h.same q _ rfl le_rfl hq) hp

theorem endPeriods (h : Orderly I) (i : IslandNo) (hp : I p) : I (Machine.endPeriods i p) :=
  fold_keeps _ _ (fun q _ hq => h.same q _ rfl le_rfl hq)
    (fold_keeps _ _ (fun q _ hq => h.same q _ rfl le_rfl hq) (h.stopPlans i (h.stopPeriods i hp)))

theorem beginPeriods (h : Orderly I) (i : IslandNo) (hp : I p) : I (Machine.beginPeriods i p) := h.onIsland i (fun _ => rfl) hp

theorem handMarking (h : Orderly I) (i : IslandNo) (was : Bool) (hp : I p) : I (Machine.handMarking i was p) := by
  unfold Machine.handMarking
  split
  · exact h.deadIsland i (h.endPeriods i (h.handOn _ (h.syncAgree i (h.occur _ _ hp))))
  · exact h.rebuild i (h.retrigger i (steady_clearLow h.steady i (h.beginPeriods i (h.handOn _ (h.syncAgree i hp)))))
  · exact hp

/-! ### Station records of sets (R44, R57, R146) -/

theorem shedBreakerChange (h : Orderly I) (k : SetNo) (lost : Bool) (hp : I p) : I (Machine.shedBreakerChange k lost p) := by
  unfold Machine.shedBreakerChange
  split
  · exact hp
  · refine h.rebuild _ ?_
    split
    · exact h.setLoss k _ hp
    · exact hp

theorem setChanged (h : Orderly I) (k : SetNo) (old : SetImage) (was : Bool) (hp : I p) : I (Machine.setChanged k old was p) := by
  unfold Machine.setChanged
  extract_lets lost raised sequenced marked
  have hraised : I raised := by
    dsimp only [raised]
    split
    · exact h.occur _ _ hp
    · exact hp
  have hsequenced : I sequenced := h.handOn _ (h.steps (recordEvent_steps k raised) hraised)
  clear_value sequenced
  have hmarked : I marked := by
    dsimp only [marked]
    split
    · exact h.handMarking _ was hsequenced
    · exact hsequenced
  split
  · exact hmarked
  · exact h.shedBreakerChange k lost hmarked

theorem setStatus (h : Orderly I) (k : SetNo) (running closed : Bool) (kw : Nat) (trip : Bool) (hp : I p) :
    I (Machine.setStatus k running closed kw trip p) := by
  unfold Machine.setStatus
  extract_lets old wasLive written
  have hwritten : I written := h.same p _ rfl le_rfl hp
  split
  · exact hwritten
  · exact h.setChanged k _ _ hwritten

/-! ### Share periods (R67 to R83, R115, R140) -/

theorem onShares (h : Orderly I) (f : Part → SetNo → ShareRecord → ShareRecord) (l : List SetNo) (hp : I p) :
    I (l.foldl (fun q k => onShare k (f q k) q) p) := fold_keeps _ _ (fun q _ hq => h.same q _ rfl le_rfl hq) hp

theorem computePeriod (h : Orderly I) (i : IslandNo) (hp : I p) : I (Machine.computePeriod i p).1 :=
  h.onIsland i (fun _ => rfl) (h.onShares _ _ (h.onShares _ _ (steady_keepFigures h.steady i _ hp)))

theorem makePlans (h : Orderly I) (i : IslandNo) (origin : Nat) (roles : List (SetNo × ShareRole)) (hp : I p) :
    I (Machine.makePlans i origin roles p) := by
  refine fold_keeps _ _ (fun q r hq => ?_) hp
  unfold makePlan
  extract_lets plan planned
  have hplanned : I planned := h.same q _ rfl le_rfl hq
  split
  · exact h.occur _ _ hplanned
  · exact hplanned

theorem beginSharePeriod (h : Orderly I) (i : IslandNo) (hp : I p) : I (Machine.beginSharePeriod i p) := by
  unfold Machine.beginSharePeriod
  extract_lets c planned
  have hcompleted : I (reportCompletions c.2.done c.1) :=
    fold_keeps _ _ (fun q k hq => h.handOn _ (h.steps (rampComplete_steps k q) hq)) (h.computePeriod i hp)
  exact h.shedPeriod i _ _ (h.reservePeriod i _ (h.makePlans i _ _ hcompleted))

end Orderly

end Sys2Proof.Proofs
end

section
/-! The two conditions that a step keeps: each consumer at one place at most among the heavy queues and grants (R114, R119), and at
most one history record for each, in the order of the shed times (R156 to R158); both with the consumers' islands as given. -/

namespace Sys2Proof.Proofs

open Sys2Proof.Machine Sys2Proof.Claims Sequenced

/-- A consumer has one entry of the shed list at most (R123). -/
def ListedOnce (p : Part) : Prop := p.cfg.shedList.Pairwise fun a b => a.consumer ≠ b.consumer

/-- No consumer stands twice in the record of an island, and each in that of the island that `m` gives it. -/
def HeavyBy (m : ConsumerNo → Option IslandNo) (p : Part) : Prop :=
  ListedOnce p ∧ ∀ (i : IslandNo) (r : Island), p.islands[i] = some r →
    r.reserve.consumers.Nodup ∧ ∀ c ∈ r.reserve.consumers, m c = some i

/-- The stamps of an island's history. -/
def stamps (r : Island) : List (ConsumerNo × Nat) := r.history.map stamp

/-- The stamps of a history in order, at this time and with these entries. -/
def StampsHold (m : ConsumerNo → Option IslandNo) (now : Nat) (en : Vector EntryRecord 48) (i : IslandNo)
    (l : List (ConsumerNo × Nat)) : Prop :=
  (l.map Prod.fst).Nodup ∧ l.Pairwise (fun a b => b.2 ≤ a.2)
    ∧ ∀ a ∈ l, a.2 ≤ now ∧ m a.1 = some i ∧ Recorded en[a.1].state

/-- The entries that `x` says have a state, and every history is in order, its consumers in the island that `m` gives them. -/
def RecordsBy (m : ConsumerNo → Option IslandNo) (x : ConsumerNo → Bool) (p : Part) : Prop :=
  ListedOnce p ∧ (∀ c : ConsumerNo, p.entry[c].state.isSome = x c)
    ∧ ∀ (i : IslandNo) (r : Island), p.islands[i] = some r → StampsHold m p.clock p.entry i (stamps r)

section

variable {m : ConsumerNo → Option IslandNo} {x : ConsumerNo → Bool} {p q : Part} {i j : IslandNo} {c : ConsumerNo}

theorem StampsHold.sublist {now : Nat} {en : Vector EntryRecord 48} {l l' : List (ConsumerNo × Nat)}
    (h : StampsHold m now en i l) (hl : l'.Sublist l) : StampsHold m now en i l' := by
  obtain ⟨hnodup, hsorted, hall⟩ := h
  exact ⟨hnodup.sublist (hl.map _), hsorted.sublist hl, fun a ha => hall a (hl.subset ha)⟩

/-- Time passes, and the entries with a record keep one. -/
theorem StampsHold.later {now now' : Nat} {en en' : Vector EntryRecord 48} {l : List (ConsumerNo × Nat)}
    (h : StampsHold m now en i l) (hnow : now ≤ now')
    (hen : ∀ a ∈ l, Recorded en[a.1].state → Recorded en'[a.1].state) : StampsHold m now' en' i l := by
  obtain ⟨hnodup, hsorted, hall⟩ := h
  refine ⟨hnodup, hsorted, fun a ha => ?_⟩
  obtain ⟨htime, hisland, hstate⟩ := hall a ha
  exact ⟨htime.trans hnow, hisland, hen a ha hstate⟩

theorem stampsHold_nil (m : ConsumerNo → Option IslandNo) (now : Nat) (en : Vector EntryRecord 48) (i : IslandNo) :
    StampsHold m now en i [] := ⟨List.nodup_nil, .nil, nofun⟩

/-! ### Island records with the same readings -/

/-- Records that read the same. -/
theorem get_of_held {α : Type} {g : Island → α} (h : held g q = held g p) {r : Island} (hr : q.islands[i] = some r) :
    ∃ r', p.islands[i] = some r' ∧ g r = g r' := by
  have hi := congrFun h i
  rw [held, held, hr] at hi
  cases hp : p.islands[i] with
  | none => simp [hp] at hi
  | some r' => exact ⟨r', rfl, by simpa [hp] using hi⟩

theorem heavyBy_congr (hl : ListedOnce q) (hh : held (fun r => r.reserve.consumers) q = held (fun r => r.reserve.consumers) p)
    (h : HeavyBy m p) : HeavyBy m q := by
  refine ⟨hl, fun i r hr => ?_⟩
  obtain ⟨r', hr', he⟩ := get_of_held hh hr
  rw [he]
  exact h.2 i r' hr'

theorem recordsBy_congr (hl : ListedOnce q) (hclock : p.clock ≤ q.clock) (hentry : q.entry = p.entry)
    (hh : held stamps q = held stamps p) (h : RecordsBy m x p) : RecordsBy m x q := by
  obtain ⟨-, hstate, hall⟩ := h
  refine ⟨hl, by rw [hentry]; exact hstate, fun i r hr => ?_⟩
  obtain ⟨r', hr', he⟩ := get_of_held hh hr
  rw [he, hentry]
  exact (hall i r' hr').later hclock fun _ _ hs => hs

theorem heavyBy_island (h : HeavyBy m p) (i : IslandNo) :
    (island p i).reserve.consumers.Nodup ∧ ∀ c ∈ (island p i).reserve.consumers, m c = some i := by
  cases hr : p.islands[i] with
  | none =>
    rw [island, hr]
    exact ⟨List.nodup_nil, nofun⟩
  | some r =>
    rw [island_some hr]
    exact h.2 i r hr

theorem recordsBy_island (h : RecordsBy m x p) (i : IslandNo) : StampsHold m p.clock p.entry i (stamps (island p i)) := by
  cases hr : p.islands[i] with
  | none =>
    rw [island, hr]
    exact stampsHold_nil m _ _ i
  | some r =>
    rw [island_some hr]
    exact h.2.2 i r hr

/-- The record of an island that an update is made to. -/
theorem onIsland_some {f : Island → Island} {r : Island} (h : (onIsland i f p).islands[j] = some r) :
    ∃ r', p.islands[j] = some r' ∧ r = if i = j then f r' else r' := by
  rw [onIsland_get] at h
  split at h
  case isTrue hij =>
    obtain ⟨r', hr', he⟩ := Option.map_eq_some_iff.mp h
    exact ⟨r', hr', by rw [if_pos hij, he]⟩
  case isFalse hij => exact ⟨r, h, by rw [if_neg hij]⟩

theorem held_of_ledgers {α : Type} (g : (List HeavyRequest × List HeavyGrant × List HistoryRecord) → α)
    (h : ledgers q = ledgers p) : held (fun r => g (ledger r)) q = held (fun r => g (ledger r)) p := by
  simp only [ledgers, Prod.mk.injEq] at h
  exact held_of_held g h.2.2.2.2

theorem listedOnce_of_ledgers (h : ledgers q = ledgers p) (hp : ListedOnce p) : ListedOnce q := by
  simp only [ledgers, Prod.mk.injEq] at h
  rw [ListedOnce, h.2.2.1]
  exact hp

/-! ### The primitive changes keep both -/

theorem heavyBy_orderly (m : ConsumerNo → Option IslandNo) : Orderly (HeavyBy m) where
  listed _ h := h.1
  same p q hq _ h := heavyBy_congr (listedOnce_of_ledgers hq h.1)
    (held_of_ledgers (fun l => l.1.map HeavyRequest.consumer ++ l.2.1.map HeavyGrant.consumer) hq) h
  shrinks p i f hf h := by
    refine ⟨h.1, fun j r hr => ?_⟩
    obtain ⟨r', hr', rfl⟩ := onIsland_some hr
    obtain ⟨hnodup, hall⟩ := h.2 j r' hr'
    split
    case isTrue hij =>
      subst hij
      have hsub := (hf r' hr').1
      obtain ⟨l, hperm, hsublist⟩ := hsub
      exact ⟨hperm.nodup_iff.mp (hnodup.sublist hsublist), fun c hc => hall c (hsublist.subset (hperm.mem_iff.mpr hc))⟩
    case isFalse => exact ⟨hnodup, hall⟩
  enters p c f _ _ h := by
    have hheld : held (fun r => r.reserve.consumers) (onEntry c f p) = held (fun r => r.reserve.consumers) p := held_congr _ rfl
    exact heavyBy_congr h.1 hheld h
  frees p c _ h := by
    have hmoved : Moved p (enterEntry c .connected (removeRecord c p)) := ((Moved.refl p).removeRecord c).enterEntry c .connected
    refine heavyBy_congr ?_ (held_of_held (fun b => b.2.2.2.2.2.consumers) hmoved.kept) h
    rw [ListedOnce, hmoved.cfg]
    exact h.1

theorem onEntry_get (c c' : ConsumerNo) (f : EntryRecord → EntryRecord) (p : Part) :
    (onEntry c f p).entry[c'] = if c = c' then f p.entry[c'] else p.entry[c'] := modifyAt_get p.entry c c' f

theorem recordsBy_orderly (m : ConsumerNo → Option IslandNo) (x : ConsumerNo → Bool) : Orderly (RecordsBy m x) where
  listed _ h := h.1
  same p q hq hclock h := by
    have hentry : q.entry = p.entry := by
      simp only [ledgers, Prod.mk.injEq] at hq
      exact hq.2.2.2.1
    exact recordsBy_congr (listedOnce_of_ledgers hq h.1) hclock hentry (held_of_ledgers (fun l => l.2.2.map stamp) hq) h
  shrinks p i f hf h := by
    obtain ⟨hlisted, hstate, hall⟩ := h
    refine ⟨hlisted, hstate, fun j r hr => ?_⟩
    obtain ⟨r', hr', rfl⟩ := onIsland_some hr
    split
    case isTrue hij =>
      subst hij
      exact (hall _ r' hr').sublist (hf r' hr').2
    case isFalse => exact hall j r' hr'
  enters p c f hsome hrec h := by
    obtain ⟨hlisted, hstate, hall⟩ := h
    refine ⟨hlisted, fun c' => ?_, fun i r hr => (hall i r hr).later le_rfl fun a _ ha => ?_⟩
    · rw [onEntry_get]
      split
      case isTrue hc =>
        subst hc
        rw [hsome]
        exact hstate c
      case isFalse => exact hstate c'
    · rw [onEntry_get]
      split
      case isTrue hc =>
        obtain ⟨c', t⟩ := a
        cases hc
        exact hrec ha
      case isFalse => exact ha
  frees p c hsome h := by
    obtain ⟨hlisted, hstate, hall⟩ := h
    rw [removeRecord_eq]
    refine ⟨hlisted, fun c' => ?_, fun i r hr => ?_⟩
    · rw [enterEntry, onEntry_get]
      split
      case isTrue hc =>
        subst hc
        exact hsome.symm.trans (hstate c)
      case isFalse => exact hstate c'
    · have hmap : (p.islands.map (Option.map (withoutRecord c)))[i] = some r := hr
      rw [Fin.getElem_fin, Vector.getElem_map] at hmap
      obtain ⟨r', hr', rfl⟩ := Option.map_eq_some_iff.mp hmap
      have hsub : (stamps (withoutRecord c r')).Sublist (stamps r') := List.filter_sublist.map _
      refine ((hall i r' hr').sublist hsub).later le_rfl fun a ha hs => ?_
      obtain ⟨g, hg, rfl⟩ := List.mem_map.mp ha
      have hne : c ≠ (stamp g).1 := by
        have := (List.mem_filter.mp hg).2
        exact fun he => by simp [he, stamp] at this
      rw [enterEntry, onEntry_get, if_neg hne]
      exact hs

end

/-! ### With the part's own islands -/

/-- What says in which island a consumer is, and whether it is configured, reads the phase, the map and the shed list alone. -/
theorem Orderly.own {α : Type} {I : α → Part → Prop} (h : ∀ a, Orderly (I a)) (g : Part → α)
    (hg : ∀ p q : Part, q.phase = p.phase → q.islandMap = p.islandMap → q.cfg.shedList = p.cfg.shedList → g q = g p) :
    Orderly (fun p => I (g p) p) where
  listed p hp := (h (g p)).listed p hp
  same p q hq hclock hp := by
    have hsame : g q = g p := by
      have hread := hq
      simp only [ledgers, Prod.mk.injEq] at hread
      exact hg p q hread.1 hread.2.1 hread.2.2.1
    rw [hsame]
    exact (h (g p)).same p q hq hclock hp
  shrinks p i f hf hp := by
    rw [hg p (Machine.onIsland i f p) rfl rfl rfl]
    exact (h (g p)).shrinks p i f hf hp
  enters p c f hsome hrec hp := by
    rw [hg p (Machine.onEntry c f p) rfl rfl rfl]
    exact (h (g p)).enters p c f hsome hrec hp
  frees p c hsome hp := by
    have hsame : g (Machine.enterEntry c .connected (Machine.removeRecord c p)) = g p := by
      rw [removeRecord_eq]
      exact hg _ _ rfl rfl rfl
    rw [hsame]
    exact (h (g p)).frees p c hsome hp

/-- The same with what is read held fast. -/
theorem Orderly.and {α : Type} {I : Part → Prop} (h : Orderly I) (g : Part → α)
    (hg : ∀ p q : Part, q.phase = p.phase → q.islandMap = p.islandMap → q.cfg.shedList = p.cfg.shedList → g q = g p) (a : α) :
    Orderly (fun p => I p ∧ g p = a) where
  listed p hp := h.listed p hp.1
  same p q hq hclock hp := by
    refine ⟨h.same p q hq hclock hp.1, ?_⟩
    simp only [ledgers, Prod.mk.injEq] at hq
    exact (hg p q hq.1 hq.2.1 hq.2.2.1).trans hp.2
  shrinks p i f hf hp := ⟨h.shrinks p i f hf hp.1, (hg p (Machine.onIsland i f p) rfl rfl rfl).trans hp.2⟩
  enters p c f hsome hrec hp := ⟨h.enters p c f hsome hrec hp.1, (hg p (Machine.onEntry c f p) rfl rfl rfl).trans hp.2⟩
  frees p c hsome hp := by
    refine ⟨h.frees p c hsome hp.1, Eq.trans ?_ hp.2⟩
    rw [removeRecord_eq]
    exact hg _ _ rfl rfl rfl

theorem entryIsland_reads (p q : Part) (hmap : q.islandMap = p.islandMap) (hl : q.cfg.shedList = p.cfg.shedList) :
    entryIsland q = entryIsland p := by
  funext c
  simp only [entryIsland, entryCfg, islandOf, hmap, hl]

/-- An entry that is to have a state (R126). -/
def entryExists (p : Part) (c : ConsumerNo) : Bool := p.phase == .run && consumerConfigured p c

theorem entryExists_reads (p q : Part) (hphase : q.phase = p.phase) (hl : q.cfg.shedList = p.cfg.shedList) :
    entryExists q = entryExists p := by
  funext c
  simp only [entryExists, consumerConfigured, entryCfg, hphase, hl]

/-- The condition of the heavy queues and the grants, with the shed list's. -/
def HeavyHolds (p : Part) : Prop := HeavyBy (entryIsland p) p

/-- The condition of the entries and the histories, with the shed list's. -/
def RecordsHold (p : Part) : Prop := RecordsBy (entryIsland p) (entryExists p) p

theorem heavyHolds_iff (p : Part) : HeavyHolds p ↔ ListedOnce p ∧ p.heavyApart := Iff.rfl

theorem stampsHold_iff (p : Part) (i : IslandNo) (r : Island) : StampsHold (entryIsland p) p.clock p.entry i (stamps r) ↔
    (r.history.map HistoryRecord.consumer).Nodup ∧ r.history.Pairwise (fun a b => b.time ≤ a.time)
    ∧ ∀ h ∈ r.history, h.time ≤ p.clock ∧ entryIsland p h.consumer = some i
        ∧ (p.entry[h.consumer].state = some .shed ∨ p.entry[h.consumer].state = some .restorePending) := by
  simp only [StampsHold, stamps, List.map_map, List.pairwise_map, List.forall_mem_map]
  rfl

theorem recordsHold_iff (p : Part) : RecordsHold p ↔ ListedOnce p ∧ p.entriesExist ∧ p.historiesFit := by
  simp only [RecordsHold, RecordsBy, stampsHold_iff]
  rfl

theorem heavyHolds_orderly : Orderly HeavyHolds :=
  Orderly.own heavyBy_orderly entryIsland fun p q _ hmap hl => entryIsland_reads p q hmap hl

theorem recordsHold_orderly : Orderly RecordsHold :=
  Orderly.own (I := fun a : (ConsumerNo → Option IslandNo) × (ConsumerNo → Bool) => RecordsBy a.1 a.2)
    (fun a => recordsBy_orderly a.1 a.2) (fun p => (entryIsland p, entryExists p))
    fun p q hphase hmap hl => by rw [entryIsland_reads p q hmap hl, entryExists_reads p q hphase hl]

/-! ### A confirmed shed order (R144, R156) -/

theorem entryShed_heavyHolds {p : Part} (c : ConsumerNo) (h : HeavyHolds p) : HeavyHolds (entryShed c p) := by
  have hmoved : Moved p (entryShed c p) := (Moved.refl p).entryShed c
  have hlist : (entryShed c p).cfg = p.cfg := hmoved.cfg
  have hsame : entryIsland (entryShed c p) = entryIsland p := funext hmoved.entryIsland
  rw [HeavyHolds, hsame]
  refine heavyBy_congr ?_ (held_of_held (fun b => b.2.2.2.2.2.consumers) hmoved.kept) h
  rw [ListedOnce, hlist]
  exact h.1

/-- The entry of a confirmed shed order waited for it, and so had no record. -/
theorem entryShed_recordsHold {p : Part} {c : ConsumerNo} (hs : p.entry[c].state = some .shedPending) (h : RecordsHold p) :
    RecordsHold (entryShed c p) := by
  have hshed : RecordsHold (enterEntry c .shed p) :=
    recordsHold_orderly.enterEntry c .shed (by rw [hs]; rfl) (fun _ => .inl rfl) h
  unfold entryShed
  extract_lets r shed
  split
  case h_2 => exact hshed
  case h_1 i hi =>
    obtain ⟨-, -, hbefore⟩ := h
    obtain ⟨hlisted, hstate, hall⟩ := hshed
    have hfree (j : IslandNo) (r' : Island) (hr' : p.islands[j] = some r') : ∀ a ∈ stamps r', a.1 ≠ c := by
      rintro ⟨c', t⟩ ha rfl
      have := ((hbefore j r' hr').2.2 _ ha).2.2
      dsimp only at this
      rw [hs] at this
      exact absurd this (by simp [Recorded])
    refine ⟨hlisted, hstate, fun j r' hr' => ?_⟩
    obtain ⟨r'', hr'', rfl⟩ := onIsland_some hr'
    obtain ⟨hnodup, hsorted, hmem⟩ := hall j r'' hr''
    split
    case isFalse => exact ⟨hnodup, hsorted, hmem⟩
    case isTrue hij =>
      subst hij
      have hne := hfree i r'' hr''
      refine ⟨?_, List.pairwise_cons.mpr ⟨fun a ha => (hmem a ha).1, hsorted⟩, fun a ha => ?_⟩
      · refine List.nodup_cons.mpr ⟨fun hc => ?_, hnodup⟩
        obtain ⟨a, ha, hac⟩ := List.mem_map.mp hc
        exact hne a ha hac
      · rcases List.mem_cons.mp ha with rfl | ha
        · refine ⟨le_rfl, hi, .inl ?_⟩
          exact congrArg EntryRecord.state (onEntry_self c _ p)
        · exact hmem a ha

end Sys2Proof.Proofs
end

section
/-! A tie's change shares the heavy queues, the grants and the histories out by the new island map (R17 to R20, R120, R121, R158),
so that each consumer's place follows its section. -/

namespace Sys2Proof.Proofs

open Sys2Proof.Machine Sys2Proof.Claims Sequenced

/-! ### Queues and histories that become one -/

theorem mergeRequests_perm (fuel : Nat) (as bs : List HeavyRequest) : (mergeRequests fuel as bs).Perm (as ++ bs) := by
  induction fuel generalizing as bs with
  | zero => exact .refl _
  | succ n ih =>
    cases as with
    | nil => exact .refl _
    | cons a as =>
      cases bs with
      | nil =>
        rw [List.append_nil]
        exact .refl _
      | cons b bs =>
        unfold mergeRequests
        split
        · exact ((ih (a :: as) bs).cons b).trans (List.perm_middle.symm)
        · exact (ih as (b :: bs)).cons a

theorem mergeRecords_perm (fuel : Nat) (as bs : List HistoryRecord) : (mergeRecords fuel as bs).Perm (as ++ bs) := by
  induction fuel generalizing as bs with
  | zero => exact .refl _
  | succ n ih =>
    cases as with
    | nil => exact .refl _
    | cons a as =>
      cases bs with
      | nil =>
        rw [List.append_nil]
        exact .refl _
      | cons b bs =>
        unfold mergeRecords
        split
        · exact ((ih (a :: as) bs).cons b).trans (List.perm_middle.symm)
        · exact (ih as (b :: bs)).cons a

/-- The records of a history are in order, the newest on top. -/
abbrev Newest (l : List HistoryRecord) : Prop := l.Pairwise fun a b => b.time ≤ a.time

/-- The record that is taken first is no older than the other. -/
theorem time_of_recordFirst {a b : HistoryRecord} : (recordFirst b a = true → a.time ≤ b.time)
    ∧ (recordFirst b a = false → b.time ≤ a.time) := by
  simp only [recordFirst, Bool.or_eq_true, Bool.or_eq_false_iff, Bool.and_eq_true, beq_iff_eq, decide_eq_true_eq,
    decide_eq_false_iff_not]
  omega

theorem mergeRecords_newest (fuel : Nat) (as bs : List HistoryRecord) (hfuel : as.length + bs.length ≤ fuel)
    (has : Newest as) (hbs : Newest bs) : Newest (mergeRecords fuel as bs) := by
  induction fuel generalizing as bs with
  | zero =>
    obtain ⟨ha, hb⟩ : as = [] ∧ bs = [] := by
      simp only [nonpos_iff_eq_zero, Nat.add_eq_zero_iff, List.length_eq_zero_iff] at hfuel
      exact hfuel
    subst ha hb
    exact .nil
  | succ n ih =>
    cases as with
    | nil => exact hbs
    | cons a as =>
      cases bs with
      | nil => exact has
      | cons b bs =>
        obtain ⟨ha, has'⟩ := List.pairwise_cons.mp has
        obtain ⟨hb, hbs'⟩ := List.pairwise_cons.mp hbs
        simp only [List.length_cons] at hfuel
        unfold mergeRecords
        split
        case isTrue hfirst =>
          have hab := time_of_recordFirst.1 hfirst
          refine List.pairwise_cons.mpr ⟨fun g hg => ?_, ih (a :: as) bs (by simp only [List.length_cons]; omega) has hbs'⟩
          rcases List.mem_append.mp ((mergeRecords_perm n (a :: as) bs).mem_iff.mp hg) with hg | hg
          · rcases List.mem_cons.mp hg with rfl | hg
            · exact hab
            · exact (ha g hg).trans hab
          · exact hb g hg
        case isFalse hfirst =>
          have hba := time_of_recordFirst.2 (Bool.eq_false_iff.mpr hfirst)
          refine List.pairwise_cons.mpr ⟨fun g hg => ?_, ih as (b :: bs) (by simp only [List.length_cons]; omega) has' hbs⟩
          rcases List.mem_append.mp ((mergeRecords_perm n as (b :: bs)).mem_iff.mp hg) with hg | hg
          · exact ha g hg
          · rcases List.mem_cons.mp hg with rfl | hg
            · exact hba
            · exact (hb g hg).trans hba

section

variable {m m' : ConsumerNo → Option IslandNo} {x : ConsumerNo → Bool} {p : Part} {now : Nat}
variable {en : Vector EntryRecord 48} {i j lo hi : IslandNo}

theorem stampsHold_newest {l : List HistoryRecord} (h : StampsHold m now en i (l.map stamp)) : Newest l :=
  List.pairwise_map.mp h.2.1

/-- Its consumers are given another island. -/
theorem StampsHold.moved {l : List (ConsumerNo × Nat)} (h : StampsHold m now en i l)
    (hm : ∀ c, m c = some i → m' c = some j) : StampsHold m' now en j l := by
  obtain ⟨hnodup, hsorted, hall⟩ := h
  refine ⟨hnodup, hsorted, fun a ha => ?_⟩
  obtain ⟨htime, hisland, hstate⟩ := hall a ha
  exact ⟨htime, hm a.1 hisland, hstate⟩

/-- Two histories of different consumers become one. -/
theorem stampsHold_merged {as bs : List HistoryRecord} (ha : StampsHold m now en i (as.map stamp))
    (hb : StampsHold m now en i (bs.map stamp)) (hne : ∀ a ∈ as, ∀ b ∈ bs, a.consumer ≠ b.consumer) :
    StampsHold m now en i ((mergeHistories as bs).map stamp) := by
  have hperm : (mergeHistories as bs).Perm (as ++ bs) := mergeRecords_perm _ as bs
  refine ⟨?_, List.pairwise_map.mpr (mergeRecords_newest _ as bs le_rfl (stampsHold_newest ha) (stampsHold_newest hb)), ?_⟩
  · refine ((hperm.map stamp).map Prod.fst).nodup_iff.mpr ?_
    rw [List.map_append, List.map_append]
    refine List.Nodup.append ha.1 hb.1 ?_
    simp only [List.map_map]
    intro c hca hcb
    obtain ⟨a, haa, rfl⟩ := List.mem_map.mp hca
    obtain ⟨b, hbb, hab⟩ := List.mem_map.mp hcb
    exact hne a haa b hbb hab.symm
  · intro a haa
    rcases List.mem_append.mp (List.map_append ▸ (hperm.map stamp).mem_iff.mp haa) with h | h
    · exact ha.2.2 a h
    · exact hb.2.2 a h

/-! ### A merge's record (R120, R158) -/

/-- The consumers of the absorbed island are given the surviving one. -/
def JoinedTo (lo hi : IslandNo) (m m' : ConsumerNo → Option IslandNo) : Prop :=
  ∀ c, m' c = (m c).map fun i => if i = hi then lo else i

theorem JoinedTo.kept (h : JoinedTo lo hi m m') (hj : j ≠ hi) (c : ConsumerNo) (hc : m c = some j) : m' c = some j := by
  rw [h c, hc, Option.map_some, if_neg hj]

theorem JoinedTo.absorbed (h : JoinedTo lo hi m m') (c : ConsumerNo) (hc : m c = some hi) : m' c = some lo := by
  rw [h c, hc, Option.map_some, if_pos rfl]

/-- The two islands' reserve records become one, and the absorbed one has none. -/
def reservesMerged (lo hi : IslandNo) (p : Part) : Part :=
  onReserve lo (fun _ => mergedReserve p lo hi) (onReserve hi (fun r => { r with queue := [], grants := [] }) p)

theorem mergedReserve_consumers (p : Part) (lo hi : IslandNo) : (mergedReserve p lo hi).consumers.Subperm
    ((island p lo).reserve.consumers ++ (island p hi).reserve.consumers) := by
  unfold mergedReserve ReserveRecord.consumers
  dsimp only
  rw [headed_consumers]
  have hmerged : (mergeQueues (island p lo).reserve.queue (island p hi).reserve.queue).Perm
      ((island p lo).reserve.queue ++ (island p hi).reserve.queue) := mergeRequests_perm _ _ _
  have hqueues := hmerged.map HeavyRequest.consumer
  refine (List.Sublist.append (((List.take_sublist _ _).map _)) (.refl _)).subperm.trans (List.Perm.subperm ?_)
  refine (hqueues.append_right _).trans ?_
  rw [List.map_append, List.map_append, List.append_assoc, List.append_assoc]
  refine List.Perm.append_left _ ?_
  rw [← List.append_assoc, ← List.append_assoc]
  exact List.perm_append_comm.append_right _

theorem heavyBy_merged (hne : lo ≠ hi) (hm : JoinedTo lo hi m m') (h : HeavyBy m p) : HeavyBy m' (reservesMerged lo hi p) := by
  obtain ⟨hnodup, hlo⟩ := heavyBy_island h lo
  obtain ⟨hnodup', hhi⟩ := heavyBy_island h hi
  refine ⟨h.1, fun j r hr => ?_⟩
  obtain ⟨r', hr', rfl⟩ := onIsland_some hr
  obtain ⟨r'', hr'', rfl⟩ := onIsland_some hr'
  split
  case isTrue hj =>
    subst hj
    obtain ⟨l, hperm, hsub⟩ := mergedReserve_consumers p lo hi
    have happend : ((island p lo).reserve.consumers ++ (island p hi).reserve.consumers).Nodup :=
      hnodup.append hnodup' fun c hc hc' => hne (Option.some.inj ((hlo c hc).symm.trans (hhi c hc')))
    refine ⟨hperm.nodup_iff.mp (happend.sublist hsub), fun c hc => ?_⟩
    rcases List.mem_append.mp (hsub.subset (hperm.mem_iff.mpr hc)) with hc | hc
    · exact hm.kept hne c (hlo c hc)
    · exact hm.absorbed c (hhi c hc)
  case isFalse =>
    split
    case isTrue => exact ⟨List.nodup_nil, nofun⟩
    case isFalse hj =>
      obtain ⟨hnodup, hall⟩ := h.2 j r'' hr''
      exact ⟨hnodup, fun c hc => hm.kept (Ne.symm hj) c (hall c hc)⟩

/-- The two islands' histories become one, and the absorbed record ceases. -/
def historiesMerged (lo hi : IslandNo) (ctx : ShedContext) (p : Part) : Part :=
  { onIsland lo (fun r =>
      { r with shed := ctx, history := mergeHistories (island p lo).history (island p hi).history }) p with
    islands := (onIsland lo (fun r =>
      { r with shed := ctx, history := mergeHistories (island p lo).history (island p hi).history }) p).islands.set hi none }

theorem historiesMerged_some {ctx : ShedContext} {r : Island} (h : (historiesMerged lo hi ctx p).islands[j] = some r) :
    j ≠ hi ∧ ∃ r', p.islands[j] = some r' ∧ r = if lo = j then
      { r' with shed := ctx, history := mergeHistories (island p lo).history (island p hi).history } else r' := by
  have hset : ((onIsland lo (fun r => { r with
      shed := ctx, history := mergeHistories (island p lo).history (island p hi).history }) p).islands.set hi none)[j] = some r := h
  by_cases hj : hi = j
  · subst hj
    simp at hset
  · have hval : hi.val ≠ j.val := fun e => hj (Fin.ext e)
    rw [Fin.getElem_fin, Vector.getElem_set_ne _ _ hval] at hset
    exact ⟨Ne.symm hj, onIsland_some hset⟩

theorem recordsBy_merged (hne : lo ≠ hi) (hm : JoinedTo lo hi m m') (ctx : ShedContext) (h : RecordsBy m x p) :
    RecordsBy m' x (historiesMerged lo hi ctx p) := by
  refine ⟨h.1, h.2.1, fun j r hr => ?_⟩
  obtain ⟨hj, r', hr', rfl⟩ := historiesMerged_some hr
  split
  case isFalse => exact (h.2.2 j r' hr').moved (hm.kept hj)
  case isTrue hlo =>
    subst hlo
    have ha := recordsBy_island h lo
    have hb := recordsBy_island h hi
    refine stampsHold_merged (ha.moved (hm.kept hne)) (hb.moved hm.absorbed) fun a haa b hbb hab => hne ?_
    have hia := (ha.2.2 _ (List.mem_map_of_mem haa)).2.1
    have hib := (hb.2.2 _ (List.mem_map_of_mem hbb)).2.1
    have hsame : (stamp a).1 = (stamp b).1 := hab
    rw [hsame, hib] at hia
    exact (Option.some.inj hia).symm

theorem heavyBy_historiesMerged (ctx : ShedContext) (h : HeavyBy m p) : HeavyBy m (historiesMerged lo hi ctx p) := by
  refine ⟨h.1, fun j r hr => ?_⟩
  obtain ⟨-, r', hr', rfl⟩ := historiesMerged_some hr
  obtain ⟨hnodup, hall⟩ := h.2 j r' hr'
  split <;> exact ⟨hnodup, hall⟩

/-! ### A split's records (R121, R158) -/

/-- The consumers of the original island are given one of the two that it yields. -/
def SharedOut (keep other : IslandNo) (m m' : ConsumerNo → Option IslandNo) : Prop :=
  ∀ c, m c = (m' c).map fun i => if i = other then keep else i

theorem SharedOut.kept {keep other : IslandNo} (h : SharedOut keep other m m') (hk : j ≠ keep) (c : ConsumerNo)
    (hc : m c = some j) : m' c = some j := by
  have hmap := (h c).symm.trans hc
  obtain ⟨i, hi, he⟩ := Option.map_eq_some_iff.mp hmap
  split at he
  · exact absurd he.symm hk
  · rw [hi, he]

/-- The two islands' reserve records, from the original's. -/
def reservesSplit (keep other : IslandNo) (p : Part) : Part :=
  onReserve other (fun _ => splitReserve p other (island p keep).reserve)
    (onReserve keep (fun _ => splitReserve p keep (island p keep).reserve) p)

theorem splitReserve_places (p : Part) (i : IslandNo) (r : ReserveRecord) (hr : r.consumers.Nodup) :
    (splitReserve p i r).consumers.Nodup ∧ ∀ c ∈ (splitReserve p i r).consumers, entryIsland p c = some i := by
  unfold splitReserve ReserveRecord.consumers
  dsimp only
  rw [headed_consumers]
  refine ⟨hr.sublist ((List.filter_sublist.map _).append (List.filter_sublist.map _)), fun c hc => ?_⟩
  rcases List.mem_append.mp hc with hc | hc
  all_goals
    obtain ⟨q, hq, rfl⟩ := List.mem_map.mp hc
    simpa using (List.mem_filter.mp hq).2

theorem heavyBy_split {keep other : IslandNo} (hm : SharedOut keep other m m') (h : HeavyBy m p ∧ entryIsland p = m') :
    HeavyBy m' (reservesSplit keep other p) := by
  obtain ⟨h, hmap⟩ := h
  have horiginal := (heavyBy_island h keep).1
  have hplaces (i : IslandNo) := hmap ▸ splitReserve_places p i _ horiginal
  refine ⟨h.1, fun j r hr => ?_⟩
  obtain ⟨r', hr', rfl⟩ := onIsland_some hr
  obtain ⟨r'', hr'', rfl⟩ := onIsland_some hr'
  split
  case isTrue hj => exact hj ▸ hplaces other
  case isFalse =>
    split
    case isTrue hj => exact hj ▸ hplaces keep
    case isFalse hj =>
      obtain ⟨hnodup, hall⟩ := h.2 j r'' hr''
      exact ⟨hnodup, fun c hc => hm.kept (Ne.symm hj) c (hall c hc)⟩

/-- The two islands' histories, from the original's. -/
def historiesSplit (keep other : IslandNo) (p : Part) : Part :=
  shedSplit other (island p keep).history (shedSplit keep (island p keep).history p)

/-- A split's context and history leave the other islands' histories, and every reserve record. -/
theorem shedSplit_held {α : Type} {g : Island → α} (hg : ∀ r x, g { r with restore := x } = g r) (i : IslandNo)
    (l : List HistoryRecord) (p : Part) : held g (shedSplit i l p) = held g (onIsland i (fun r =>
      { r with shed := ShedContext.fresh, restore := RestoreContext.fresh,
               history := l.filter fun h => entryIsland p h.consumer == some i }) p) := retrigger_held hg i _

theorem shedSplit_heavyBy (i : IslandNo) (l : List HistoryRecord) (h : HeavyBy m p) : HeavyBy m (shedSplit i l p) := by
  have hl : (shedSplit i l p).cfg = p.cfg := by
    unfold shedSplit retrigger
    split <;> rfl
  refine heavyBy_congr (by rw [ListedOnce, hl]; exact h.1) ?_ h
  exact (shedSplit_held (fun _ _ => rfl) i l p).trans (held_onIsland fun _ => rfl)

theorem shedSplit_fields (i : IslandNo) (l : List HistoryRecord) (p : Part) : (shedSplit i l p).cfg = p.cfg
    ∧ (shedSplit i l p).clock = p.clock ∧ (shedSplit i l p).entry = p.entry ∧ (shedSplit i l p).islandMap = p.islandMap := by
  unfold shedSplit retrigger
  split <;> exact ⟨rfl, rfl, rfl, rfl⟩

/-- The stamps that a split leaves an island. -/
theorem shedSplit_stamps {l : List HistoryRecord} {r : Island} (h : (shedSplit i l p).islands[j] = some r) :
    ∃ r', p.islands[j] = some r' ∧ stamps r = if i = j then
      (l.filter fun g => entryIsland p g.consumer == some i).map stamp else stamps r' := by
  obtain ⟨r₁, hr₁, he⟩ := get_of_held (g := stamps) (shedSplit_held (fun _ _ => rfl) i l p) h
  obtain ⟨r', hr', rfl⟩ := onIsland_some hr₁
  refine ⟨r', hr', he.trans ?_⟩
  split <;> rfl

theorem recordsBy_split {keep other : IslandNo} (hm : SharedOut keep other m m') (h : RecordsBy m x p ∧ entryIsland p = m') :
    RecordsBy m' x (historiesSplit keep other p) := by
  obtain ⟨h, hmap⟩ := h
  unfold historiesSplit
  have horiginal : StampsHold m p.clock p.entry keep ((island p keep).history.map stamp) := recordsBy_island h keep
  generalize (island p keep).history = l at horiginal
  obtain ⟨hcfg, hclock, hentry, himap⟩ := shedSplit_fields keep l p
  obtain ⟨hcfg', hclock', hentry', -⟩ := shedSplit_fields other l (shedSplit keep l p)
  have hmap' : entryIsland (shedSplit keep l p) = m' := (entryIsland_reads _ _ himap (by rw [hcfg])).trans hmap
  have hshare (i : IslandNo) : StampsHold m' p.clock p.entry i ((l.filter fun g => m' g.consumer == some i).map stamp) := by
    obtain ⟨hnodup, hsorted, hall⟩ := horiginal.sublist
      ((List.filter_sublist (p := fun g => m' g.consumer == some i)).map stamp)
    refine ⟨hnodup, hsorted, fun a ha => ?_⟩
    obtain ⟨htime, -, hstate⟩ := hall a ha
    obtain ⟨g, hg, rfl⟩ := List.mem_map.mp ha
    exact ⟨htime, by simpa [stamp] using (List.mem_filter.mp hg).2, hstate⟩
  refine ⟨?_, ?_, fun j r hr => ?_⟩
  · rw [ListedOnce, hcfg', hcfg]
    exact h.1
  · rw [hentry', hentry]
    exact h.2.1
  · rw [hclock', hclock, hentry', hentry]
    obtain ⟨r', hr', he'⟩ := shedSplit_stamps hr
    obtain ⟨r'', hr'', he⟩ := shedSplit_stamps hr'
    rw [he', hmap']
    split
    case isTrue hj => exact hj ▸ hshare other
    case isFalse =>
      rw [he, hmap]
      split
      case isTrue hj => exact hj ▸ hshare keep
      case isFalse hj => exact (h.2.2 j r'' hr'').moved (hm.kept (Ne.symm hj))

/-! ### Merges and splits as a whole -/

variable {I I₀ I₁ I₂ : Part → Prop}

theorem Orderly.abandonStopping (h : Orderly I) (o : Sequenced) (i : IslandNo) (ho : I o.part) : I (o.abandonStopping i).part := by
  unfold Sequenced.abandonStopping
  extract_lets r
  split
  · exact h.steps (abandonRequest_steps _ _) ho
  · exact ho

theorem Orderly.shareMerge (h : Orderly I) (lo hi : IslandNo) (hp : I p) : I (shareMerge lo hi p) := by
  have hended := h.stopPlans hi (h.stopPeriods hi (h.stopPlans lo (h.stopPeriods lo hp)))
  unfold Machine.shareMerge
  extract_lets ended
  split
  · exact h.beginPeriods lo hended
  · exact hended

/-- What the reserve records and the histories of a merge turn one condition into another by, the whole of it does. -/
theorem mergeIslands_turns (h₀ : Orderly I₀) (h₁ : Orderly I₁) (h₂ : Orderly I₂)
    (hreserve : ∀ q, I₀ q → I₁ (reservesMerged lo hi q)) (hhistory : ∀ q ctx, I₁ q → I₂ (historiesMerged lo hi ctx q))
    (hp : I₀ p) : I₂ (mergeIslands lo hi p) := by
  unfold mergeIslands
  extract_lets synced abandoned merged handed
  have hsynced : I₀ synced.part := h₀.syncAgree lo (h₀.occur _ _ hp)
  have habandoned : I₀ abandoned.part := h₀.abandonStopping _ hi (h₀.abandonStopping _ lo
    (keeps_on synced _ (h₀.shareMerge lo hi hsynced)))
  clear_value abandoned
  have hreserved : I₁ (reserveMerge lo hi abandoned.part) :=
    fold_keeps _ _ (fun _ r hq => h₁.deny r.consumer hq) (hreserve _ habandoned)
  have hmerged : I₂ merged.part := by
    refine keeps_on (abandoned.on (reserveMerge lo hi)) _ ?_
    have hon : (abandoned.on (reserveMerge lo hi)).part = reserveMerge lo hi abandoned.part := rfl
    rw [hon]
    generalize reserveMerge lo hi abandoned.part = q at hreserved
    have hwaiting := h₂.retrigger lo (hhistory _ (mergedShed q (island (abandonRestore hi (abandonRestore lo q)) lo).shed
      (island (abandonRestore hi (abandonRestore lo q)) hi).shed) (h₁.abandonRestore hi (h₁.abandonRestore lo hreserved)))
    unfold shedMerge
    extract_lets quit a b joined ceased waiting
    have hw : I₂ waiting := hwaiting
    split
    · exact h₂.rebuild lo hw
    · exact h₂.clearDead lo hw
  clear_value merged
  have hhanded : I₂ handed := h₂.handOn merged hmerged
  split
  · exact h₂.testIsland lo hhanded
  · exact h₂.handOn _ (h₂.blackoutStart lo hhanded)

theorem Orderly.shareSplit (h : Orderly I) (i : IslandNo) (hp : I p) : I (shareSplit i p) := by
  have hended := h.stopPlans i (h.stopPeriods i hp)
  unfold Machine.shareSplit
  extract_lets ended
  split
  · exact h.beginPeriods i hended
  · exact fold_keeps _ _ (fun q _ hq => h.same q _ rfl le_rfl hq)
      (fold_keeps _ _ (fun q _ hq => h.same q _ rfl le_rfl hq) hended)

theorem Orderly.yieldSplit (h : Orderly I) (was : Bool) (i : IslandNo) (hp : I p) : I (yieldSplit was i p) := by
  unfold Machine.yieldSplit
  split
  · exact h.testIsland i hp
  · split
    · exact h.deadIsland i (h.occur _ _ hp)
    · exact h.deadIsland i hp

/-- The same of a split. -/
theorem splitIsland_turns {keep other : IslandNo} (was : Bool) (h₀ : Orderly I₀) (h₁ : Orderly I₁) (h₂ : Orderly I₂)
    (hcreated : I₀ { p with islands := p.islands.set other (some Island.fresh) })
    (hreserve : ∀ q, I₀ q → I₁ (reservesSplit keep other q)) (hhistory : ∀ q, I₁ q → I₂ (historiesSplit keep other q)) :
    I₂ (splitIsland keep other was p) := by
  unfold splitIsland
  extract_lets created told first second synced abandoned original reserved shed
  have htold : I₀ told := h₀.occur _ _ (h₀.occur _ _ hcreated)
  have hsecond : I₀ second.part := h₀.syncAgree other (h₀.syncAgree keep htold)
  have hsynced : I₀ synced.part := by dsimp only [synced]; exact hsecond
  clear_value synced
  have habandoned : I₀ abandoned.part := h₀.abandonStopping _ keep
    (keeps_on synced _ (h₀.shareSplit other (h₀.shareSplit keep hsynced)))
  have hreserved : I₁ reserved.part := keeps_on abandoned _ (hreserve _ habandoned)
  clear_value reserved
  have hshed : I₂ shed.part := keeps_on reserved _
    (h₂.rebuild other (h₂.rebuild keep (hhistory _ (h₁.abandonRestore keep hreserved))))
  clear_value shed
  exact h₂.yieldSplit was other (h₂.yieldSplit was keep (h₂.handOn _ hshed))

/-- A fresh record holds nobody's place. -/
theorem created_some {i : IslandNo} {r : Island} (h : (p.islands.set i (some Island.fresh))[j] = some r) :
    r = Island.fresh ∨ p.islands[j] = some r := by
  by_cases hj : i = j
  · subst hj
    exact .inl (by simpa using h.symm)
  · rw [Fin.getElem_fin, Vector.getElem_set_ne _ _ (fun e => hj (Fin.ext e))] at h
    exact .inr h

theorem heavyBy_created (i : IslandNo) (h : HeavyBy m p) :
    HeavyBy m { p with islands := p.islands.set i (some Island.fresh) } := by
  refine ⟨h.1, fun j r hr => ?_⟩
  rcases created_some hr with rfl | hr
  · exact ⟨List.nodup_nil, nofun⟩
  · exact h.2 j r hr

theorem recordsBy_created (i : IslandNo) (h : RecordsBy m x p) :
    RecordsBy m x { p with islands := p.islands.set i (some Island.fresh) } := by
  refine ⟨h.1, h.2.1, fun j r hr => ?_⟩
  rcases created_some hr with rfl | hr
  · exact stampsHold_nil m _ _ j
  · exact h.2.2 j r hr

end

/-! ### The map of a tie's change (R12, R17) -/

/-- A tie that comes to join two islands gives the sections of the later one to the earlier (R19). -/
theorem map_of_merge (joins : Vector Bool 4) (t : TieNo) (h : islandMapOf (joins.set t true) ≠ islandMapOf joins) :
    min (islandMapOf joins)[t] (islandMapOf joins)[t + 1] ≠ max (islandMapOf joins)[t] (islandMapOf joins)[t + 1]
      ∧ ∀ s : SectionNo, (islandMapOf (joins.set t true))[s] =
        if (islandMapOf joins)[s] = max (islandMapOf joins)[t] (islandMapOf joins)[t + 1] then
          min (islandMapOf joins)[t] (islandMapOf joins)[t + 1] else (islandMapOf joins)[s] := by
  revert t
  refine forall_ties (P := fun joins => ∀ t : TieNo, islandMapOf (joins.set t true) ≠ islandMapOf joins →
    min (islandMapOf joins)[t] (islandMapOf joins)[t + 1] ≠ max (islandMapOf joins)[t] (islandMapOf joins)[t + 1]
      ∧ ∀ s : SectionNo, (islandMapOf (joins.set t true))[s] =
        if (islandMapOf joins)[s] = max (islandMapOf joins)[t] (islandMapOf joins)[t + 1] then
          min (islandMapOf joins)[t] (islandMapOf joins)[t + 1] else (islandMapOf joins)[s]) ?_ joins
  decide +kernel

/-- A tie that no longer joins its sections takes sections of the earlier of their islands to the later (R20). -/
theorem map_of_split (joins : Vector Bool 4) (t : TieNo) (h : islandMapOf (joins.set t false) ≠ islandMapOf joins) :
    ∀ s : SectionNo, (islandMapOf joins)[s] =
      if (islandMapOf (joins.set t false))[s]
          = max (islandMapOf (joins.set t false))[t] (islandMapOf (joins.set t false))[t + 1] then
        min (islandMapOf (joins.set t false))[t] (islandMapOf (joins.set t false))[t + 1]
      else (islandMapOf (joins.set t false))[s] := by
  revert t
  refine forall_ties (P := fun joins => ∀ t : TieNo, islandMapOf (joins.set t false) ≠ islandMapOf joins →
    ∀ s : SectionNo, (islandMapOf joins)[s] =
      if (islandMapOf (joins.set t false))[s]
          = max (islandMapOf (joins.set t false))[t] (islandMapOf (joins.set t false))[t + 1] then
        min (islandMapOf (joins.set t false))[t] (islandMapOf (joins.set t false))[t + 1]
      else (islandMapOf (joins.set t false))[s]) ?_ joins
  decide +kernel

section

variable {p : Part} {t : TieNo}

/-- The part with a tie's change recorded and the map made anew. -/
def remapped (t : TieNo) (joins : Bool) (p : Part) : Part :=
  { p with tieJoins := p.tieJoins.set t joins, islandMap := some (islandMapOf (p.tieJoins.set t joins)) }

theorem entryIsland_of_map {map : Vector IslandNo 4} (h : p.islandMap = some map) (c : ConsumerNo) :
    entryIsland p c = (entryCfg p c).map fun e => map[e.sect] := by
  simp only [entryIsland, islandOf, h, Option.map_some]
  cases entryCfg p c <;> rfl

theorem entryIsland_remapped (t : TieNo) (joins : Bool) (p : Part) (c : ConsumerNo) :
    entryIsland (remapped t joins p) c = (entryCfg p c).map fun e => (islandMapOf (p.tieJoins.set t joins))[e.sect] :=
  entryIsland_of_map (p := remapped t joins p) rfl c

/-- A condition turned by merges and splits is kept by a tie's change. -/
theorem tieChanged_turns {I : (ConsumerNo → Option IslandNo) → Part → Prop}
    (hfree : ∀ m p joins map, I m p → I m { p with tieJoins := joins, islandMap := map })
    (hmerge : ∀ m m' lo hi p, lo ≠ hi → JoinedTo lo hi m m' → I m p → I m' (mergeIslands lo hi p))
    (hsplit : ∀ m m' keep other was p, SharedOut keep other m m' → entryIsland p = m' → I m p →
      I m' (splitIsland keep other was p))
    (hmap : MapHolds p) (joins : Bool) (hp : I (entryIsland p) p) :
    I (entryIsland (tieChanged t joins p)) (tieChanged t joins p) := by
  obtain ⟨haside, -⟩ := tieChanged_shaped hmap t joins
  have hnew : entryIsland (tieChanged t joins p) = entryIsland (remapped t joins p) := by
    simp only [Part.aside, Part.settings, Part.desk, Part.seen, Prod.mk.injEq] at haside
    exact entryIsland_reads _ _ haside.2.1.2.2.2.2 (congrArg Configuration.shedList haside.2.1.1)
  rw [hnew]
  obtain ⟨hold, -⟩ := hmap
  unfold tieChanged
  simp only [hold]
  by_cases hsame : islandMapOf (p.tieJoins.set t joins) = islandMapOf p.tieJoins
  · rw [if_pos (by simpa using hsame)]
    have hislands : entryIsland (remapped t joins p) = entryIsland p := by
      funext c
      rw [entryIsland_remapped, entryIsland_of_map hold, hsame]
    rw [hislands]
    exact hfree _ p _ _ hp
  · rw [if_neg (by simpa using hsame)]
    have hrecorded : I (entryIsland p) (remapped t joins p) := hfree _ p _ _ hp
    cases joins with
    | true =>
      obtain ⟨hne, hmapped⟩ := map_of_merge p.tieJoins t hsame
      rw [if_pos rfl]
      refine hmerge (entryIsland p) _ _ _ (remapped t true p) hne (fun c => ?_) hrecorded
      rw [entryIsland_remapped, entryIsland_of_map hold, Option.map_map]
      exact congrArg (fun f => Option.map f (entryCfg p c)) (funext fun e => hmapped e.sect)
    | false =>
      have hmapped := map_of_split p.tieJoins t hsame
      rw [if_neg Bool.false_ne_true]
      refine hsplit (entryIsland p) _ _ _ _ (remapped t false p) (fun c => ?_) rfl hrecorded
      rw [entryIsland_remapped, entryIsland_of_map hold, Option.map_map]
      exact congrArg (fun f => Option.map f (entryCfg p c)) (funext fun e => hmapped e.sect)

theorem entryIsland_free {m : ConsumerNo → Option IslandNo} {I : Part → Prop} (h : Orderly I) :
    Orderly fun p => I p ∧ entryIsland p = m := h.and entryIsland (fun p q _ hmap hl => entryIsland_reads p q hmap hl) m

theorem tieChanged_heavyHolds (hmap : MapHolds p) (joins : Bool) (hp : HeavyHolds p) : HeavyHolds (tieChanged t joins p) := by
  refine tieChanged_turns (I := HeavyBy) (fun _ _ _ _ h => h) ?_ ?_ hmap joins hp
  · exact fun m m' lo hi p hne hm h => mergeIslands_turns (heavyBy_orderly m) (heavyBy_orderly m') (heavyBy_orderly m')
      (fun _ hq => heavyBy_merged hne hm hq) (fun _ ctx hq => heavyBy_historiesMerged ctx hq) h
  · exact fun m m' keep other was p hm hmap h => splitIsland_turns was (entryIsland_free (heavyBy_orderly m))
      (heavyBy_orderly m') (heavyBy_orderly m') ⟨heavyBy_created other h, hmap⟩ (fun _ hq => heavyBy_split hm hq)
      (fun _ hq => shedSplit_heavyBy other _ (shedSplit_heavyBy keep _ hq))

theorem recordsBy_reserve {m : ConsumerNo → Option IslandNo} {x : ConsumerNo → Bool} (i : IslandNo)
    (f : ReserveRecord → ReserveRecord) (h : RecordsBy m x p) : RecordsBy m x (onReserve i f p) :=
  recordsBy_congr (p := p) h.1 le_rfl rfl (held_onIsland fun _ => rfl) h

theorem tieChanged_entryExists (hmap : MapHolds p) (joins : Bool) : entryExists (tieChanged t joins p) = entryExists p := by
  obtain ⟨hphase, hcfg, -, -⟩ := tieChanged_fields (t := t) hmap joins
  exact entryExists_reads _ _ hphase (congrArg Configuration.shedList hcfg)

theorem tieChanged_recordsHold (hmap : MapHolds p) (joins : Bool) (hp : RecordsHold p) : RecordsHold (tieChanged t joins p) := by
  rw [RecordsHold, tieChanged_entryExists hmap]
  refine tieChanged_turns (I := fun m => RecordsBy m (entryExists p)) (fun _ _ _ _ h => h) ?_ ?_ hmap joins hp
  · exact fun m m' lo hi p hne hm h => mergeIslands_turns (recordsBy_orderly m _) (recordsBy_orderly m _) (recordsBy_orderly m' _)
      (fun _ hq => recordsBy_reserve _ _ (recordsBy_reserve _ _ hq)) (fun _ ctx hq => recordsBy_merged hne hm ctx hq) h
  · exact fun m m' keep other was p hm hmap h => splitIsland_turns was (entryIsland_free (recordsBy_orderly m _))
      (entryIsland_free (recordsBy_orderly m _)) (recordsBy_orderly m' _) ⟨recordsBy_created other h, hmap⟩
      (fun _ hq => ⟨recordsBy_reserve _ _ (recordsBy_reserve _ _ hq.1), hq.2⟩) (fun _ hq => recordsBy_split hm hq)

end

end Sys2Proof.Proofs
end

section
/-! How a consumer's place among the heavy queues and grants comes and goes: asked for, released, forgotten, and moved with its
section (R114, R117, R119). -/

namespace Sys2Proof.Proofs

open Sys2Proof.Machine Sys2Proof.Claims Sequenced

/-- As `m`, but for a consumer that has no island. -/
def without (c : ConsumerNo) (m : ConsumerNo → Option IslandNo) : ConsumerNo → Option IslandNo :=
  fun d => if d = c then none else m d

section

variable {m m' : ConsumerNo → Option IslandNo} {p q : Part} {c : ConsumerNo} {i j : IslandNo}

/-- No island's queue holds a request of the consumer. -/
def NoRequest (c : ConsumerNo) (p : Part) : Prop :=
  ∀ (j : IslandNo) (r : Island), p.islands[j] = some r → c ∉ r.reserve.queue.map HeavyRequest.consumer

/-- No island holds a grant of the consumer. -/
def NoGrant (c : ConsumerNo) (p : Part) : Prop :=
  ∀ (j : IslandNo) (r : Island), p.islands[j] = some r → c ∉ r.reserve.grants.map HeavyGrant.consumer

/-- A consumer that stands nowhere may be given any island. -/
theorem HeavyBy.absent (h : HeavyBy m p) (hr : NoRequest c p) (hg : NoGrant c p) : HeavyBy (without c m) p := by
  refine ⟨h.1, fun j r hj => ?_⟩
  obtain ⟨hnodup, hall⟩ := h.2 j r hj
  refine ⟨hnodup, fun d hd => ?_⟩
  have hne : d ≠ c := by
    rintro rfl
    exact (List.mem_append.mp hd).elim (hr j r hj) (hg j r hj)
  rw [without, if_neg hne]
  exact hall d hd

theorem HeavyBy.given (h : HeavyBy (without c m) p) (hm : ∀ d, d ≠ c → m' d = m d) : HeavyBy m' p := by
  refine ⟨h.1, fun j r hj => ?_⟩
  obtain ⟨hnodup, hall⟩ := h.2 j r hj
  refine ⟨hnodup, fun d hd => ?_⟩
  have hd' := hall d hd
  by_cases hdc : d = c
  · rw [without, if_pos hdc] at hd'
    exact nomatch hd'
  · rw [without, if_neg hdc] at hd'
    rw [hm d hdc, hd']

theorem without_of_none (h : m c = none) : without c m = m := by
  funext d
  unfold without
  split
  case isTrue hd => rw [hd, h]
  case isFalse => rfl

/-- A consumer that stands nowhere takes a place in the island that it is given. -/
theorem heavyBy_joins {f : ReserveRecord → ReserveRecord} (h : HeavyBy (without c m) p) (hm : ∀ d, d ≠ c → m' d = m d)
    (hc : m' c = some i) (hf : ∀ r, p.islands[i] = some r → (f r.reserve).consumers.Perm (c :: r.reserve.consumers)) :
    HeavyBy m' (onReserve i f p) := by
  have hgiven := h.given hm
  refine ⟨h.1, fun j r hj => ?_⟩
  obtain ⟨r', hr', rfl⟩ := onIsland_some hj
  split
  case isFalse => exact hgiven.2 j r' hr'
  case isTrue hij =>
    subst hij
    obtain ⟨hnodup, hall⟩ := hgiven.2 i r' hr'
    have hnot : c ∉ r'.reserve.consumers := fun hmem => by
      have := (h.2 i r' hr').2 c hmem
      rw [without, if_pos rfl] at this
      exact nomatch this
    refine ⟨(hf r' hr').nodup_iff.mpr (List.nodup_cons.mpr ⟨hnot, hnodup⟩), fun d hd => ?_⟩
    rcases List.mem_cons.mp ((hf r' hr').mem_iff.mp hd) with rfl | hd
    · exact hc
    · exact hall d hd

/-! ### Release and forgetting (R117, R119) -/

/-- What the queues and the grants are read from. -/
def reserves (p : Part) := held (fun r => (r.reserve.queue, r.reserve.grants)) p

theorem NoRequest.congr (h : reserves q = reserves p) (hp : NoRequest c p) : NoRequest c q := by
  intro j r hr
  obtain ⟨r', hr', he⟩ := get_of_held h hr
  rw [(Prod.mk.inj he).1]
  exact hp j r' hr'

theorem NoGrant.congr (h : reserves q = reserves p) (hp : NoGrant c p) : NoGrant c q := by
  intro j r hr
  obtain ⟨r', hr', he⟩ := get_of_held h hr
  rw [(Prod.mk.inj he).2]
  exact hp j r' hr'

/-- The Reserve Unit's tests leave the queues and the grants. -/
theorem testIsland_reserves (i : IslandNo) (p : Part) : reserves (testIsland i p) = reserves p :=
  held_of_held (g := Island.kept) (fun k => (k.1, k.2.1)) (tests_testIsland (tests_held (held Island.kept p)) i rfl)

/-- Where a consumer's request or grant stands, no other island holds one. -/
theorem HeavyBy.unique {r r' : Island} (h : HeavyBy m p) (hi : p.islands[i] = some r) (hj : p.islands[j] = some r')
    (hc : c ∈ r.reserve.consumers) (hc' : c ∈ r'.reserve.consumers) : i = j :=
  Option.some.inj (((h.2 i r hi).2 c hc).symm.trans ((h.2 j r' hj).2 c hc'))

theorem any_consumer {α : Type} {f : α → ConsumerNo} {l : List α} : (l.any fun a => f a == c) = true ↔ c ∈ l.map f := by
  simp [List.any_eq_true]

/-- An island holds a grant of the consumer. -/
def holdsGrant (c : ConsumerNo) (r : Island) : Bool := r.reserve.grants.any fun g => g.consumer == c

/-- An island's queue holds a request of the consumer. -/
def holdsRequest (c : ConsumerNo) (r : Island) : Bool := r.reserve.queue.any fun q => q.consumer == c

/-- A search through the islands that finds nothing. -/
theorem not_of_find?_none (f : Island → Bool) (h : allSections.find? (fun i => f (island p i)) = none) {r : Island}
    (hr : p.islands[j] = some r) : ¬f r = true := by
  have hnone := List.find?_eq_none.mp h j (mem_allSections j)
  rwa [island_some hr] at hnone

/-- An island that a search finds has a record. -/
theorem some_of_find? (f : Island → Bool) (hf : f Island.fresh = false)
    (h : allSections.find? (fun i => f (island p i)) = some i) : ∃ r, p.islands[i] = some r ∧ f r = true := by
  have hfound := List.find?_some h
  cases hr : p.islands[i] with
  | none =>
    rw [island, hr, Option.getD_none, hf] at hfound
    exact nomatch hfound
  | some r =>
    rw [island_some hr] at hfound
    exact ⟨r, rfl, hfound⟩

/-- A released grant is gone (R117). -/
theorem releaseGrant_noGrant (h : HeavyBy m p) (c : ConsumerNo) : NoGrant c (releaseGrant c p) := by
  unfold releaseGrant grantIsland
  split
  case h_2 hnone => exact fun j r hr hc => not_of_find?_none (holdsGrant c) hnone hr (any_consumer.mpr hc)
  case h_1 i hi =>
    obtain ⟨r₀, hr₀, hany⟩ := some_of_find? (holdsGrant c) rfl hi
    refine NoGrant.congr (testIsland_reserves i _) fun j r hr hc => ?_
    obtain ⟨r', hr', rfl⟩ := onIsland_some hr
    split at hc
    case isTrue =>
      obtain ⟨g, hg, hgc⟩ := List.mem_map.mp hc
      simpa [hgc] using (List.mem_filter.mp hg).2
    case isFalse hij =>
      exact hij (h.unique hr₀ hr' (List.mem_append_right _ (any_consumer.mp hany)) (List.mem_append_right _ hc))

/-- What the release of a grant leaves of the requests. -/
theorem releaseGrant_noRequest (c : ConsumerNo) (hp : NoRequest c p) : NoRequest c (releaseGrant c p) := by
  intro j r hr
  obtain ⟨r', hr', he⟩ := get_of_held (grants_releaseGrant (grants_held (held keptBesideGrants p)) c rfl) hr
  rw [(Prod.mk.inj he).1]
  exact hp j r' hr'

theorem mem_headed {d : Nat} {l : List HeavyRequest} :
    c ∈ (headed d l).map HeavyRequest.consumer ↔ c ∈ l.map HeavyRequest.consumer := by rw [headed_consumers]

/-- A consumer's requests leave its island's queue. -/
theorem onQueue_noRequest (h : HeavyBy m p) {r₀ : Island} (hr₀ : p.islands[i] = some r₀)
    (hc₀ : c ∈ r₀.reserve.queue.map HeavyRequest.consumer) :
    NoRequest c (onQueue i (fun qs => qs.filter fun q => q.consumer != c) p) := by
  intro j r hr hc
  obtain ⟨r', hr', rfl⟩ := onIsland_some hr
  split at hc
  case isTrue =>
    obtain ⟨g, hg, hgc⟩ := List.mem_map.mp (mem_headed.mp hc)
    simpa [hgc] using (List.mem_filter.mp hg).2
  case isFalse hij => exact hij (h.unique hr₀ hr' (List.mem_append_left _ hc₀) (List.mem_append_left _ hc))

/-- A forgotten consumer stands nowhere (R119). -/
theorem forgetHeavy_absent (h : HeavyBy m p) (c : ConsumerNo) : HeavyBy (without c m) (forgetHeavy c p) := by
  unfold forgetHeavy
  extract_lets left
  have hforgotten : HeavyBy m (releaseGrant c left) := (heavyBy_orderly m).forgetHeavy c h
  have hleft : HeavyBy m left ∧ NoRequest c left := by
    dsimp only [left]
    unfold queueIsland
    split
    case h_1 i hi =>
      obtain ⟨r₀, hr₀, hany⟩ := some_of_find? (holdsRequest c) rfl hi
      refine ⟨(heavyBy_orderly m).testIsland _ ((heavyBy_orderly m).onQueue _ (fun q => List.filter_sublist.map _) h), ?_⟩
      exact (onQueue_noRequest h hr₀ (any_consumer.mp hany)).congr (testIsland_reserves i _)
    case h_2 hnone => exact ⟨h, fun j r hr hc => not_of_find?_none (holdsRequest c) hnone hr (any_consumer.mpr hc)⟩
  exact hforgotten.absent (releaseGrant_noRequest c hleft.2) (releaseGrant_noGrant hleft.1 c)

/-! ### Asked for (R114) -/

/-- A request takes its consumer's one place (R114). -/
theorem heavyRequest_heavyHolds (c : ConsumerNo) (kw : Nat) (h : HeavyHolds p) : HeavyHolds (heavyRequest c kw p) := by
  have hI := heavyHolds_orderly
  have hreleased := hI.releaseGrant c h
  have hfree := releaseGrant_noGrant h c
  unfold heavyRequest
  extract_lets asks
  split
  case h_2 => exact hI.deny c h
  case h_1 i _ hi =>
    split
    case isFalse => exact hI.deny c h
    case isTrue =>
      have hsame : entryIsland (releaseGrant c p) = entryIsland p :=
        (((heavyBy_orderly (entryIsland p)).and entryIsland (fun p q _ hmap hl => entryIsland_reads p q hmap hl)
          (entryIsland p)).releaseGrant c ⟨h, rfl⟩).2
      generalize releaseGrant c p = q at hreleased hfree hsame ⊢
      have hplace : entryIsland q c = some i := by rw [hsame, hi]
      unfold queueHeavy
      extract_lets queue
      split
      case isTrue =>
        refine hI.testIsland i (hI.onQueue i (fun l => ?_) hreleased)
        rw [List.map_map, List.map_congr_left (g := HeavyRequest.consumer) fun a _ => ?_]
        simp only [Function.comp_apply]
        split <;> rfl
      case isFalse hnot =>
        split
        case isTrue => exact hI.deny c hreleased
        case isFalse =>
          have hrequest : NoRequest c q := by
            intro j r hr hc
            have hj := (hreleased.2 j r hr).2 c (List.mem_append_left _ hc)
            rw [hplace] at hj
            obtain rfl := Option.some.inj hj
            refine hnot (any_consumer.mpr ?_)
            dsimp only [queue]
            rw [island_some hr]
            exact hc
          refine hI.testIsland i ?_
          have hjoined : HeavyBy (entryIsland q)
              (onQueue i (fun qs => qs ++ [{ consumer := c, kw := kw, arrival := q.clock, deadline := none }]) q) := by
            refine heavyBy_joins (hreleased.absent hrequest hfree) (fun _ _ => rfl) hplace fun r _ => ?_
            rw [consumers_headed, ReserveRecord.consumers, List.map_append, List.append_assoc]
            exact List.perm_middle
          exact hjoined

/-! ### Moved with its section (R119) -/

theorem find?_consumer_none {α : Type} {f : α → ConsumerNo} {l : List α} (h : l.find? (fun a => f a == c) = none) : c ∉ l.map f := by
  intro hc
  obtain ⟨a, ha, hac⟩ := List.mem_map.mp hc
  exact List.find?_eq_none.mp h a ha (beq_iff_eq.mpr hac)

theorem find?_consumer_some {α : Type} {f : α → ConsumerNo} {l : List α} {a : α} (h : l.find? (fun a => f a == c) = some a) :
    f a = c ∧ c ∈ l.map f := by
  have hac : f a = c := by simpa using List.find?_some h
  exact ⟨hac, List.mem_map.mpr ⟨a, List.mem_of_find?_eq_some h, hac⟩⟩

/-- Where an island holds none of a consumer's places, and `m` gives it no other, the consumer stands nowhere. -/
theorem HeavyBy.elsewhere (h : HeavyBy m p) (hc : m c = some i) (hr : c ∉ (island p i).reserve.queue.map HeavyRequest.consumer)
    (hg : c ∉ (island p i).reserve.grants.map HeavyGrant.consumer) : HeavyBy (without c m) p := by
  refine h.absent (fun j r hj hmem => ?_) fun j r hj hmem => ?_
  · obtain rfl := Option.some.inj (hc.symm.trans ((h.2 j r hj).2 c (List.mem_append_left _ hmem)))
    rw [island_some hj] at hr
    exact hr hmem
  · obtain rfl := Option.some.inj (hc.symm.trans ((h.2 j r hj).2 c (List.mem_append_right _ hmem)))
    rw [island_some hj] at hg
    exact hg hmem

/-- A consumer's place moves with its section. -/
theorem moveHeavy_heavyBy {src dst : IslandNo} (hne : src ≠ dst) (hm : ∀ d, d ≠ c → m' d = m d) (hsrc : m c = some src)
    (hdst : m' c = some dst) (h : HeavyBy m p) : HeavyBy m' (moveHeavy c src dst p) := by
  have hI := heavyBy_orderly m
  have hI' := heavyBy_orderly m'
  unfold moveHeavy
  cases hgrant : (island p src).reserve.grants.find? fun g => g.consumer == c with
  | some g =>
    obtain ⟨hgc, hmem⟩ := find?_consumer_some hgrant
    have hmoved : HeavyBy m' (moveGrant c src dst p) := by
      have hdropped : HeavyBy (without c m) (dropGrant src c p) := by
        have hnodup := (heavyBy_island h src).1
        refine (hI.dropGrant src c h).absent (fun j r hr hc => ?_) fun j r hr hc => ?_
        · obtain ⟨r', hr', rfl⟩ := onIsland_some hr
          have hqueue : c ∈ r'.reserve.queue.map HeavyRequest.consumer := by
            split at hc <;> exact hc
          have hj := (h.2 j r' hr').2 c (List.mem_append_left _ hqueue)
          obtain rfl := Option.some.inj (hsrc.symm.trans hj)
          rw [island_some hr'] at hnodup hmem
          exact (List.nodup_append.mp hnodup).2.2 c hqueue c hmem rfl
        · obtain ⟨r', hr', rfl⟩ := onIsland_some hr
          split at hc
          case isTrue =>
            obtain ⟨g', hg', hgc'⟩ := List.mem_map.mp hc
            simpa [hgc'] using (List.mem_filter.mp hg').2
          case isFalse hij =>
            exact hij (Option.some.inj (hsrc.symm.trans ((h.2 j r' hr').2 c (List.mem_append_right _ hc))))
      unfold moveGrant
      simp only [hgrant]
      split
      · refine heavyBy_joins hdropped hm hdst fun r _ => ?_
        simp only [ReserveRecord.consumers, List.map_append, List.map_cons, List.map_nil, hgc]
        rw [← List.append_assoc]
        exact List.perm_append_singleton c _
      · exact hI'.testIsland src (hdropped.given hm)
    unfold moveRequest
    split
    case h_2 => exact hmoved
    case h_1 q hq =>
      have hc := (heavyBy_island hmoved src).2 c (List.mem_append_left _ (find?_consumer_some hq).2)
      exact absurd (Option.some.inj (hc.symm.trans hdst)) hne
  | none =>
    have hgrants := find?_consumer_none hgrant
    have hstays : moveGrant c src dst p = p := by
      unfold moveGrant
      simp only [hgrant]
    rw [hstays]
    unfold moveRequest
    split
    case h_2 hnone => exact (h.elsewhere hsrc (find?_consumer_none hnone) hgrants).given hm
    case h_1 q hq =>
      obtain ⟨hqc, hmem⟩ := find?_consumer_some hq
      extract_lets dropped merged
      have hdropped : HeavyBy (without c m) dropped := by
        refine (hI.onQueue src (fun q => List.filter_sublist.map _) h).absent ?_ fun j r hr hc => ?_
        · cases hr : p.islands[src] with
          | none =>
            rw [island, hr] at hmem
            exact nomatch hmem
          | some r₀ =>
            rw [island_some hr] at hmem
            exact onQueue_noRequest h hr hmem
        · obtain ⟨r', hr', rfl⟩ := onIsland_some hr
          have hheld : c ∈ r'.reserve.grants.map HeavyGrant.consumer := by
            split at hc <;> exact hc
          have hj := (h.2 j r' hr').2 c (List.mem_append_right _ hheld)
          obtain rfl := Option.some.inj (hsrc.symm.trans hj)
          rw [island_some hr'] at hgrants
          exact hgrants hheld
      clear_value dropped
      split
      case isTrue => exact hI'.testIsland src (hI'.deny c (hdropped.given hm))
      case isFalse =>
        refine hI'.testIsland dst (hI'.testIsland src ?_)
        have hjoined : HeavyBy m' (onQueue dst (fun _ => merged) dropped) := by
          refine heavyBy_joins hdropped hm hdst fun r hr => ?_
          have hperm : merged.Perm (r.reserve.queue ++ [leavingRequest (island p src).reserve q]) := by
            dsimp only [merged]
            rw [island_some hr]
            exact mergeRequests_perm _ _ _
          have hname : (leavingRequest (island p src).reserve q).consumer = c := hqc
          rw [consumers_headed, ReserveRecord.consumers]
          refine ((hperm.map _).append_right _).trans ?_
          rw [List.map_append, List.append_assoc, List.map_cons, hname]
          exact List.perm_middle
        exact hjoined

end

end Sys2Proof.Proofs
end

section
/-! What the edits of the shed list make of a consumer's place among the heavy queues and grants, of its entry and of its history
record (R10, R119, R126, R131 to R135, R157, R158). -/

namespace Sys2Proof.Proofs

open Sys2Proof.Machine Sys2Proof.Claims Sequenced

/-! ### Orders that end (R31) -/

namespace Orderly

variable {I : Part → Prop} {p : Part}

theorem orderOutcome (h : Orderly I) (c : ConsumerNo) (a : ConsumerOrder) {out : OrderOutcome} (hout : out ≠ .confirmed) (hp : I p) :
    I (Machine.orderOutcome c a out p) := by
  unfold Machine.orderOutcome
  split
  · exact h.shedOutcome c hout hp
  · split
    · exact h.restoreOutcome c out hp
    · exact hp

theorem markWithdrawn (h : Orderly I) (o : ObjectRef) (hp : I p) : I (Machine.markWithdrawn o p) := by
  unfold Machine.markWithdrawn
  split
  · split
    · exact h.same p _ rfl le_rfl hp
    · exact hp
  · exact hp

theorem dropFeedback (h : Orderly I) (c : ConsumerNo) (hp : I p) : I (Machine.dropFeedback c p) := h.same p _ rfl le_rfl hp

theorem withdrawOrders (h : Orderly I) (c : ConsumerNo) (hp : I p) : I (Machine.withdrawOrders c p) := by
  unfold Machine.withdrawOrders
  extract_lets queued awaited
  have hqueued : I queued := by
    dsimp only [queued]
    split
    · exact h.orderOutcome c _ nofun (h.dropQueued _ hp)
    · exact hp
  clear_value queued
  refine h.markWithdrawn _ ?_
  dsimp only [awaited]
  split
  · exact h.orderOutcome c _ nofun (h.dropFeedback c hqueued)
  · exact hqueued

theorem remap (h : Orderly I) (o : ObjectRef) (hp : I p) : I (Machine.remap o p) := by
  cases o <;> exact h.same p _ rfl le_rfl hp

theorem rebuildSection (h : Orderly I) (s : SectionNo) (hp : I p) : I (Machine.rebuildSection s p) := by
  unfold Machine.rebuildSection
  split
  · exact h.rebuild _ hp
  · exact hp

end Orderly

section

variable {m m' : ConsumerNo → Option IslandNo} {x : ConsumerNo → Bool} {p q : Part} {c : ConsumerNo}

/-- As `x`, but for one consumer. -/
def withOne (c : ConsumerNo) (b : Bool) (x : ConsumerNo → Bool) : ConsumerNo → Bool := fun d => if d = c then b else x d

/-! ### Entries that come and go (R126) -/

/-- No island's history has a record of the consumer. -/
def NoRecord (c : ConsumerNo) (p : Part) : Prop := ∀ (i : IslandNo) (r : Island), p.islands[i] = some r → ∀ a ∈ stamps r, a.1 ≠ c

/-- An entry without a state has no record. -/
theorem RecordsBy.noRecord (h : RecordsBy m x p) (hc : x c = false) : NoRecord c p := by
  rintro i r hr ⟨d, t⟩ ha rfl
  have hstate := ((h.2.2 i r hr).2.2 _ ha).2.2
  have hsome := h.2.1 d
  rw [hc] at hsome
  rcases hstate with hs | hs
  all_goals
    dsimp only at hs
    rw [hs] at hsome
    exact nomatch hsome

/-- An entry without a record changes. -/
theorem recordsBy_onEntry (h : RecordsBy m x p) (hn : NoRecord c p) (f : EntryRecord → EntryRecord) {b : Bool}
    (hb : (f p.entry[c]).state.isSome = b) : RecordsBy m (withOne c b x) (onEntry c f p) := by
  obtain ⟨hlisted, hstate, hall⟩ := h
  refine ⟨hlisted, fun d => ?_, fun i r hr => (hall i r hr).later le_rfl fun a ha hs => ?_⟩
  · rw [onEntry_get, withOne]
    by_cases hd : d = c
    · subst hd
      rw [if_pos rfl, if_pos rfl]
      exact hb
    · rw [if_neg (Ne.symm hd), if_neg hd]
      exact hstate d
  · rw [onEntry_get, if_neg fun he => hn i r hr a ha he.symm]
    exact hs

/-- A consumer without a record may be given any island. -/
theorem RecordsBy.given (h : RecordsBy m x p) (hn : NoRecord c p) (hm : ∀ d, d ≠ c → m' d = m d) : RecordsBy m' x p := by
  obtain ⟨hlisted, hstate, hall⟩ := h
  refine ⟨hlisted, hstate, fun i r hr => ?_⟩
  obtain ⟨hnodup, hsorted, hmem⟩ := hall i r hr
  refine ⟨hnodup, hsorted, fun a ha => ?_⟩
  obtain ⟨htime, hisland, hs⟩ := hmem a ha
  exact ⟨htime, (hm a.1 (hn i r hr a ha)).trans hisland, hs⟩

theorem removeRecord_noRecord (c : ConsumerNo) (p : Part) : NoRecord c (removeRecord c p) := by
  rw [removeRecord_eq]
  intro i r hr a ha hac
  have hmap : (p.islands.map (Option.map (withoutRecord c)))[i] = some r := hr
  rw [Fin.getElem_fin, Vector.getElem_map] at hmap
  obtain ⟨r', -, rfl⟩ := Option.map_eq_some_iff.mp hmap
  obtain ⟨g, hg, rfl⟩ := List.mem_map.mp ha
  have hne := (List.mem_filter.mp hg).2
  have hgc : g.consumer = c := hac
  simp [hgc] at hne

/-! ### A record that moves with its section (R134, R157, R158) -/

theorem moveRecord_recordsBy {src dst : IslandNo} (hne : src ≠ dst) (hm : ∀ d, d ≠ c → m' d = m d) (hsrc : m c = some src)
    (hdst : m' c = some dst) (h : RecordsBy m x p) : RecordsBy m' x (moveRecord c src dst p) := by
  unfold moveRecord
  have hsource := recordsBy_island h src
  split
  case h_2 hnone =>
    refine h.given (c := c) (fun i r hr a ha hac => ?_) hm
    obtain ⟨-, hisland, -⟩ := (h.2.2 i r hr).2.2 a ha
    rw [hac] at hisland
    obtain rfl := Option.some.inj (hsrc.symm.trans hisland)
    rw [island_some hr] at hnone
    obtain ⟨g, hg, rfl⟩ := List.mem_map.mp ha
    exact List.find?_eq_none.mp hnone g hg (beq_iff_eq.mpr hac)
  case h_1 g hg =>
    have hgc : g.consumer = c := by simpa using List.find?_some hg
    obtain ⟨htime, -, hstate⟩ := hsource.2.2 (stamp g) (List.mem_map_of_mem (List.mem_of_find?_eq_some hg))
    refine ⟨h.1, h.2.1, fun i r hr => ?_⟩
    obtain ⟨r₁, hr₁, rfl⟩ := onIsland_some hr
    obtain ⟨r₀, hr₀, rfl⟩ := onIsland_some hr₁
    obtain ⟨hnodup, hsorted, hall⟩ := h.2.2 i r₀ hr₀
    by_cases hsi : src = i
    · subst hsi
      rw [if_neg (Ne.symm hne), if_pos rfl]
      have hsub : (stamps (withoutRecord c r₀)).Sublist (stamps r₀) := List.filter_sublist.map _
      refine ⟨hnodup.sublist (hsub.map _), hsorted.sublist hsub, fun a ha => ?_⟩
      obtain ⟨ht, hisland, hs⟩ := hall a (hsub.subset ha)
      obtain ⟨g', hg', rfl⟩ := List.mem_map.mp ha
      have hnc : (stamp g').1 ≠ c := by
        have := (List.mem_filter.mp hg').2
        exact fun he => by simp [stamp] at he; simp [he] at this
      exact ⟨ht, (hm _ hnc).trans hisland, hs⟩
    · rw [if_neg hsi]
      have hnot : ∀ a ∈ stamps r₀, a.1 ≠ c := fun a ha hac => by
        have hisland := (hall a ha).2.1
        rw [hac] at hisland
        exact hsi (Option.some.inj (hsrc.symm.trans hisland))
      have hkept : StampsHold m' p.clock p.entry i (stamps r₀) :=
        ⟨hnodup, hsorted, fun a ha => ⟨(hall a ha).1, (hm _ (hnot a ha)).trans (hall a ha).2.1, (hall a ha).2.2⟩⟩
      split
      case isFalse => exact hkept
      case isTrue hdi =>
        subst hdi
        refine stampsHold_merged hkept ⟨List.nodup_singleton _, List.pairwise_singleton _ _, fun a ha => ?_⟩ fun a ha b hb hab => ?_
        · obtain rfl := List.mem_singleton.mp ha
          exact ⟨htime, (congrArg m' hgc).trans hdst, hstate⟩
        · obtain rfl := List.mem_singleton.mp hb
          exact hnot (stamp a) (List.mem_map_of_mem ha) (hab.trans hgc)

theorem recordsBy_moveHeavy (c : ConsumerNo) (src dst : IslandNo) (h : RecordsBy m x p) : RecordsBy m x (moveHeavy c src dst p) := by
  have hI := recordsBy_orderly m x
  have hgrant : RecordsBy m x (moveGrant c src dst p) := by
    have hdropped := recordsBy_reserve src (fun r => { r with grants := r.grants.filter fun g => g.consumer != c }) h
    unfold moveGrant
    split
    · extract_lets dropped
      split
      · exact recordsBy_reserve dst _ hdropped
      · exact hI.testIsland src hdropped
    · exact h
  unfold moveHeavy moveRequest
  split
  case h_2 => exact hgrant
  case h_1 =>
    extract_lets dropped merged
    have hdropped : RecordsBy m x dropped := recordsBy_reserve src _ hgrant
    split
    · exact hI.testIsland src (hI.deny c hdropped)
    · exact hI.testIsland dst (hI.testIsland src (recordsBy_reserve dst _ hdropped))

end

/-! ### Families of conditions -/

/-- A condition of consumers' places, with their islands and with the entries that have a state. -/
structure Placing (I : (ConsumerNo → Option IslandNo) → (ConsumerNo → Bool) → Part → Prop) : Prop where
  orderly : ∀ m x, Orderly (I m x)
  relists : ∀ m x p cfg, (cfg.shedList.Pairwise fun a b => a.consumer ≠ b.consumer) → I m x p → I m x { p with cfg := cfg }
  runs : ∀ m x p, I m x p → I m x { p with phase := .run, acquireAt := none }
  enlists : ∀ m m' x p c, m c = none → x c = false → (∀ d, d ≠ c → m' d = m d) → I m x p → I m' x p
  derives : ∀ m x p c, x c = false → I m x p → I m (withOne c true x) (deriveEntry c p)
  strikes : ∀ m m' x p c, (∀ d, d ≠ c → m' d = m d) → I m x p → I m' (withOne c false x) (unconfigureConsumer c p)
  moves : ∀ m m' x p c src dst, src ≠ dst → (∀ d, d ≠ c → m' d = m d) → m c = some src → m' c = some dst → I m x p →
    I m' x (moveHeavy c src dst (moveRecord c src dst p))
  fresh : ∀ m x p, ListedOnce p → (∀ c : ConsumerNo, p.entry[c].state.isSome = x c) →
    (∀ (i : IslandNo) (r : Island), p.islands[i] = some r → r = Island.fresh) → I m x p
  remade : ∀ m m' x p q, q.cfg = p.cfg → q.entry = p.entry →
    (∀ (i : IslandNo) (r : Island), q.islands[i] = some r → r = Island.fresh) → I m x p → I m' x q

/-- The condition with the part's own islands and entries. -/
def Own (I : (ConsumerNo → Option IslandNo) → (ConsumerNo → Bool) → Part → Prop) (p : Part) : Prop :=
  I (entryIsland p) (entryExists p) p

/-- A history's change leaves the heavy queues and the grants. -/
theorem heavyBy_onHistory {m : ConsumerNo → Option IslandNo} {p : Part} (i : IslandNo) (f : Island → Island)
    (hf : ∀ r, (f r).reserve = r.reserve) (h : HeavyBy m p) : HeavyBy m (onIsland i f p) :=
  heavyBy_congr (p := p) h.1 (held_onIsland fun r => congrArg ReserveRecord.consumers (hf r)) h

theorem heavyBy_placing : Placing fun m _ => HeavyBy m where
  orderly m _ := heavyBy_orderly m
  relists _ _ _ _ hl h := ⟨hl, h.2⟩
  runs _ _ _ h := h
  enlists m m' _ p c hc _ hm h := by
    rw [← without_of_none hc] at h
    exact h.given hm
  derives _ _ p c _ h := by
    have hheld : held (fun r => r.reserve.consumers) (deriveEntry c p) = held (fun r => r.reserve.consumers) p := held_congr _ rfl
    exact heavyBy_congr h.1 hheld h
  strikes m m' _ p c hm h := by
    have hremoved := (heavyBy_orderly m).removeRecord c h
    unfold unconfigureConsumer
    generalize removeRecord c p = q at hremoved
    extract_lets left
    have hheld : held (fun r => r.reserve.consumers) left = held (fun r => r.reserve.consumers) q := held_congr _ rfl
    have hleft : HeavyBy m left := heavyBy_congr hremoved.1 hheld hremoved
    clear_value left
    exact (heavyBy_orderly m').withdrawOrders c ((forgetHeavy_absent hleft c).given hm)
  moves m m' _ p c src dst hne hm hsrc hdst h := by
    refine moveHeavy_heavyBy hne hm hsrc hdst ?_
    unfold moveRecord
    split
    · exact heavyBy_onHistory dst _ (fun _ => rfl) (heavyBy_onHistory src _ (fun _ => rfl) h)
    · exact h
  fresh m _ p hl _ hf := ⟨hl, fun i r hr => by
    obtain rfl := hf i r hr
    exact ⟨List.nodup_nil, nofun⟩⟩
  remade _ _ _ p q hcfg _ hf h := ⟨by rw [ListedOnce, hcfg]; exact h.1, fun i r hr => by
    obtain rfl := hf i r hr
    exact ⟨List.nodup_nil, nofun⟩⟩

theorem recordsBy_placing : Placing RecordsBy where
  orderly := recordsBy_orderly
  relists _ _ _ _ hl h := ⟨hl, h.2⟩
  runs _ _ _ h := h
  enlists m m' x p c _ hc hm h := h.given (h.noRecord hc) hm
  derives m x p c hc h := recordsBy_onEntry h (h.noRecord hc) _ rfl
  strikes m m' x p c hm h := by
    have hremoved := (recordsBy_orderly m x).removeRecord c h
    have hnone := removeRecord_noRecord c p
    unfold unconfigureConsumer
    generalize removeRecord c p = q at hremoved hnone
    extract_lets left
    have hreset : RecordsBy m (withOne c false x) (onEntry c (fun _ => EntryRecord.reset) q) :=
      recordsBy_onEntry hremoved hnone _ rfl
    have hleft : RecordsBy m (withOne c false x) left := (recordsBy_orderly m _).same (onEntry c (fun _ => EntryRecord.reset) q) left
      rfl le_rfl hreset
    have hI := recordsBy_orderly m' (withOne c false x)
    exact hI.withdrawOrders c (hI.forgetHeavy c (hleft.given (hleft.noRecord (if_pos rfl)) hm))
  moves m m' x p c src dst hne hm hsrc hdst h := recordsBy_moveHeavy c src dst (moveRecord_recordsBy hne hm hsrc hdst h)
  fresh m x p hl hx hf := ⟨hl, hx, fun i r hr => by
    obtain rfl := hf i r hr
    exact stampsHold_nil m _ _ i⟩
  remade _ m' _ p q hcfg hentry hf h := ⟨by rw [ListedOnce, hcfg]; exact h.1, by rw [hentry]; exact h.2.1, fun i r hr => by
    obtain rfl := hf i r hr
    exact stampsHold_nil m' _ _ i⟩

end Sys2Proof.Proofs
end

section
/-! The edits of the shed list keep each consumer's place among the heavy queues and grants, its entry's state and its history record
in order (R119, R126, R131 to R135, R157, R158). -/

namespace Sys2Proof.Proofs

open Sys2Proof.Machine Sys2Proof.Claims Sequenced

/-! ### What an entry is found as in an edited list -/

section

variable {l : List EntryConfig} {e : EntryConfig} {c d : ConsumerNo} {n : Nat}

/-- The configuration of a consumer in a list. -/
def listedAs (l : List EntryConfig) (c : ConsumerNo) : Option EntryConfig := l.find? fun e => e.consumer == c

theorem entryCfg_eq (p : Part) : entryCfg p = listedAs p.cfg.shedList := rfl

theorem listedAs_iff (hl : l.Pairwise Machine.Apart) : listedAs l c = some e ↔ e ∈ l ∧ e.consumer = c := by
  constructor
  · intro h
    exact ⟨List.mem_of_find?_eq_some h, by simpa using List.find?_some h⟩
  · rintro ⟨he, rfl⟩
    exact find?_consumer hl he

theorem insertEntry_apart (hl : l.Pairwise Machine.Apart) (he : ∀ a ∈ l, a.consumer ≠ e.consumer) :
    (insertEntry l n e).Pairwise Machine.Apart :=
  ((insertEntry_perm l n e).pairwise_iff fun h => h.symm).mpr (List.pairwise_cons.mpr ⟨fun a ha => (he a ha).symm, hl⟩)

theorem listedAs_insertEntry (hl : l.Pairwise Machine.Apart) (he : ∀ a ∈ l, a.consumer ≠ e.consumer) :
    listedAs (insertEntry l n e) d = if d = e.consumer then some e else listedAs l d := by
  have happart := insertEntry_apart (n := n) hl he
  refine Option.ext fun a => ?_
  rw [listedAs_iff happart, (insertEntry_perm l n e).mem_iff, List.mem_cons]
  split
  case isTrue hd =>
    rw [Option.some.injEq]
    constructor
    · rintro ⟨rfl | ha, hc⟩
      · rfl
      · exact absurd (hc.trans hd) (he a ha)
    · rintro rfl
      exact ⟨.inl rfl, hd.symm⟩
  case isFalse hd =>
    rw [listedAs_iff hl]
    constructor
    · rintro ⟨rfl | ha, hc⟩
      · exact absurd hc.symm hd
      · exact ⟨ha, hc⟩
    · rintro ⟨ha, hc⟩
      exact ⟨.inr ha, hc⟩

theorem listedAs_others (hl : l.Pairwise Machine.Apart) :
    listedAs (l.filter fun e => e.consumer != c) d = if d = c then none else listedAs l d := by
  refine Option.ext fun a => ?_
  rw [listedAs_iff (hl.filter _), List.mem_filter, bne_iff_ne]
  split
  case isTrue hd =>
    subst hd
    exact ⟨fun ⟨⟨_, hne⟩, ha⟩ => absurd ha hne, nofun⟩
  case isFalse hd =>
    rw [listedAs_iff hl]
    constructor
    · rintro ⟨⟨ha, -⟩, hc⟩
      exact ⟨ha, hc⟩
    · rintro ⟨ha, rfl⟩
      exact ⟨⟨ha, hd⟩, rfl⟩

/-- A list with the configuration of one consumer's entry replaced. -/
def replaced (c : ConsumerNo) (e : EntryConfig) (l : List EntryConfig) : List EntryConfig :=
  l.map fun a => if a.consumer = c then e else a

theorem replaced_consumer (he : e.consumer = c) (a : EntryConfig) : (if a.consumer = c then e else a).consumer = a.consumer := by
  split
  case isTrue ha => rw [he, ha]
  case isFalse => rfl

theorem replaced_apart (he : e.consumer = c) (hl : l.Pairwise Machine.Apart) : (replaced c e l).Pairwise Machine.Apart := by
  rw [replaced, List.pairwise_map]
  refine hl.imp fun hab => ?_
  rw [Machine.Apart, replaced_consumer he, replaced_consumer he]
  exact hab

theorem listedAs_replaced (he : e.consumer = c) (hl : l.Pairwise Machine.Apart) (hc : (listedAs l c).isSome = true) :
    listedAs (replaced c e l) d = if d = c then some e else listedAs l d := by
  refine Option.ext fun a => ?_
  rw [listedAs_iff (replaced_apart he hl), replaced, List.mem_map]
  obtain ⟨old, hold⟩ := Option.isSome_iff_exists.mp hc
  obtain ⟨hmem, holdc⟩ := (listedAs_iff hl).mp hold
  split
  case isTrue hd =>
    subst hd
    rw [Option.some.injEq]
    constructor
    · rintro ⟨⟨b, -, rfl⟩, hac⟩
      rw [replaced_consumer he] at hac
      rw [if_pos hac]
    · rintro rfl
      exact ⟨⟨old, hmem, if_pos holdc⟩, he⟩
  case isFalse hd =>
    rw [listedAs_iff hl]
    constructor
    · rintro ⟨⟨b, hb, rfl⟩, hac⟩
      rw [replaced_consumer he] at hac
      rw [if_neg (hac ▸ hd)]
      exact ⟨hb, hac⟩
    · rintro ⟨ha, hac⟩
      exact ⟨⟨a, ha, if_neg (hac ▸ hd)⟩, hac⟩

end

/-! ### With a part's own islands and entries -/

section

variable {I : (ConsumerNo → Option IslandNo) → (ConsumerNo → Bool) → Part → Prop} {m : ConsumerNo → Option IslandNo}
  {x : ConsumerNo → Bool} {p q : Part} {c d : ConsumerNo}

theorem Placing.own (h : Placing I) : Orderly (Own I) :=
  Orderly.own (I := fun a : (ConsumerNo → Option IslandNo) × (ConsumerNo → Bool) => I a.1 a.2)
    (fun a => h.orderly a.1 a.2) (fun p => (entryIsland p, entryExists p))
    fun p q hphase hmap hl => by rw [entryIsland_reads p q hmap hl, entryExists_reads p q hphase hl]

theorem own_of (hm : entryIsland p = m) (hx : entryExists p = x) (h : I m x p) : Own I p := by
  rw [Own, hm, hx]
  exact h

/-- What an operation of the units leaves of what tells the islands and the entries. -/
theorem settings_fields (h : (q.desk, q.settings) = (p.desk, p.settings)) :
    q.phase = p.phase ∧ q.islandMap = p.islandMap ∧ q.cfg = p.cfg := by
  simp only [Part.settings, Prod.mk.injEq] at h
  obtain ⟨-, hcfg, hphase, -, -, hmap⟩ := h
  exact ⟨hphase, hmap, hcfg⟩

theorem entryIsland_eq (hmap : q.islandMap = p.islandMap) (hl : listedAs q.cfg.shedList d = listedAs p.cfg.shedList d) :
    entryIsland q d = entryIsland p d := by
  rw [entryIsland, entryIsland, entryCfg_eq, entryCfg_eq, hl]
  exact congrArg _ (funext fun e => by rw [islandOf, islandOf, hmap])

theorem entryExists_eq (hphase : q.phase = p.phase) (hl : listedAs q.cfg.shedList d = listedAs p.cfg.shedList d) :
    entryExists q d = entryExists p d := by
  rw [entryExists, entryExists, consumerConfigured, consumerConfigured, entryCfg_eq, entryCfg_eq, hl, hphase]

/-- An entry that becomes configured is derived in RUN (R10, R126). -/
theorem Placing.configured (h : Placing I) (hx : x c = false) (hothers : ∀ d, d ≠ c → entryExists p d = x d)
    (hc : consumerConfigured p c = true) (hp : I m x p) : I m (entryExists p) (configureConsumer c p) := by
  have hreset : I m x (onConsumerImage c (fun _ => ConsumerImage.reset) p) := (h.orderly m x).same p _ rfl le_rfl hp
  unfold configureConsumer
  split
  case isTrue hrun =>
    have hexists : entryExists p = withOne c true x := by
      funext d
      rw [withOne]
      split
      case isTrue hd =>
        have hphase : (p.phase == .run) = true := hrun
        rw [hd, entryExists, hphase, hc]
        rfl
      case isFalse hd => exact hothers d hd
    rw [hexists]
    exact h.derives m x _ c hx hreset
  case isFalse hacquire =>
    have hexists : entryExists p = x := by
      funext d
      by_cases hd : d = c
      · have hphase : (p.phase == .run) = false := Bool.eq_false_iff.mpr hacquire
        rw [hd, hx, entryExists, hphase]
        rfl
      · exact hothers d hd
    rw [hexists]
    exact hreset

theorem Placing.rebuiltSection (h : Placing I) (s : SectionNo) (hp : Own I p) : Own I (rebuildSection s p) :=
  h.own.rebuildSection s hp

theorem Placing.collided (h : Placing I) (c : ConsumerNo) (hp : Own I p) : Own I (collided c p).part := h.own.occur _ _ hp

theorem Placing.addEntry (h : Placing I) (c : ConsumerNo) (position : Byte) (fields : List Word) (hp : Own I p) :
    Own I (addEntry c position fields p).part := by
  have hlisted : ListedOnce p := h.own.listed p hp
  unfold Machine.addEntry
  extract_lets w place listed configured
  split
  case isTrue => exact hp
  case isFalse hnew =>
    split
    · exact hp
    · split
      · exact h.collided c hp
      · have hnone : entryCfg p c = none := by simpa using hnew
        have hw : w.value.consumer = c := writtenEntry_consumer _ _
        have hfree : ∀ a ∈ p.cfg.shedList, a.consumer ≠ w.value.consumer := by
          rw [hw]
          exact entryCfg_none hnone
        have hfound (d : ConsumerNo) : listedAs listed.cfg.shedList d
            = if d = w.value.consumer then some w.value else listedAs p.cfg.shedList d := listedAs_insertEntry hlisted hfree
        have hothers (d : ConsumerNo) (hd : d ≠ c) : listedAs listed.cfg.shedList d = listedAs p.cfg.shedList d := by
          rw [hfound, if_neg (hw ▸ hd)]
        have hself : entryCfg listed c = some w.value := by rw [entryCfg_eq, hfound, if_pos hw.symm]
        have hm : entryIsland p c = none := by rw [entryIsland, hnone, Option.bind_none]
        have hx : entryExists p c = false := by rw [entryExists, consumerConfigured, hnone, Bool.and_false]
        have hin : I (entryIsland listed) (entryExists p) listed :=
          h.enlists _ _ _ listed c hm hx (fun d hd => entryIsland_eq rfl (hothers d hd))
            (h.relists _ _ p listed.cfg (insertEntry_apart hlisted hfree) hp)
        have hconfigured : Own I configured := by
          dsimp only [configured]
          split
          case isTrue hst =>
            have hc : consumerConfigured listed c = true := by
              simp only [consumerConfigured, hself]
              exact hst
            have hdone := h.configured (p := listed) hx (fun d hd => entryExists_eq rfl (hothers d hd)) hc hin
            obtain ⟨hphase, hmap, hcfg⟩ := settings_fields
              (plant_configureConsumer (plant_deskSettings (listed.desk, listed.settings)) c rfl)
            exact own_of (entryIsland_reads _ _ hmap (congrArg _ hcfg)) (entryExists_reads _ _ hphase (congrArg _ hcfg)) hdone
          case isFalse hst =>
            refine own_of (p := listed) (x := entryExists p) rfl (funext fun d => ?_) hin
            by_cases hd : d = c
            · subst hd
              rw [hx, entryExists, consumerConfigured, hself]
              exact (congrArg _ (Bool.eq_false_iff.mpr hst)).trans (Bool.and_false _)
            · exact entryExists_eq rfl (hothers d hd)
        exact h.rebuiltSection _ hconfigured

theorem Placing.moveEntry (h : Placing I) (c : ConsumerNo) (position : Byte) (hp : Own I p) :
    Own I (moveEntry c position p).part := by
  have hlisted : ListedOnce p := h.own.listed p hp
  unfold Machine.moveEntry
  split
  case h_1 => exact hp
  case h_2 e he =>
    split
    · exact h.collided c hp
    · extract_lets place rest
      obtain ⟨hc, -⟩ := entryCfg_some he
      have hrest : rest.Pairwise Machine.Apart := hlisted.filter _
      have hfree : ∀ a ∈ rest, a.consumer ≠ e.consumer := fun a ha => by
        rw [hc]
        simpa using (List.mem_filter.mp ha).2
      have hsame (d : ConsumerNo) : listedAs (insertEntry rest (place - 1) e) d = listedAs p.cfg.shedList d := by
        rw [listedAs_insertEntry hrest hfree, hc, listedAs_others hlisted]
        split
        case isTrue hd => rw [hd]; exact he.symm
        case isFalse => rfl
      refine h.rebuiltSection _ (own_of (funext fun d => ?_) (funext fun d => ?_) (h.relists _ _ p _ (insertEntry_apart hrest hfree) hp))
      · exact entryIsland_eq (q := withShedList (insertEntry rest (place - 1) e) p) rfl (hsame d)
      · exact entryExists_eq (q := withShedList (insertEntry rest (place - 1) e) p) rfl (hsame d)

theorem Placing.placeConsumer (h : Placing I) (n position : Byte) (move : Bool) (fields : List Word) (hp : Own I p) :
    Own I (placeConsumer n position move fields p).part := by
  unfold Machine.placeConsumer
  split
  · exact hp
  · split
    · exact h.moveEntry _ position hp
    · exact h.addEntry _ position fields hp

/-- An entry is taken off the list, every trace of its consumer being gone (R133). -/
theorem Placing.unlisted (h : Placing I) {gone : Part} (hphase : gone.phase = p.phase) (hmap : gone.islandMap = p.islandMap)
    (hcfg : gone.cfg = p.cfg) (hlisted : ListedOnce p)
    (hgone : ∀ m', (∀ d, d ≠ c → m' d = entryIsland p d) → I m' (withOne c false (entryExists p)) gone) :
    Own I (withShedList (gone.cfg.shedList.filter fun e => e.consumer != c) gone) := by
  obtain ⟨left, hleft⟩ : ∃ left, left = withShedList (gone.cfg.shedList.filter fun e => e.consumer != c) gone := ⟨_, rfl⟩
  have hlist : left.cfg.shedList = p.cfg.shedList.filter fun e => e.consumer != c := by
    rw [hleft, ← hcfg]
    rfl
  have hmapLeft : left.islandMap = p.islandMap := by rw [hleft]; exact hmap
  have hphaseLeft : left.phase = p.phase := by rw [hleft]; exact hphase
  have hfound (d : ConsumerNo) : listedAs left.cfg.shedList d = if d = c then none else listedAs p.cfg.shedList d := by
    rw [hlist]
    exact listedAs_others hlisted
  have hothers (d : ConsumerNo) (hd : d ≠ c) : listedAs left.cfg.shedList d = listedAs p.cfg.shedList d := by
    rw [hfound, if_neg hd]
  have hexists : entryExists left = withOne c false (entryExists p) := by
    funext d
    rw [withOne]
    split
    case isTrue hd =>
      subst hd
      have hnone : entryCfg left d = none := by rw [entryCfg_eq, hfound, if_pos rfl]
      rw [entryExists, consumerConfigured, hnone, Bool.and_false]
    case isFalse hd => exact entryExists_eq hphaseLeft (hothers d hd)
  have hkept : I (entryIsland left) (withOne c false (entryExists p)) { gone with cfg := left.cfg } :=
    h.relists _ _ gone left.cfg (by rw [hlist]; exact hlisted.filter _)
      (hgone _ fun d hd => entryIsland_eq hmapLeft (hothers d hd))
  have hsame : { gone with cfg := left.cfg } = left := by rw [hleft]; rfl
  rw [hsame] at hkept
  rw [← hleft]
  exact own_of rfl hexists hkept

theorem Placing.removeConsumer (h : Placing I) (n : Byte) (hp : Own I p) : Own I (removeConsumer n p).part := by
  have hlisted : ListedOnce p := h.own.listed p hp
  unfold Machine.removeConsumer
  split
  case h_1 => exact hp
  case h_2 c _ =>
    split
    case h_1 => exact hp
    case h_2 e he =>
      split
      · exact h.collided c hp
      · have hsettings := settings_fields (plant_unconfigureConsumer (plant_deskSettings (p.desk, p.settings)) c rfl)
        have hgone (m' : ConsumerNo → Option IslandNo) (hm : ∀ d, d ≠ c → m' d = entryIsland p d) :
            I m' (withOne c false (entryExists p)) (unconfigureConsumer c p) := h.strikes _ _ _ p c hm hp
        generalize unconfigureConsumer c p = gone at hsettings hgone ⊢
        obtain ⟨hphase, hmap, hcfg⟩ := hsettings
        exact h.rebuiltSection _ (h.unlisted hphase hmap hcfg hlisted hgone)

/-! ### WRITE CONSUMER (R134) -/

/-- What the new station makes of the entry (R10, R126). -/
theorem Placing.entryStationWritten (h : Placing I) {old new : EntryConfig} (ho : old.fits) (hn : new.fits)
    (hnew : entryCfg p c = some new) (hxc : x c = (p.phase == .run && stationAssigned old.station))
    (hothers : ∀ d, d ≠ c → entryExists p d = x d) (hp : I m x p) :
    I m (entryExists p) (entryStationWritten c old.station new.station p) := by
  have hself : consumerConfigured p c = stationAssigned new.station := by simp only [consumerConfigured, hnew]
  have hexists {b : Bool} (hb : (p.phase == .run && stationAssigned new.station) = b) : entryExists p = withOne c b x := by
    funext d
    rw [withOne]
    split
    case isTrue hd =>
      rw [hd, entryExists, hself]
      exact hb
    case isFalse hd => exact hothers d hd
  have hkept : stationAssigned old.station = stationAssigned new.station → entryExists p = x := fun hst => by
    rw [hexists (hst ▸ hxc.symm)]
    funext d
    rw [withOne]
    split
    case isTrue hd => rw [hd]
    case isFalse => rfl
  unfold Machine.entryStationWritten
  split
  case isTrue hsame => rw [hkept (by rw [beq_iff_eq.mp hsame])]; exact hp
  case isFalse hchanged =>
    split
    case isTrue hold =>
      have hunassigned : stationAssigned old.station = false := by simpa using hold
      have hassigned : stationAssigned new.station = true := by
        obtain ⟨-, -, holdMax⟩ := ho
        obtain ⟨-, -, hnewMax⟩ := hn
        simp only [stationAssigned, Bool.and_eq_true, Bool.and_eq_false_iff, decide_eq_true_eq, decide_eq_false_iff_not] at hunassigned ⊢
        have hne : old.station ≠ new.station := by simpa using hchanged
        omega
      exact h.configured (by rw [hxc, hunassigned, Bool.and_false]) hothers (hself.trans hassigned) hp
    case isFalse hold =>
      split
      case isTrue hnone =>
        have hgone : stationAssigned new.station = false := by simpa using hnone
        rw [hexists (b := false) (by rw [hgone, Bool.and_false])]
        exact h.strikes m m x p c (fun _ _ => rfl) hp
      case isFalse hsome =>
        rw [hkept (by simp only [Bool.not_eq_true, Bool.not_eq_false'] at hold hsome; rw [hold, hsome])]
        exact (h.orderly m x).remap _ hp

/-- The record, the request and the grant move with their section (R119, R157, R158). -/
theorem Placing.entrySectionWritten (h : Placing I) {m' : ConsumerNo → Option IslandNo} (old new : SectionNo)
    (hm : m c = islandOf p old) (hm' : m' c = islandOf p new) (hothers : ∀ d, d ≠ c → m' d = m d) (hp : I m x p) :
    I m' x (entrySectionWritten c old new p) := by
  have hstays : islandOf p old = islandOf p new → I m' x p := fun he => by
    have : m' = m := by
      funext d
      by_cases hd : d = c
      · rw [hd, hm, hm', he]
      · exact hothers d hd
    rw [this]
    exact hp
  unfold Machine.entrySectionWritten
  split
  case h_1 src dst hsrc hdst =>
    split
    case isTrue hsame => exact hstays (by rw [hsrc, hdst, hsame])
    case isFalse hne =>
      exact (h.orderly m' x).rebuild src (h.moves m m' x p c src dst hne hothers (hm.trans hsrc) (hm'.trans hdst) hp)
  case h_2 hnone =>
    cases hmap : p.islandMap with
    | none => exact hstays (by simp only [islandOf, hmap, Option.map_none])
    | some v => exact absurd (congrArg (Option.map fun w => w[new]) hmap) (hnone _ _ (congrArg (Option.map fun w => w[old]) hmap))

theorem Placing.writeConsumer (h : Placing I) (n : Byte) (mask : Masked) (hfits : p.cfg.fits) (hp : Own I p) :
    Own I (writeConsumer n mask p).part := by
  have hlisted : ListedOnce p := h.own.listed p hp
  unfold Machine.writeConsumer
  split
  case h_1 => exact hp
  case h_2 old hold =>
    extract_lets w
    split
    · exact h.collided _ hp
    · split
      · exact hp
      · obtain ⟨c, -, hc⟩ := Option.bind_eq_some_iff.mp hold
        obtain ⟨rfl, hmem⟩ := entryCfg_some hc
        have hw : w.value.consumer = old.consumer := writtenEntry_consumer mask old
        have hofits : old.fits := hfits.2.1 old hmem
        have hwfits : w.value.fits := writtenEntry_fits mask old hofits
        obtain ⟨written, hwritten⟩ : ∃ written, written = onEntryCfg old.consumer (fun _ => w.value) p := ⟨_, rfl⟩
        have hfound (d : ConsumerNo) : listedAs written.cfg.shedList d
            = if d = old.consumer then some w.value else listedAs p.cfg.shedList d := by
          rw [hwritten]
          exact listedAs_replaced hw hlisted (by rw [← entryCfg_eq, hc]; rfl)
        have hothers (d : ConsumerNo) (hd : d ≠ old.consumer) : listedAs written.cfg.shedList d = listedAs p.cfg.shedList d := by
          rw [hfound, if_neg hd]
        have hself : entryCfg written old.consumer = some w.value := by rw [entryCfg_eq, hfound, if_pos rfl]
        have hphase : written.phase = p.phase := by rw [hwritten]; rfl
        have hmap : written.islandMap = p.islandMap := by rw [hwritten]; rfl
        have hin : I (entryIsland p) (entryExists p) written := by
          rw [hwritten]
          exact h.relists _ _ p _ (replaced_apart hw hlisted) hp
        rw [← hwritten]
        have hend := settings_fields (plant_entryWritten (plant_deskSettings (written.desk, written.settings)) old w.value
          (mask.flag 9 false) rfl)
        obtain ⟨hphaseEnd, hmapEnd, hcfgEnd⟩ := hend
        refine own_of (entryIsland_reads _ _ hmapEnd (congrArg _ hcfgEnd)) (entryExists_reads _ _ hphaseEnd (congrArg _ hcfgEnd)) ?_
        clear hphaseEnd hmapEnd hcfgEnd
        unfold entryWritten
        extract_lets c stationed moved kinded cleared
        have hcc : c = old.consumer := hw
        have hstation : I (entryIsland p) (entryExists written) stationed := by
          refine h.entryStationWritten hofits hwfits (hcc ▸ hself) ?_ (fun d hd => entryExists_eq hphase (hothers d (hcc ▸ hd))) hin
          rw [hcc, entryExists, consumerConfigured, hc, hphase]
        obtain ⟨-, hmapStation, -⟩ := settings_fields
          (plant_entryStationWritten (plant_deskSettings (written.desk, written.settings)) c old.station w.value.station rfl)
        have hislands (s : SectionNo) : islandOf stationed s = islandOf p s := by
          rw [islandOf, islandOf, show stationed.islandMap = written.islandMap from hmapStation, hmap]
        have hmoved : I (entryIsland written) (entryExists written) moved := by
          refine h.entrySectionWritten old.sect w.value.sect ?_ ?_ (fun d hd => entryIsland_eq hmap (hothers d (hcc ▸ hd))) hstation
          · rw [hislands, hcc, entryIsland, hc, Option.bind_some]
          · rw [hislands, hcc, entryIsland, hself, Option.bind_some, islandOf, islandOf, hmap]
        have hI := h.orderly (entryIsland written) (entryExists written)
        clear_value moved
        have hkinded : I (entryIsland written) (entryExists written) kinded := by
          dsimp only [kinded]
          split
          · exact hmoved
          · exact hI.same moved _ rfl le_rfl hmoved
        clear_value kinded
        refine hI.rebuildSection _ ?_
        dsimp only [cleared]
        split
        · exact hI.enters _ c _ rfl id hkinded
        · exact hkinded

end

end Sys2Proof.Proofs
end

section
/-! What the timers, the order frames, and the requests that leave the shed list alone do to a condition of the heavy queues, the
grants, the entries and the histories. -/

namespace Sys2Proof.Proofs

open Sys2Proof.Machine Sys2Proof.Claims Sequenced

/-! ### Operations of the Set Sequencer -/

section

variable {k : SetNo} {p : Part}

theorem noteOutcome_steps (k : SetNo) (a : SetOrder) (out : OrderOutcome) (p : Part) : Steps k p (noteOutcome k a out p) :=
  (Steps.refl k p).onSeq _

theorem startSetTimer_steps {q : Part} (h : Steps k p q) (t : SetTimer) (ms : Nat) : Steps k p (startSetTimer k t ms q) := h.onSeq _

theorem setOrderSent_steps (k : SetNo) (a : SetOrder) (serial : Nat) (p : Part) : Steps k p (Machine.setOrderSent k a serial p).part := by
  have hnoted := noteOutcome_steps k a .sent p
  unfold Machine.setOrderSent
  extract_lets noted ofStay
  split
  · exact startSetTimer_steps hnoted _ _
  · split
    · exact startSetTimer_steps hnoted _ _
    · exact hnoted
  · exact startSetTimer_steps hnoted _ _
  · split
    · exact protection_steps (stoppedIfDown_steps (startSetTimer_steps hnoted _ _))
    · exact hnoted
  · exact hnoted

theorem startExpired_steps (k : SetNo) (p : Part) : Steps k p (startExpired k p).part := by
  unfold startExpired
  split
  · exact blockedWith_steps .startFail k p
  · exact startSetTimer_steps (((Steps.refl k p).onSeq _).occur _ _) _ _

theorem openExpired_steps (k : SetNo) (p : Part) : Steps k p (openExpired k p).part :=
  openFailed_steps (o := sequenced p) (.refl k p)

theorem stopRequest_steps (k : SetNo) (p : Part) : Steps k p (stopRequest k p).1.part := by
  unfold stopRequest
  split
  · exact enter_steps _ ((Steps.refl k p).onSeq _)
  · exact .refl k p

theorem commandStop_steps (k : SetNo) (p : Part) : Steps k p (commandStop k p).1.part := by
  unfold commandStop
  split
  iterate 2
    extract_lets f
    split
    · exact .refl k p
    · exact enter_steps _ ((Steps.refl k p).onSeq _)
  iterate 2 exact enterStopping_steps (o := sequenced p) (.refl k p)
  · exact (Steps.refl k p).onSeq _
  all_goals exact .refl k p

theorem commandBlock_steps (k : SetNo) (p : Part) : Steps k p (commandBlock k p).1.part := by
  have hstopped := stopSetTimer_steps k p
  unfold commandBlock
  split
  iterate 3 exact enter_steps (o := sequenced (stopSetTimer k p)) _ hstopped
  iterate 2 exact enter_steps (o := sequenced (handSet k .stop (stopSetTimer k p)).1) _ (hstopped.handSet _)
  all_goals exact .refl k p

theorem commandReset_steps (k : SetNo) (p : Part) : Steps k p (commandReset k p).1.part := by
  unfold commandReset
  extract_lets cleared
  have hcleared : Steps k p cleared := (Steps.refl k p).onSeq _
  split
  · split
    · exact .refl k p
    · exact hcleared.trans (deriveSet_steps k cleared)
  · exact hcleared.trans (deriveSet_steps k cleared)
  · exact hcleared
  · exact .refl k p

theorem setAction_steps (a : SetAction) (k : SetNo) (p : Part) : Steps k p (setAction a k p).1.part := by
  cases a with
  | start => exact startRequest_steps k p
  | stop => exact commandStop_steps k p
  | block => exact commandBlock_steps k p
  | reset => exact commandReset_steps k p

end

namespace Orderly

variable {I : Part → Prop} {p : Part}

/-! ### Records and order frames (R5, R6, R31 to R37) -/

theorem onFresh (h : Orderly I) (o : ObjectRef) (f : Fresh → Fresh) (hp : I p) : I (Machine.onFresh o f p) := by
  cases o <;> exact h.same p _ rfl le_rfl hp

theorem onGov (h : Orderly I) (k : SetNo) (f : GovRecord → GovRecord) (hp : I p) : I (Machine.onGov k f p) :=
  h.same p _ rfl le_rfl hp

theorem cutPlan (h : Orderly I) (k : SetNo) (hp : I p) : I (Machine.cutPlan k p) := h.onGov k _ hp

theorem goStale (h : Orderly I) (o : ObjectRef) (hp : I p) : I (Machine.goStale o p) := by
  have hgone := h.occur .objectStale (objectNamed o) (h.onFresh o (fun _ => Fresh.gone) hp)
  cases o with
  | set k => exact h.cutPlan k hgone
  | consumer _ | meter _ | tie _ => exact hgone

theorem staleRemaining (h : Orderly I) (hp : I p) : I (Machine.staleRemaining p) :=
  fold_keeps _ _ (fun q o hq => by
    split
    · exact h.goStale o hq
    · exact hq) hp

theorem staleExpired (h : Orderly I) (o : ObjectRef) (hp : I p) : I (Machine.staleExpired o p) := by
  unfold Machine.staleExpired
  split
  · exact hp
  · extract_lets t
    split
    · exact h.goStale o (h.reach _ hp)
    · exact h.onFresh o _ (h.reach _ hp)

theorem startFeedback (h : Orderly I) (c : ConsumerNo) (o : Order) (ms : Nat) (hp : I p) : I (Machine.startFeedback c o ms p) := by
  unfold Machine.startFeedback
  extract_lets started
  have hstarted : I started := h.same p _ rfl le_rfl hp
  split
  · exact h.orderOutcome c _ nofun hstarted
  · exact hstarted

theorem consumerOrderSent (h : Orderly I) (c : ConsumerNo) (a : ConsumerOrder) (o : Order) (hp : I p) :
    I (Machine.consumerOrderSent c a o p) := by
  unfold Machine.consumerOrderSent
  split
  · exact h.startFeedback c o _ hp
  · split
    · exact h.grantSent c _ hp
    · exact hp

theorem withdrawnOrderSent (h : Orderly I) (o : Order) (hp : I p) : I (Machine.withdrawnOrderSent o p) := by
  unfold Machine.withdrawnOrderSent
  split
  · exact h.orderOutcome _ _ nofun hp
  · exact hp

theorem orderSent (h : Orderly I) (hp : I p) : I (Machine.orderSent p) := by
  unfold Machine.orderSent
  split
  · exact hp
  · extract_lets idle
    have hidle : I idle := h.same p _ rfl le_rfl hp
    split
    · exact h.withdrawnOrderSent _ hidle
    · split
      · exact h.consumerOrderSent _ _ _ hidle
      · exact h.handOn _ (h.steps (setOrderSent_steps _ _ _ idle) hidle)

theorem feedbackExpired (h : Orderly I) (c : ConsumerNo) (hp : I p) : I (Machine.feedbackExpired c p) := by
  unfold Machine.feedbackExpired
  split
  · exact h.orderOutcome c _ nofun (h.dropFeedback c (h.reach _ hp))
  · exact hp

/-! ### Timers -/

theorem setTimerExpired (h : Orderly I) (t : SetTimer) (f : SetNo → Part → Sequenced) (k : SetNo)
    (hf : ∀ q, Steps k q (f k q).part) (hp : I p) : I (Machine.setTimerExpired t f k p) := by
  unfold Machine.setTimerExpired
  split
  · exact h.handOn _ (h.steps (hf _) (h.reach _ hp))
  · exact hp

theorem sharePeriodDue (h : Orderly I) (i : IslandNo) (hp : I p) : I (Machine.sharePeriodDue i p) := by
  unfold Machine.sharePeriodDue
  split
  · exact h.beginSharePeriod i (h.reach _ hp)
  · exact hp

theorem beginSubPulse (h : Orderly I) (k : SetNo) (hp : I p) : I (Machine.beginSubPulse k p) := by
  unfold Machine.beginSubPulse
  extract_lets g
  split
  · split
    · exact h.onGov k _ (h.reach _ hp)
    · exact hp
  · exact hp

theorem endSubPulse (h : Orderly I) (k : SetNo) (hp : I p) : I (Machine.endSubPulse k p) := by
  unfold Machine.endSubPulse
  split
  · exact h.onGov k _ (h.reach _ hp)
  · exact hp

theorem reserveState (h : Orderly I) (i : IslandNo) (st : ReserveState) (hp : I p) : I (Machine.reserveState i st p) :=
  steady_reserveState h.steady i st hp

theorem stopDelayExpired (h : Orderly I) (i : IslandNo) (spare : Int) (hp : I p) : I (Machine.stopDelayExpired i spare p).part := by
  have hquiet := h.reserveState i .quiet hp
  unfold Machine.stopDelayExpired
  extract_lets quiet
  split
  case h_1 k _ =>
    split
    · extract_lets s
      have hstopped : I s.1.part := h.steps (stopRequest_steps k quiet) hquiet
      split
      · exact h.onIsland i (fun _ => rfl) hstopped
      · exact hstopped
    · exact hquiet
  case h_2 => exact hquiet

theorem startConfirmExpired (h : Orderly I) (i : IslandNo) (spare : Int) (hp : I p) :
    I (Machine.startConfirmExpired i spare p).part := tests_startConfirmExpired h.tests i spare hp

theorem reserveTimerExpired (h : Orderly I) (st : ReserveState) (f : IslandNo → Int → Part → Sequenced) (i : IslandNo)
    (hf : ∀ q spare, I q → I (f i spare q).part) (hp : I p) : I (Machine.reserveTimerExpired st f i p) := by
  unfold Machine.reserveTimerExpired
  split
  · exact h.handOn _ (hf _ _ (h.takeFigures i (h.reach _ hp)))
  · exact hp

theorem headDeadlinePassed (h : Orderly I) (i : IslandNo) (hp : I p) : I (Machine.headDeadlinePassed i p) := by
  unfold Machine.headDeadlinePassed
  split
  · exact h.headExpired i (h.reach _ hp)
  · exact hp

theorem holdDeadlinePassed (h : Orderly I) (c : ConsumerNo) (hp : I p) : I (Machine.holdDeadlinePassed c p) := by
  unfold Machine.holdDeadlinePassed
  split
  · exact h.releaseGrant c (h.reach _ hp)
  · exact hp

theorem checkPassed (h : Orderly I) (i : IslandNo) (hp : I p) : I (Machine.checkPassed i p) := by
  unfold Machine.checkPassed
  split
  · exact h.checkExpired i (h.reach _ hp)
  · exact hp

theorem pacerPassed (h : Orderly I) (st : ShedState) (i : IslandNo) (hp : I p) : I (Machine.pacerPassed st i p) := by
  unfold Machine.pacerPassed
  split
  · exact h.pacerExpired i (h.reach _ hp)
  · exact hp

theorem restorePassed (h : Orderly I) (i : IslandNo) (hp : I p) : I (Machine.restorePassed i p) := by
  unfold Machine.restorePassed
  split
  · exact h.tryRestore i _ (h.takeFigures i (h.onRestore i _ (h.reach _ hp)))
  · exact hp

/-! ### Requests that leave the shed list alone -/

theorem testAll (h : Orderly I) (hp : I p) : I (Machine.testAll p) := fold_keeps _ _ (fun _ i hq => h.testIsland i hq) hp

theorem onSetCfg (h : Orderly I) (k : SetNo) (f : SetConfig → SetConfig) (hp : I p) : I (Machine.onSetCfg k f p) :=
  h.same p _ rfl le_rfl hp

theorem configureSet (h : Orderly I) (k : SetNo) (hp : I p) : I (Machine.configureSet k p).part := by
  unfold Machine.configureSet
  extract_lets fresh
  split
  all_goals exact h.same p _ rfl le_rfl hp

theorem unconfigureSet (h : Orderly I) (k : SetNo) (hp : I p) : I (Machine.unconfigureSet k p).part := by
  have hdropped := h.markWithdrawn (.set k) (h.dropQueued (.set k) hp)
  unfold Machine.unconfigureSet
  extract_lets dropped reset
  have hleft : I dropped := hdropped
  clear_value dropped
  exact h.same dropped reset rfl le_rfl hleft

theorem setStationWritten (h : Orderly I) (k : SetNo) (old : Nat) (hp : I p) : I (Machine.setStationWritten k old p).part := by
  unfold Machine.setStationWritten
  extract_lets now
  split
  · exact hp
  · split
    · exact h.configureSet k hp
    · split
      · exact h.unconfigureSet k hp
      · exact (h.remap (.set k) hp : I (Machine.remap (.set k) p))

theorem changeMode (h : Orderly I) (k : SetNo) (m : Mode) (hp : I p) : I (Machine.changeMode k m p).part := by
  have hwritten := h.onSetCfg k (fun c => { c with mode := m }) hp
  simp only [Machine.changeMode]
  split
  · exact hp
  · split
    · exact hwritten
    · split
      · exact h.steps (toLocal_steps k _) hwritten
      · exact h.steps (deriveSet_steps k _) hwritten
      · exact hwritten

theorem writeSet (h : Orderly I) (n : Byte) (m : Masked) (hp : I p) : I (Machine.writeSet n m p).part := by
  unfold Machine.writeSet
  split
  · exact hp
  · extract_lets old w written stationed moved
    split
    · exact hp
    · have hstationed : I stationed := h.handOn _ (h.setStationWritten _ _ (h.onSetCfg _ _ hp))
      clear_value stationed
      have hmoved : I moved := by
        dsimp only [moved]
        split
        · exact hstationed
        · exact h.rebuildSection _ (h.rebuildSection _ hstationed)
      exact keeps_doneOr _ (h.handOn _ (h.changeMode _ _ hmoved))

theorem serveSetMode (h : Orderly I) (n : Byte) (m : Mode) (hp : I p) : I (Machine.serveSetMode n m p).part := by
  unfold Machine.serveSetMode
  split
  · exact keeps_answered _ (h.handOn _ (h.changeMode _ m hp))
  · exact hp

theorem serveCommandSet (h : Orderly I) (n : Byte) (a : SetAction) (hp : I p) : I (Machine.serveCommandSet n a p).part := by
  unfold Machine.serveCommandSet
  split
  · exact hp
  · split
    · exact hp
    · exact keeps_answered _ (h.handOn _ (h.steps (setAction_steps a _ p) hp))

theorem serveShed (h : Orderly I) (n : Byte) (hp : I p) : I (Machine.serveShed n p).part := by
  unfold Machine.serveShed
  split
  · exact hp
  · split
    · exact hp
    · split
      · exact hp
      · exact h.manualShed _ hp

theorem serveRelease (h : Orderly I) (n : Byte) (hp : I p) : I (Machine.serveRelease n p).part := by
  unfold Machine.serveRelease
  split
  · exact hp
  · exact h.manualRelease _ hp

theorem serveRestoreStep (h : Orderly I) (code : Byte) (hp : I p) : I (Machine.serveRestoreStep code p).part := by
  unfold Machine.serveRestoreStep
  split
  · exact hp
  · exact h.commandRestoreStep _ hp

theorem serveReadIsland (h : Orderly I) (code first : Byte) (hp : I p) : I (Machine.serveReadIsland code first p).part := by
  unfold Machine.serveReadIsland
  split
  · exact h.takeFigures _ hp
  · exact hp

theorem writeStandbyOrder (h : Orderly I) (sets : List Byte) (hp : I p) : I (Machine.writeStandbyOrder sets p).part := by
  unfold Machine.writeStandbyOrder
  split
  · exact hp
  · split
    · exact hp
    · split
      · exact hp
      · exact h.testAll (h.same p _ rfl le_rfl hp)

theorem meterWritten (h : Orderly I) (old : PlantConfig) (s : SectionNo) (hp : I p) : I (Machine.meterWritten old p s) := by
  unfold Machine.meterWritten
  extract_lets was
  split
  · split
    · exact hp
    · exact h.remap _ hp
  · exact hp
  · exact h.same p _ rfl le_rfl hp

theorem releaseHeld (h : Orderly I) (hp : I p) : I (Machine.releaseHeld p) :=
  fold_keeps _ _ (fun _ i hq => h.onRestore i _ hq) hp

/-- What WRITE PLANT does once the ties are written (R152, R173). -/
theorem writePlant (h : Orderly I) (m : Masked)
    (hp : I (allTies.foldl (tieWritten p.cfg.plant) { p with cfg := { p.cfg with plant := (writtenPlant m p.cfg.plant).value } })) :
    I (Machine.writePlant m p).part := by
  unfold Machine.writePlant
  extract_lets old w src written tied metered tabled held
  have hmetered : I metered := fold_keeps _ _ (fun _ s hq => h.meterWritten old s hq) hp
  clear_value metered
  have htabled : I tabled := by
    dsimp only [tabled]
    split
    · exact hmetered
    · exact fold_keeps _ _ (fun _ i hq => h.rebuild i hq) hmetered
  clear_value tabled
  refine keeps_doneOr _ (h.testAll ?_)
  dsimp only [held]
  split
  · exact h.releaseHeld htabled
  · exact htabled

end Orderly

end Sys2Proof.Proofs
end

section
/-! The end of ACQUIRE gives the entries their states and the islands their records (R21, R126, R189). -/

namespace Sys2Proof.Proofs

open Sys2Proof.Machine Sys2Proof.Claims Sequenced

section

variable {I : (ConsumerNo → Option IslandNo) → (ConsumerNo → Bool) → Part → Prop} {m : ConsumerNo → Option IslandNo}
  {x : ConsumerNo → Bool} {p q : Part}

theorem Orderly.openIsland {J : Part → Prop} (h : Orderly J) (i : IslandNo) (hp : J p) : J (Machine.openIsland i p) := by
  unfold Machine.openIsland
  split
  · exact h.beginPeriods i hp
  · exact h.deadIsland i (h.occur _ _ hp)

/-- The entries of several consumers are derived. -/
theorem Placing.foldl_derive (h : Placing I) (l : List ConsumerNo) (hl : l.Nodup) (hx : ∀ c ∈ l, x c = false) (hp : I m x p) :
    I m (fun d => x d || l.contains d) (l.foldl (fun q c => deriveEntry c q) p) := by
  induction l generalizing p x with
  | nil => simpa using hp
  | cons c l ih =>
    obtain ⟨hc, hl⟩ := List.nodup_cons.mp hl
    have hderived := h.derives m x p c (hx c (.head _)) hp
    have hrest : ∀ d ∈ l, withOne c true x d = false := fun d hd => by
      rw [withOne, if_neg fun he : d = c => hc (he ▸ hd)]
      exact hx d (.tail _ hd)
    have hmore : (fun d => x d || (c :: l).contains d) = fun d => withOne c true x d || l.contains d := by
      funext d
      rw [withOne, List.contains_cons]
      by_cases hd : d = c
      · simp [hd]
      · rw [if_neg hd, beq_eq_false_iff_ne.mpr hd, Bool.false_or]
    rw [hmore]
    exact ih hl hrest hderived

theorem fresh_buildIslands {i : IslandNo} {r : Island} (hr : (buildIslands p).islands[i] = some r) : r = Island.fresh := by
  simp only [buildIslands, Fin.getElem_fin, Vector.getElem_ofFn] at hr
  split at hr
  · exact (Option.some.inj hr).symm
  · exact nomatch hr

theorem Placing.buildIslands (h : Placing I) (hp : I m x p) : I (entryIsland (buildIslands p)) x (buildIslands p) :=
  h.remade m _ x p (Machine.buildIslands p) rfl rfl (fun _ _ hr => fresh_buildIslands hr) hp

/-- In ACQUIRE no entry is to have a state. -/
theorem entryExists_acquire (hphase : p.phase = .acquire) : entryExists p = fun _ => false := by
  funext c
  rw [entryExists, hphase]
  rfl

theorem Placing.deriveStates (h : Placing I) (hp : I m (fun _ => false) p) : I m (consumerConfigured p) (deriveStates p) := by
  have hsets : I m (fun _ => false) ((allSets.filter (setConfigured p)).foldl (fun q k => (deriveSet k q).part) p) :=
    fold_keeps _ _ (fun q k hq => (h.orderly m _).steps (deriveSet_steps k q) hq) hp
  have hderived := h.foldl_derive (allConsumers.filter (consumerConfigured p)) ((List.nodup_finRange 48).filter _) (fun _ _ => rfl) hsets
  have hexists : (fun d => false || (allConsumers.filter (consumerConfigured p)).contains d) = consumerConfigured p := by
    funext d
    simp [List.contains_eq_mem, mem_allConsumers]
  rw [hexists] at hderived
  exact hderived

theorem Placing.endAcquire (h : Placing I) (hphase : p.phase = .acquire) (hp : Own I p) : Own I (Machine.endAcquire p) := by
  have hstale : Own I (staleRemaining p) ∧ (staleRemaining p).phase = p.phase :=
    (h.own.and Part.phase (fun _ _ hph _ _ => hph) p.phase).staleRemaining ⟨hp, rfl⟩
  obtain ⟨hown, hstill⟩ := hstale
  rw [Own, entryExists_acquire (hstill.trans hphase)] at hown
  obtain ⟨built, opened, hbuilt, hend, haside, -⟩ := endAcquire_shaped p
  have hbuiltOwn : I (entryIsland built) (fun _ => false) built := by
    rw [hbuilt]
    exact h.buildIslands hown
  have hI := h.orderly (entryIsland built) (consumerConfigured built)
  have hderived := h.deriveStates hbuiltOwn
  have hopened : I (entryIsland built) (consumerConfigured built) (Machine.endAcquire p) := by
    unfold Machine.endAcquire
    rw [← hbuilt]
    exact h.runs _ _ _ (fold_keeps _ _ (fun _ i hq => hI.openIsland i hq) (fold_keeps _ _ (fun _ i hq => hI.rebuild i hq) hderived))
  simp only [Part.aside, Part.settings, Prod.mk.injEq] at haside
  obtain ⟨-, ⟨hcfg, -, -, -, hmap⟩, -⟩ := haside
  have hsettings : (Machine.endAcquire p).islandMap = built.islandMap ∧ (Machine.endAcquire p).cfg = built.cfg
      ∧ (Machine.endAcquire p).phase = .run := by
    rw [hend]
    exact ⟨hmap, hcfg, rfl⟩
  obtain ⟨hmapEnd, hcfgEnd, hrun⟩ := hsettings
  refine own_of (entryIsland_reads _ _ hmapEnd (congrArg _ hcfgEnd)) (funext fun c => ?_) hopened
  rw [entryExists, hrun, consumerConfigured, consumerConfigured, entryCfg_eq, entryCfg_eq, hcfgEnd]
  rfl

end

end Sys2Proof.Proofs
end

section
/-! Records and requests keep each consumer's place, its entry's state and its history record in order (R36, R114, R127, R144, R145,
R156, R173). -/

namespace Sys2Proof.Proofs

open Sys2Proof.Machine Sys2Proof.Claims Sequenced

/-- Kept besides by a tie's change, a confirmed shed order and a heavy request. -/
structure Settling (I : (ConsumerNo → Option IslandNo) → (ConsumerNo → Bool) → Part → Prop) : Prop extends Placing I where
  ties : ∀ p t joins, MapHolds p → Own I p → Own I (tieChanged t joins p)
  shed : ∀ (p : Part) (c : ConsumerNo), p.entry[c].state = some .shedPending → Own I p → Own I (entryShed c p)
  asks : ∀ p c kw, Own I p → Own I (heavyRequest c kw p)

theorem heavyBy_settling : Settling fun m _ => HeavyBy m where
  toPlacing := heavyBy_placing
  ties _ _ joins hmap hp := tieChanged_heavyHolds hmap joins hp
  shed _ c _ hp := entryShed_heavyHolds c hp
  asks _ c kw hp := heavyRequest_heavyHolds c kw hp

/-- A heavy request leaves the entries and the histories (R114). -/
theorem heavyRequest_recordsHold {p : Part} (c : ConsumerNo) (kw : Nat) (hp : RecordsHold p) : RecordsHold (heavyRequest c kw p) := by
  have hI := recordsHold_orderly
  unfold heavyRequest
  extract_lets asks
  split
  case h_2 => exact hI.deny c hp
  case h_1 i _ _ =>
    split
    case isFalse => exact hI.deny c hp
    case isTrue =>
      have hreleased := hI.releaseGrant c hp
      have hqueued (f : List HeavyRequest → List HeavyRequest) (q : Part) (hq : RecordsHold q) : RecordsHold (onQueue i f q) :=
        recordsBy_reserve (p := q) i _ hq
      unfold queueHeavy
      extract_lets queue
      split
      · exact hI.testIsland i (hqueued _ _ hreleased)
      · split
        · exact hI.deny c hreleased
        · exact hI.testIsland i (hqueued _ _ hreleased)

theorem recordsBy_settling : Settling RecordsBy where
  toPlacing := recordsBy_placing
  ties _ _ joins hmap hp := tieChanged_recordsHold hmap joins hp
  shed _ _ hs hp := entryShed_recordsHold hs hp
  asks _ c kw hp := heavyRequest_recordsHold c kw hp

section

variable {I : (ConsumerNo → Option IslandNo) → (ConsumerNo → Bool) → Part → Prop} {p : Part}

namespace Settling

/-! ### Records -/

theorem orderConfirmed (h : Settling I) (c : ConsumerNo) (a : ConsumerOrder) (hp : Own I p) :
    Own I (orderOutcome c a .confirmed p) := by
  have hJ := h.own
  unfold orderOutcome
  split
  · unfold shedOutcome
    split
    case isTrue hpending => exact hJ.rebuildFor c (hJ.endShedFor c (h.shed p c (entryIs_iff.1 hpending) hp))
    case isFalse => exact hJ.endShedFor c hp
  · split
    · exact hJ.restoreOutcome c _ hp
    · exact hp

theorem consumerChanged (h : Settling I) (c : ConsumerNo) (old : ConsumerImage) (hp : Own I p) :
    Own I (consumerChanged c old p) := by
  unfold Machine.consumerChanged
  split
  · exact h.orderConfirmed c _ (h.own.dropFeedback c hp)
  · extract_lets now
    split
    · exact hp
    · exact h.own.externalChange c old hp

theorem consumerStatus (h : Settling I) (c : ConsumerNo) (closed : Bool) (kw : Nat) (limit : Option Nat) (hp : Own I p) :
    Own I (consumerStatus c closed kw limit p) := by
  unfold Machine.consumerStatus
  extract_lets old written shed
  have hshed : Own I shed := h.consumerChanged c old (h.own.same p written rfl le_rfl hp)
  split
  · exact hshed
  · exact h.own.drawReported c hshed

theorem tieStatus (h : Settling I) (t : TieNo) (closed : Bool) (hf : p.mapFollows) (hp : Own I p) : Own I (tieStatus t closed p) := by
  rw [mapFollows_iff] at hf
  unfold Machine.tieStatus
  extract_lets written
  have hwritten : Own I written := h.own.same p written rfl le_rfl hp
  split
  · exact hwritten
  · cases hphase : p.phase with
    | acquire =>
      have hnone : written.islandMap = none := (hf.1 hphase).1
      rw [tieChanged_of_none hnone]
      exact hwritten
    | run =>
      have hmap : MapHolds written := (hf.2 hphase).2
      exact h.ties written t closed hmap hwritten

theorem takeRecord (h : Settling I) (station : Nat) (bytes : List Byte) (hf : p.mapFollows) (hp : Own I p) :
    Own I (takeRecord station bytes p) := by
  have hJ := h.own
  unfold Machine.takeRecord
  split
  · exact hJ.occur _ _ hp
  case h_2 r _ =>
    split
    · exact hJ.occur _ _ hp
    · split
      · exact hJ.occur _ _ hp
      · cases r with
        | set k running closed kw trip => exact hJ.setStatus k running closed kw trip hp
        | consumer c closed kw limit => exact h.consumerStatus c closed kw limit hp
        | meter s voltage freq => exact hJ.same p _ rfl le_rfl hp
        | tie t closed => exact h.tieStatus t closed hf hp
        | heavy c kw => exact h.asks p c kw hp

/-! ### Requests -/

theorem tieWritten (h : Settling I) {old : PlantConfig} {t : TieNo} {todo : List TieNo} (ht : TiesTodo old (t :: todo) p)
    (hp : Own I p) : Own I (tieWritten old p t) := by
  have hJ := h.own
  have hreset : Own I (onTieImage t (fun _ => TieImage.reset) p) := hJ.same p _ rfl le_rfl hp
  unfold Machine.tieWritten
  extract_lets was reset
  split
  · exact hreset
  · split
    · cases hphase : p.phase with
      | acquire =>
        have hnone : reset.islandMap = none := (ht.1 hphase).1
        rw [tieChanged_of_none hnone]
        exact hreset
      | run =>
        have hmap : MapHolds reset := (ht.2 hphase).1
        exact h.ties reset t false hmap hreset
    · exact hreset
  · split
    · exact hp
    · exact hJ.remap _ hp
  · exact hp

theorem foldl_tieWritten (h : Settling I) {old : PlantConfig} (l : List TieNo) (hl : l.Nodup) (ht : TiesTodo old l p)
    (hp : Own I p) : Own I (l.foldl (Machine.tieWritten old) p) := by
  induction l generalizing p with
  | nil => exact hp
  | cons t l ih =>
    obtain ⟨hnot, hl⟩ := List.nodup_cons.mp hl
    exact ih hl (tieWritten_tiesTodo hnot ht) (h.tieWritten ht hp)

theorem writePlant (h : Settling I) (m : Masked) (hf : p.mapFollows) (hp : Own I p) : Own I (writePlant m p).part := by
  have hties := tiesTodo_written m hf
  generalize hq : ({ p with cfg := { p.cfg with plant := (writtenPlant m p.cfg.plant).value } } : Part) = q at hties
  have hwritten : Own I q := by
    rw [← hq]
    exact h.own.same p _ rfl le_rfl hp
  have hfold := h.foldl_tieWritten allTies (by decide) hties hwritten
  rw [← hq] at hfold
  exact h.own.writePlant m hfold

theorem serveOwn (h : Settling I) (r : Request) (serial : Nat) (hf : p.mapFollows) (hc : p.cfg.fits) (hp : Own I p) :
    Own I (serveOwn r serial p).part := by
  have hJ := h.own
  cases r with
  | identify | readFlags | readPlant => exact hp
  | readSet n => exact keeps_serveReadSet n hp
  | readConsumer n => exact keeps_serveReadConsumer n hp
  | readIsland s first => exact hJ.serveReadIsland s first hp
  | readContingency s n first => exact keeps_serveReadContingency s n first hp
  | readHistory s first => exact keeps_serveReadHistory s first hp
  | writeSet n mask fields => exact hJ.writeSet n _ hp
  | writeConsumer n mask fields => exact h.toPlacing.writeConsumer n _ hc hp
  | writePlant mask fields => exact h.writePlant _ hf hp
  | placeConsumer n position move fields => exact h.toPlacing.placeConsumer n position move fields hp
  | removeConsumer n => exact h.toPlacing.removeConsumer n hp
  | writeStandbyOrder sets => exact hJ.writeStandbyOrder sets hp
  | setMode n m => exact hJ.serveSetMode n m hp
  | commandSet n a => exact hJ.serveCommandSet n a hp
  | shedConsumer n => exact hJ.serveShed n hp
  | releaseConsumer n => exact hJ.serveRelease n hp
  | restoreStep s => exact hJ.serveRestoreStep s hp
  | clearFlags _ | enableFlags _ | grantReports _ | save | restart => exact hJ.same p _ rfl le_rfl hp

end Settling

end

end Sys2Proof.Proofs
end

section
/-! Every step keeps the heavy queues, the grants, the entries and the shed histories in order (R100, R114, R116, R119, R125, R126,
R156 to R158). -/

namespace Sys2Proof.Proofs

open Sys2Proof.Machine Sys2Proof.Claims Sequenced

/-! ### Heavy queues (R100, R116) -/

theorem apart_queuesFit : Apart Part.queuesFit := ⟨fun _ _ _ _ _ => rfl, fun _ _ _ _ _ => rfl, fun _ _ _ _ => rfl⟩

theorem edits_queuesFit : Edits Part.queuesFit where
  share _ _ h := h
  gov _ _ _ h := h
  selection _ _ h := h
  entry _ _ h := h
  inFlight _ _ h := h
  islands _ _ _ hv h := hv h
  occurs p k o h := (apart_queuesFit.occur k o p).mpr h
  handed p c a u _ h := (apart_queuesFit.handOver (.consumer c a) u p).mpr h
  dropped _ _ h := h
  setHanded p k a h := (apart_queuesFit.handOver (.set k a) false p).mpr h
  setJoined p k a h := (apart_queuesFit.joinQueues (.set k a) false p).mpr h
  setDropped _ _ h := h
  seqs _ _ _ h := h
  clocked _ _ h := h
  setImages _ _ h := h
  consumerImages _ _ h := h
  meterImages _ _ h := h
  tieImages _ _ _ h := h
  transmits _ _ h := h
  feedbacks _ _ h := h
  receives _ _ h := h
  arbitrates p h := (apart_queuesFit.arbitrate p).mpr h
  ties _ _ h := h
  mapped _ _ _ _ hv h := hv h
  seqFree _ _ h := h
  phased _ h := h
  config _ _ _ h := h

/-- A part that has no island record. -/
theorem no_island {p : Part} (h : p.islands = Vector.replicate 4 none) (i : IslandNo) : p.islands[i] = none := by
  rw [h]
  simp

theorem queuesFit_of_none {p : Part} (h : p.islands = Vector.replicate 4 none) : p.queuesFit := by
  intro i r hr
  rw [no_island h] at hr
  exact nomatch hr

theorem rests_queuesFit : Rests Part.queuesFit where
  toPlant := edits_queuesFit.toPlant
  desk _ _ _ _ _ _ _ _ _ _ _ _ h := h
  stores _ _ _ h := h
  starts _ _ _ _ _ _ _ _ := queuesFit_of_none rfl
  unpowers _ _ := queuesFit_of_none rfl
  holds _ h := h

/-! ### The transmitters and the supervisor line -/

namespace Orderly

variable {J : Part → Prop} {p : Part}

theorem arbitrate (h : Orderly J) (hp : J p) : J (Machine.arbitrate p) := by
  obtain ⟨t, x, y, e⟩ := arbitrate_eq p
  rw [e]
  exact h.same p _ rfl le_rfl hp

theorem sendNext (h : Orderly J) (hp : J p) : J (Machine.sendNext p) := by
  obtain ⟨rq, b, rp, r, t, n, e⟩ := sendNext_eq p
  rw [e]
  exact h.same p _ rfl le_rfl hp

theorem fieldBuffer (h : Orderly J) (buf : List Byte) (hp : J p) : J (Machine.fieldBuffer buf p) := h.same p _ rfl le_rfl hp

theorem supervisorBuffer (h : Orderly J) (buf : List Byte) (hp : J p) : J (Machine.supervisorBuffer buf p) :=
  h.same p _ rfl le_rfl hp

theorem fieldGapPassed (h : Orderly J) (hp : J p) : J (Machine.fieldGapPassed p) := by
  unfold Machine.fieldGapPassed
  split
  · exact hp
  · exact h.occur _ _ (h.fieldBuffer _ (h.reach _ hp))

theorem supervisorGapPassed (h : Orderly J) (hp : J p) : J (Machine.supervisorGapPassed p) := by
  unfold Machine.supervisorGapPassed
  split
  · exact hp
  · exact h.supervisorBuffer _ (h.reach _ hp)

theorem formReply (h : Orderly J) (serial : Nat) (kind tag : Byte) (code : ResultCode) (data : List Byte) (hp : J p) :
    J (Machine.formReply serial kind tag code data p) := h.same p _ rfl le_rfl hp

theorem joinRequests (h : Orderly J) (serial : Nat) (kind tag : Byte) (payload : List Byte) (c : Option RequestCondition) (hp : J p) :
    J (Machine.joinRequests serial kind tag payload c p) := h.same p _ rfl le_rfl hp

theorem replySent (h : Orderly J) (serial : Nat) (hp : J p) : J (Machine.replySent serial p) := h.same p _ rfl le_rfl hp

theorem saveReply (h : Orderly J) (serial : Nat) (code : ResultCode) (hp : J p) : J (Machine.saveReply serial code p) := by
  unfold Machine.saveReply
  split
  · exact h.same p _ rfl le_rfl hp
  · exact hp

theorem saveFails (h : Orderly J) (s : SaveInProgress) (hp : J p) : J (Machine.saveFails s p) :=
  h.saveReply _ _ (h.same p _ rfl le_rfl hp)

theorem saveCompared (h : Orderly J) (b : Bool) (hp : J p) : J (Machine.saveCompared b p) := by
  unfold Machine.saveCompared
  split
  · exact hp
  · split
    · exact h.saveReply _ _ (h.same p _ rfl le_rfl hp)
    · exact h.saveFails _ hp

theorem saveTimedOut (h : Orderly J) (hp : J p) : J (Machine.saveTimedOut p) := by
  unfold Machine.saveTimedOut
  split
  · exact hp
  · exact h.saveFails _ (h.reach _ hp)

end Orderly

/-! ### Every command -/

/-- The island map follows the ties, the configurations fit, and every consumer has its place. -/
structure Upheld (I : (ConsumerNo → Option IslandNo) → (ConsumerNo → Bool) → Part → Prop) (p : Part) : Prop where
  follows : p.mapFollows
  fits : p.configFits
  own : Own I p

section

variable {I : (ConsumerNo → Option IslandNo) → (ConsumerNo → Bool) → Part → Prop} {p q : Part}

/-- What keeps every condition of a step keeps the map and the configurations. -/
theorem Upheld.of (h : Upheld I p) (hw : ∀ {K : Part → Prop}, Whole K → K p → K q) (ho : Own I q) : Upheld I q :=
  ⟨hw whole_mapFollows h.follows, hw whole_configFits h.fits, ho⟩

namespace Settling

/-- A part that has just been reset. -/
theorem acquiring (h : Settling I) {q : Part} (hfits : q.cfg.fits) (hphase : q.phase = .acquire)
    (hentry : q.entry = Vector.replicate 48 EntryRecord.reset) (hislands : q.islands = Vector.replicate 4 none) : Own I q := by
  refine h.fresh _ _ q ?_ (fun c => ?_) fun i r hr => ?_
  · obtain ⟨-, -, -, -, hpair, -⟩ := hfits
    exact hpair
  · rw [entryExists_acquire hphase, hentry]
    simp [EntryRecord.reset]
  · rw [no_island hislands] at hr
    exact nomatch hr

theorem checkAcquire (h : Settling I) (hp : Upheld I p) : Upheld I (checkAcquire p) := by
  refine hp.of (fun hK hq => whole_checkAcquire hK hq) ?_
  unfold Machine.checkAcquire
  split
  case isTrue hc => exact h.endAcquire (beq_iff_eq.mp (Bool.and_eq_true_iff.mp hc).1) hp.own
  case isFalse => exact hp.own

theorem kick (h : Settling I) (hp : Upheld I p) : Upheld I (kick p) :=
  hp.of (fun hK hq => whole_kick hK hq) (h.own.sendNext (h.own.arbitrate (h.checkAcquire hp).own))

theorem whileRunning (h : Settling I) {f : Part → Part} (hf : Upheld I p → Upheld I (f p)) (hp : Upheld I p) :
    Upheld I (whileRunning f p) := by
  unfold Machine.whileRunning
  split
  · exact h.kick (hf hp)
  · exact hp

/-- A change of the units that keeps every condition of a step. -/
theorem event (h : Settling I) {f : Part → Part} (hw : ∀ {K : Part → Prop}, Whole K → K p → K (f p))
    (ho : Orderly (Own I) → Own I p → Own I (f p)) (hp : Upheld I p) : Upheld I (Machine.whileRunning f p) :=
  h.whileRunning (fun hp => hp.of hw (ho h.own hp.own)) hp

/-! ### Supply, reset and ACQUIRE -/

theorem coldStart (h : Settling I) (strap1 strap2 : Bool) (hp : Upheld I p) : Upheld I (Machine.coldStart strap1 strap2 p) := by
  have hfits : (loadedConfiguration p.store).fits := by
    unfold loadedConfiguration
    split
    · exact hp.fits.2
    · exact default_fits
  unfold Machine.coldStart
  refine h.kick (hp.of (fun hK hq => ?_) (h.acquiring hfits rfl rfl rfl))
  refine hK.starts p p.store.cutOff _ _ _ rfl ?_ hq
  unfold loadedConfiguration
  split
  · exact .inr (.inl rfl)
  · exact .inr (.inr rfl)

theorem restartTaken (h : Settling I) (hp : Upheld I p) : Upheld I (restartTaken p) := by
  unfold Machine.restartTaken
  exact h.kick (hp.of (fun hK hq => hK.starts p p.store _ _ _ rfl (.inl rfl) hq) (h.acquiring hp.fits.1 rfl rfl rfl))

theorem assertReset (h : Settling I) (hp : Upheld I p) : Upheld I (assertReset p) := by
  refine hp.of (fun hK hq => whole_assertReset hK hq) ?_
  unfold Machine.assertReset
  split
  all_goals exact h.own.same p _ rfl le_rfl hp.own

theorem releaseReset (h : Settling I) (strap1 strap2 : Bool) (hp : Upheld I p) : Upheld I (releaseReset strap1 strap2 p) := by
  have hreleased : Upheld I { p with resetAsserted := false } :=
    hp.of (fun hK hq => hK.pins p _ hq) (h.own.same p _ rfl le_rfl hp.own)
  unfold Machine.releaseReset
  split
  · exact h.coldStart strap1 strap2 hreleased
  · exact hreleased

theorem losePower (h : Settling I) (hp : Upheld I p) : Upheld I (Part.unpowered p.store p.resetAsserted) :=
  hp.of (fun hK hq => hK.unpowers p hq) (h.acquiring default_fits rfl rfl rfl)

theorem acquireExpired (h : Settling I) (hp : Upheld I p) : Upheld I (acquireExpired p) := by
  refine hp.of (fun hK hq => whole_acquireExpired hK hq) ?_
  unfold Machine.acquireExpired
  split
  case h_1 hphase _ => exact h.endAcquire hphase (h.own.reach _ hp.own)
  case h_2 => exact hp.own

/-! ### The field line -/

theorem fieldFrameArrived (h : Settling I) (frame : List Byte) (hp : Upheld I p) : Upheld I (fieldFrameArrived frame p) := by
  have hbad : Upheld I (occur .fieldFrameError .fieldLine p) := hp.of (fun hK hq => hK.occurs _ _ _ hq) (h.own.occur _ _ hp.own)
  unfold Machine.fieldFrameArrived
  split
  · split
    · refine fold_keeps _ _ (fun q r hq => h.kick ?_) hp
      exact hq.of (fun hK hk => hK.records _ _ _ hk) (h.takeRecord _ r hq.follows hq.own)
    · exact hbad
  · exact hbad

theorem fieldBuffer (h : Settling I) (buf : List Byte) (hp : Upheld I p) : Upheld I (fieldBuffer buf p) :=
  hp.of (fun hK hq => plant_fieldBuffer hK.toPlant buf hq) (h.own.fieldBuffer buf hp.own)

theorem fieldFrameError (h : Settling I) (hp : Upheld I p) : Upheld I (occur .fieldFrameError .fieldLine p) :=
  hp.of (fun hK hq => hK.occurs _ _ _ hq) (h.own.occur _ _ hp.own)

theorem fieldBytes (h : Settling I) (fuel : Nat) (bytes : List Byte) (hp : Upheld I p) : Upheld I (fieldBytes fuel bytes p) := by
  induction fuel generalizing bytes p with
  | zero => exact hp
  | succ n ih =>
    cases bytes with
    | nil => exact hp
    | cons b rest =>
      unfold Machine.fieldBytes
      split
      · exact ih _ (h.fieldBuffer _ hp)
      · exact ih _ (h.fieldFrameError (h.fieldBuffer _ hp))
      · exact ih _ (h.fieldFrameArrived _ (h.fieldBuffer _ hp))

theorem fieldFrameTaken (h : Settling I) (frame : List Byte) (hp : Upheld I p) : Upheld I (fieldFrameTaken frame p) := by
  unfold Machine.fieldFrameTaken
  extract_lets hunting
  have hhunting : Upheld I hunting := h.fieldBuffer [] hp
  split
  · exact h.fieldFrameArrived frame hhunting
  · exact h.fieldFrameError hhunting

theorem fieldHeaderRejected (h : Settling I) (bytes : List Byte) (hp : Upheld I p) : Upheld I (fieldHeaderRejected bytes p) :=
  h.fieldBytes _ bytes (h.fieldBuffer [] hp)

/-! ### The supervisor line -/

theorem serve (h : Settling I) (kind : Byte) (payload : List Byte) (serial : Nat) (hp : Upheld I p) :
    Own I (serve kind payload serial p).1.part := by
  unfold Machine.serve
  split
  · exact hp.own
  · split
    · exact hp.own
    · exact h.serveOwn _ serial hp.follows hp.fits.1 hp.own

theorem serveAccepted (h : Settling I) (serial : Nat) (kind tag : Byte) (payload : List Byte) (hp : Upheld I p) :
    Own I (serveAccepted serial kind tag payload p) := by
  have hserved := h.serve kind payload serial hp
  unfold Machine.serveAccepted
  extract_lets s
  split
  · exact h.own.joinRequests _ _ _ _ _ hserved
  · exact h.own.formReply _ _ _ _ _ (h.own.joinRequests _ _ _ _ _ hserved)

theorem acceptRequest (h : Settling I) (kind tag : Byte) (payload : List Byte) (hp : Upheld I p) :
    Upheld I (acceptRequest kind tag payload p) := by
  have hnumbered : Upheld I { p with nextRequest := p.nextRequest + 1 } :=
    hp.of (fun hK hq => hK.numbers p _ hq) (h.own.same p _ rfl le_rfl hp.own)
  refine hp.of (fun hK hq => whole_acceptRequest hK kind tag payload hq) ?_
  simp only [Machine.acceptRequest]
  split
  · split
    · exact h.own.joinRequests _ _ _ _ _ hnumbered.own
    · exact h.serveAccepted _ kind tag payload hnumbered
  · split
    · simp only [turnAway]
      split
      all_goals exact h.own.same p _ rfl le_rfl hp.own
    · exact hp.own

theorem supervisorFrameArrived (h : Settling I) (frame : List Byte) (hp : Upheld I p) : Upheld I (supervisorFrameArrived frame p) := by
  unfold Machine.supervisorFrameArrived
  split
  · exact h.acceptRequest _ _ _ hp
  · exact hp

theorem supervisorBuffer (h : Settling I) (buf : List Byte) (hp : Upheld I p) : Upheld I (supervisorBuffer buf p) :=
  hp.of (fun hK hq => hK.hears p _ hq) (h.own.supervisorBuffer buf hp.own)

theorem supervisorBytes (h : Settling I) (fuel : Nat) (bytes : List Byte) (hp : Upheld I p) :
    Upheld I (supervisorBytes fuel bytes p) := by
  induction fuel generalizing bytes p with
  | zero => exact hp
  | succ n ih =>
    cases bytes with
    | nil => exact hp
    | cons b rest =>
      unfold Machine.supervisorBytes
      split
      · exact ih _ (h.supervisorBuffer _ hp)
      · exact ih _ (h.supervisorBuffer _ hp)
      · exact ih _ (h.kick (h.supervisorFrameArrived _ (h.supervisorBuffer _ hp)))

theorem supervisorFrameTaken (h : Settling I) (frame : List Byte) (hp : Upheld I p) : Upheld I (supervisorFrameTaken frame p) := by
  unfold Machine.supervisorFrameTaken
  extract_lets hunting
  have hhunting : Upheld I hunting := h.supervisorBuffer [] hp
  split
  · exact h.supervisorFrameArrived frame hhunting
  · exact hhunting

theorem supervisorHeaderRejected (h : Settling I) (bytes : List Byte) (hp : Upheld I p) :
    Upheld I (supervisorHeaderRejected bytes p) := h.supervisorBytes _ bytes (h.supervisorBuffer [] hp)

theorem supervisorSent (h : Settling I) (hp : Upheld I p) : Upheld I (supervisorSent p) := by
  have hidle : Upheld I { p with supTx := none } := hp.of (fun hK hq => hK.idles p hq) (h.own.same p _ rfl le_rfl hp.own)
  simp only [Machine.supervisorSent]
  split
  · exact hp
  · split
    · exact hidle
    · split
      · exact h.restartTaken hidle
      · exact hidle.of (fun hK hq => hK.ends _ _ hq) (h.own.replySent _ hidle.own)

/-! ### Every command and every step -/

/-- What the field station, the supervisor and the supply bring. -/
theorem exec (h : Settling I) (c : Instr) {s t : State} (hs : Upheld I s.part) (ht : Machine.exec c s = .next t) :
    Upheld I t.part := by
  have hpart (f : Part → Part) (hf : Upheld I (f s.part)) (ht : onPart f s = .next t) : Upheld I t.part := by
    simp only [onPart, Host.Outcome.next.injEq] at ht
    subst ht
    exact hf
  have hrunning {f : Part → Part} (ht : running f s = .next t) (hf : Upheld I s.part → Upheld I (f s.part)) : Upheld I t.part :=
    hpart _ (h.whileRunning hf hs) ht
  have hevent {f : Part → Part} (ht : running f s = .next t) (hw : ∀ {K : Part → Prop}, Whole K → K s.part → K (f s.part))
      (ho : Orderly (Own I) → Own I s.part → Own I (f s.part)) : Upheld I t.part := hpart _ (h.event hw ho hs) ht
  have hreq : ∀ kind tag payload, request kind tag payload s = .next t → Upheld I t.part := fun kind tag payload hr =>
    hrunning hr fun hq => h.acceptRequest _ _ _ hq
  cases c with
  | powerOn a b => exact hpart _ (h.coldStart a b hs) ht
  | resetAssert => exact hpart _ (h.assertReset hs) ht
  | resetRelease a b => exact hpart _ (h.releaseReset a b hs) ht
  | powerLoss => exact hpart _ (h.losePower hs) ht
  | acquireTimerExpiry => exact hrunning ht h.acquireExpired
  | fieldFrameHeaderReject bytes => exact hrunning ht (h.fieldHeaderRejected bytes)
  | fieldFrameGapTimeout => exact hevent ht (fun hK hq => plant_fieldGapPassed hK.toPlant hq) fun hJ hq => hJ.fieldGapPassed hq
  | fieldFrameReceived frame => exact hrunning ht (h.fieldFrameTaken frame)
  | fieldByteReceived b => exact hrunning ht (h.fieldBytes _ _)
  | staleTimerExpiry o => exact hevent ht (fun hK hq => plant_staleExpired hK.toPlant o hq) fun hJ hq => hJ.staleExpired o hq
  | orderFrameSent => exact hevent ht (fun hK hq => plant_orderSent hK.toPlant hq) fun hJ hq => hJ.orderSent hq
  | feedbackTimeout c => exact hevent ht (fun hK hq => plant_feedbackExpired hK.toPlant c hq) fun hJ hq => hJ.feedbackExpired c hq
  | startTimerExpiry k =>
    exact hevent ht (fun hK hq => plant_startTimer hK.toPlant k hq) fun hJ hq => hJ.setTimerExpired _ _ k (startExpired_steps k) hq
  | syncTimerExpiry k =>
    exact hevent ht (fun hK hq => plant_syncTimer hK.toPlant k hq) fun hJ hq =>
      hJ.setTimerExpired _ _ k (blockedWith_steps .syncFail k) hq
  | openTimerExpiry k =>
    exact hevent ht (fun hK hq => plant_openTimer hK.toPlant k hq) fun hJ hq => hJ.setTimerExpired _ _ k (openExpired_steps k) hq
  | stopTimerExpiry k =>
    exact hevent ht (fun hK hq => plant_stopTimer hK.toPlant k hq) fun hJ hq => hJ.setTimerExpired _ _ k (stopExpired_steps k) hq
  | sharePeriod i => exact hevent ht (fun hK hq => plant_sharePeriodDue hK.toPlant i hq) fun hJ hq => hJ.sharePeriodDue i hq
  | subPulseStart k => exact hevent ht (fun hK hq => plant_beginSubPulse hK.toPlant k hq) fun hJ hq => hJ.beginSubPulse k hq
  | subPulseEnd k => exact hevent ht (fun hK hq => plant_endSubPulse hK.toPlant k hq) fun hJ hq => hJ.endSubPulse k hq
  | startConfirmExpiry i =>
    exact hevent ht (fun hK hq => plant_startConfirm hK.toPlant i hq) fun hJ hq =>
      hJ.reserveTimerExpired _ _ i (fun _ _ hr => hJ.startConfirmExpired i _ hr) hq
  | stopDelayExpiry i =>
    exact hevent ht (fun hK hq => plant_stopDelay hK.toPlant i hq) fun hJ hq =>
      hJ.reserveTimerExpired _ _ i (fun _ _ hr => hJ.stopDelayExpired i _ hr) hq
  | headDeadlineExpiry i =>
    exact hevent ht (fun hK hq => plant_headDeadlinePassed hK.toPlant i hq) fun hJ hq => hJ.headDeadlinePassed i hq
  | holdDeadlineExpiry c =>
    exact hevent ht (fun hK hq => plant_holdDeadlinePassed hK.toPlant c hq) fun hJ hq => hJ.holdDeadlinePassed c hq
  | checkTimerExpiry i => exact hevent ht (fun hK hq => plant_checkPassed hK.toPlant i hq) fun hJ hq => hJ.checkPassed i hq
  | confirmTimerExpiry i => exact hevent ht (fun hK hq => plant_pacerPassed hK.toPlant _ i hq) fun hJ hq => hJ.pacerPassed _ i hq
  | settleTimerExpiry i => exact hevent ht (fun hK hq => plant_pacerPassed hK.toPlant _ i hq) fun hJ hq => hJ.pacerPassed _ i hq
  | restoreTimerExpiry i => exact hevent ht (fun hK hq => plant_restorePassed hK.toPlant i hq) fun hJ hq => hJ.restorePassed i hq
  | supervisorHeaderReject bytes => exact hrunning ht (h.supervisorHeaderRejected bytes)
  | supervisorGapTimeout => exact hevent ht (fun hK hq => whole_supervisorGapPassed hK hq) fun hJ hq => hJ.supervisorGapPassed hq
  | supervisorFrameReceived frame => exact hrunning ht (h.supervisorFrameTaken frame)
  | supervisorByteReceived b => exact hrunning ht (h.supervisorBytes _ _)
  | supervisorFrameSent => exact hrunning ht h.supervisorSent
  | saveComplete b => exact hevent ht (fun hK hq => whole_saveCompared hK b hq) fun hJ hq => hJ.saveCompared b hq
  | saveTimeout => exact hevent ht (fun hK hq => whole_saveTimedOut hK hq) fun hJ hq => hJ.saveTimedOut hq
  | _ => exact hreq _ _ _ ht

theorem step (h : Settling I) {s t : State} (hs : Upheld I s.part) (ht : Machine.step s = .next t) : Upheld I t.part := by
  refine hs.of (fun hK hq => whole_step hK hq ht) ?_
  unfold Machine.step at ht
  split at ht
  · simp only [Host.Outcome.next.injEq] at ht
    subst ht
    unfold tick
    split
    · exact h.own.same s.part _ rfl (Nat.le_succ _) hs.own
    · exact hs.own
  case h_2 rest _ => exact (h.exec _ (s := { s with pending := rest }) hs ht).own

end Settling

end

/-- Settles O55: of the heavy queues by the updates that keep their lengths and deadlines; of the places of the consumers, their
entries and their records by what each event does to them, with the islands that the map gives and the listed entries. -/
theorem stepKeepsQueuesFit : Obligations.StepKeepsQueuesFit := by
  unfold Obligations.StepKeepsQueuesFit
  have hlisted {p : Part} (h : p.configFits) : ListedOnce p := by
    obtain ⟨⟨-, -, -, -, hpair, -⟩, -⟩ := h
    exact hpair
  refine ⟨fun s t hs ht => whole_step (rests_queuesFit.wholeOfEdits edits_queuesFit) hs ht, fun s t hmap hfits hheavy ht => ?_,
    fun s t hmap hfits hentries hhistories ht => ?_⟩
  · have hupheld : Upheld (fun m _ => HeavyBy m) s.part :=
      ⟨hmap, hfits, (heavyHolds_iff s.part).mpr ⟨hlisted hfits, hheavy⟩⟩
    exact ((heavyHolds_iff t.part).mp (heavyBy_settling.step hupheld ht).own).2
  · have hupheld : Upheld RecordsBy s.part :=
      ⟨hmap, hfits, (recordsHold_iff s.part).mpr ⟨hlisted hfits, hentries, hhistories⟩⟩
    exact ((recordsHold_iff t.part).mp (recordsBy_settling.step hupheld ht).own).2

end Sys2Proof.Proofs
end
